-- ==== Sys2Proof/Word.lean ====
section
/-! DEFINITION. The words of the AHS-2048 (R5, R6, R14): a 64-bit word, a byte, a vector, and the identifiers of R14. -/

namespace Sys2Proof

/-- A 64-bit word: a scalar register, a setup register, a job address (R13, R50). -/
abbrev Word := BitVec 64

/-- A byte; byte 0 of a value lies at the lowest address (R6). -/
abbrev Byte := BitVec 8

/-- A 512-bit vector register (R50). -/
abbrev Vec := BitVec 512

/-- A cluster identifier: [6:4] die, [3] row, [2:0] column (R14). -/
abbrev ClusterId := BitVec 7

/-- A core identifier: [10:4] cluster, [3:0] core within cluster (R14). -/
abbrev CoreId := BitVec 11

/-- A thread identifier: [12:2] core, [1:0] thread context (R14). -/
abbrev ThreadId := BitVec 13

/-- A queue identifier: [17:7] core, [6:0] queue within core (R14). -/
abbrev QueueId := BitVec 18

/-- A 6-bit register field of a slot (R92). -/
abbrev Spec := BitVec 6

end Sys2Proof
end

