-- ==== Sys2Proof/Syntax.lean ====
section
/-! DEFINITION. The commands of the AHS-2048: one constructor of Instr per row of the table of operations and events, with its operands. -/

namespace Sys2Proof

/-- The six slots of a bundle, in the order of R74. -/
inductive Slot where
  | s | v | m | l | t | y
  deriving DecidableEq, Repr

/-- The guard field of a slot (R89, R90): the predicate named and its inversion. -/
structure Guard where
  inv : Bool
  pred : BitVec 3
  deriving DecidableEq, Repr

/-- Who issues a slot instruction: the thread and the guard of the slot (R89). -/
structure Issue where
  thread : ThreadId
  guard : Guard
  deriving DecidableEq, Repr

/-- The last operand of the forms that take a register or a 16-bit immediate (R97: SR or SI). -/
inductive RegImm where
  | reg (b : Spec)
  | imm (v : BitVec 16)
  deriving DecidableEq, Repr

/-- The source of MOV: a register, or the imm22 of MOVI (R98). -/
inductive MovSrc where
  | reg (a : Spec)
  | imm (v : BitVec 22)
  deriving DecidableEq, Repr

/-- A floating-point lane type: D is FP64, S is FP32, BF is BF16 (R95). -/
inductive FpFmt where
  | d | s | bf
  deriving DecidableEq, Repr

/-- The access forms of LDS and LDG (R98). -/
inductive LoadForm where
  | b | bu | h | hu | w | wu | d
  deriving DecidableEq, Repr

/-- The access forms of STS and STG (R98). -/
inductive StoreForm where
  | b | h | w | d
  deriving DecidableEq, Repr

/-- The access forms of AMO (R101). -/
inductive AmoForm where
  | d | w | h
  deriving DecidableEq, Repr

/-- The fields of a VR format (R104). -/
structure VR where
  d : Spec
  a : Spec
  b : Spec
  c : Spec
  m : BitVec 4
  deriving DecidableEq, Repr

/-- A local-memory operand: stride descriptor, address mode, unit (R108 to R110). -/
structure LmOp where
  sd : BitVec 3
  mode : BitVec 2
  lm13 : BitVec 13
  deriving DecidableEq, Repr

/-- A write of a register of the control range: the byte within the register, the size in bytes and the value (R13). -/
structure RegAccess where
  at_ : Nat
  size : Nat
  value : Word
  deriving DecidableEq, Repr

/-- Who sends an access: a host port, the steward firmware, a thread, or a peer module. -/
inductive Who where
  | host (port : Bool)
  | firmware
  | thread (t : ThreadId)
  | peer (m : BitVec 16)
  deriving DecidableEq, Repr

/-- A reset domain (R604, R624). -/
inductive Domain where
  | thread (t : ThreadId)
  | core (c : CoreId)
  | cluster (q : ClusterId)
  | die (k : BitVec 3)
  | stack (s : BitVec 5)
  | link (l : BitVec 7)
  | module
  deriving DecidableEq, Repr

/-- A packet of the fabric, field by field (R513, R514). -/
structure Packet where
  src : BitVec 16
  dst : BitVec 16
  len : BitVec 9
  rev : BitVec 6
  order : BitVec 3
  poison : Bool
  vcd : Bool
  cls : BitVec 3
  type : Byte
  op : Byte
  status : Byte
  k : BitVec 3
  ftag : BitVec 12
  replay : BitVec 2
  traffic : BitVec 3
  epoch : Byte
  job : BitVec 16
  word2 : Word
  data : List Byte
  deriving DecidableEq, Repr

/-- A link codeword as it leaves the lanes: the number of symbols received wrong, the 20-bit header and the 640 bytes (R503, R507). -/
structure Codeword where
  symbolErrors : Nat
  kind : BitVec 4
  seq : Byte
  ack : Byte
  bytes : List Byte
  deriving DecidableEq, Repr

/-- Where a control message comes from: the control network of this module, or a link (R363). -/
inductive MsgSrc where
  | inFlight (id : Nat)
  | fromLink (link : BitVec 7) (p : Packet)
  deriving DecidableEq, Repr

/-- What has happened to a stored granule since it was last accessed (R386 to R389): a single-bit or a double-bit error. -/
inductive Upset where
  | ce
  | ue
  deriving DecidableEq, Repr

/-- An error of a cache line: a correctable or an uncorrectable one in one of its eight 8-byte words, or a parity error of its tag (R391, R395, R397, R404). In the
instruction cache either error of a word is a parity error of the bundle that holds the word. -/
inductive LineUpset where
  | ce (word : BitVec 3)
  | ue (word : BitVec 3)
  | tag
  deriving DecidableEq, Repr

/-- An error of a line of an instruction or data cache: core, line address, kind. -/
structure CacheUpset where
  core : Nat
  line : Nat
  kind : LineUpset
  deriving DecidableEq, Repr

/-- Physical upsets that have happened in the storage that an event reads: symbol errors of HBM lines (line address, symbol, difference),
errors of SRAM granules (address), of accumulator cells (thread, 256 times the accumulator and the cell), of tiles (thread, tile), of queue-store entries (core, entry),
of instruction-cache and data-cache lines. -/
structure Upsets where
  symbols : List (Nat × Nat × BitVec 16) := []
  granules : List (Nat × Upset) := []
  accs : List (Nat × Nat) := []
  tiles : List (Nat × Nat) := []
  entries : List (Nat × Nat) := []
  icLines : List CacheUpset := []
  dcLines : List CacheUpset := []
  deriving DecidableEq, Repr

/-- A turn of an access, a chunk or a packet: how many of its 8-byte units it performs, and the upsets that it meets (R450). -/
structure Turn where
  units : Nat := 0
  upsets : Upsets := {}
  deriving DecidableEq, Repr

/-- A request to a target on this module that times out (R598): an access by its number, the requests of the chunk that holds a tag, or a core's instruction fetch. -/
inductive MeshReq where
  | access (id : Nat)
  | chunk (cluster : ClusterId) (tag : Nat)
  | fetch (core : CoreId)
  deriving DecidableEq, Repr

/-- A turn of the chunk that holds a tag (R420, R450). -/
structure TagTurn where
  tag : Nat
  turn : Turn := {}
  deriving DecidableEq, Repr

/-- A fabric tag of the router of a compute die (R513). -/
structure FabTag where
  die : BitVec 3
  tag : BitVec 12
  deriving DecidableEq, Repr

/-- The answer of host memory to a read: its bytes, or an error or poison (R556). -/
inductive HostData where
  | bytes (d : List Byte)
  | error
  | poison
  deriving DecidableEq, Repr

/-- A host access through BAR4 (R542): a read of a number of bytes, or a write of bytes, poisoned or not. -/
inductive BarOp where
  | read (n : Nat)
  | write (d : List Byte) (poison : Bool)
  deriving DecidableEq, Repr

/-- The interface on which a message of R674 arrives: the DOE mailbox of a port, or I3C. -/
inductive Mailbox where
  | doe (port : Bool)
  | i3c
  deriving DecidableEq, Repr

/-- What begins a request (R674): the command byte and the payload length of a message, or a DOE Discovery request with its index. -/
inductive MailHead where
  | message (command : Byte) (length : BitVec 16)
  | discovery (index : Byte)
  deriving DecidableEq, Repr

/-- A request as it arrives: where, and how it begins. -/
structure Mail where
  box : Mailbox
  head : MailHead
  deriving DecidableEq, Repr

/-- A JTAG instruction (R687): with SAMPLE/PRELOAD go the levels preloaded for FATAL_N and PWR_FAIL_N; `other`: any other instruction. -/
inductive JtagInstr where
  | bypass
  | samplePreload (fatal pwrFail : Bool)
  | extest
  | idcode
  | other
  deriving DecidableEq, Repr

/-- The commands. Every constructor is one row of the table of operations and events. -/
inductive Instr where
  -- module: registers, networks, barriers (files 00, 01)
  | setupRegisterWrite (who : Who) (off : Nat) (size : Nat) (value : Word)
  | readClearFieldRead (who : Who) (off : Nat) (size : Nat)
  | meshFlitRetry (tile : ClusterId)
  | clockStretch (tile : ClusterId) (periods : Nat)
  | stewardBridgeFailover (bridge : Bool)
  | dbgBarmemWrite (thread : ThreadId) (w : BitVec 2) (acc : RegAccess)
  | barrierComplete (group : BitVec 8)
  -- core issue and results (files 02, 03)
  | bundleIssue (core : CoreId) (ups : Upsets)
  | fetchMissFill (core : CoreId) (ups : Upsets)
  | resultLanding (thread : ThreadId) (residue : Bool)
  | pendingResultArrival (id : Nat)
  | threadSwitch (core : CoreId)
  | quantumExpiry (core : CoreId)
  -- scalar slot (file 04)
  | nop (i : Issue) (slot : Slot)
  | add (i : Issue) (d a : Spec) (b : RegImm)
  | sub (i : Issue) (d a b : Spec)
  | and (i : Issue) (d a : Spec) (b : RegImm)
  | or (i : Issue) (d a : Spec) (b : RegImm)
  | xor (i : Issue) (d a : Spec) (b : RegImm)
  | shl (i : Issue) (d a : Spec) (b : RegImm)
  | shr (i : Issue) (d a : Spec) (b : RegImm)
  | sra (i : Issue) (d a : Spec) (b : RegImm)
  | mov (i : Issue) (d : Spec) (src : MovSrc)
  | movk (i : Issue) (d h : Spec) (imm : BitVec 16)
  | sel (i : Issue) (d a b : Spec) (m : BitVec 4)
  | cmpeq (i : Issue) (d a : Spec) (b : RegImm)
  | cmpne (i : Issue) (d a b : Spec)
  | cmplt (i : Issue) (d a : Spec) (b : RegImm)
  | cmpltu (i : Issue) (d a : Spec) (b : RegImm)
  | cmple (i : Issue) (d a b : Spec)
  | cmpleu (i : Issue) (d a b : Spec)
  | mul (i : Issue) (d a b : Spec)
  | mulh (i : Issue) (unsigned : Bool) (d a b : Spec)
  | div (i : Issue) (unsigned : Bool) (d a b : Spec)
  | rem (i : Issue) (unsigned : Bool) (d a b : Spec)
  | bfx (i : Issue) (d a pos len1 : Spec) (m : BitVec 4)
  | bfi (i : Issue) (d a pos len1 : Spec) (m : BitVec 4)
  | clz (i : Issue) (d a : Spec)
  | bperm (i : Issue) (d a b c : Spec)
  | fadd (i : Issue) (dbl : Bool) (d a b : Spec) (m : BitVec 4)
  | fmul (i : Issue) (dbl : Bool) (d a b : Spec) (m : BitVec 4)
  | fma (i : Issue) (dbl : Bool) (d a b c : Spec) (m : BitVec 4)
  | fdiv (i : Issue) (dbl : Bool) (d a b : Spec) (m : BitVec 4)
  | fsqrt (i : Issue) (dbl : Bool) (d a : Spec) (m : BitVec 4)
  | fmin (i : Issue) (dbl : Bool) (d a b : Spec)
  | fmax (i : Issue) (dbl : Bool) (d a b : Spec)
  | fcmp (i : Issue) (dbl : Bool) (d a b : Spec) (m : BitVec 4)
  | fcvt (i : Issue) (d a c : Spec) (m : BitVec 4)
  | lds (i : Issue) (form : LoadForm) (d a : Spec) (imm : BitVec 16)
  | sts (i : Issue) (form : StoreForm) (d a : Spec) (imm : BitVec 16)
  | ldg (i : Issue) (form : LoadForm) (d a : Spec) (imm : BitVec 16)
  | stg (i : Issue) (form : StoreForm) (d a : Spec) (imm : BitVec 16)
  | amo (i : Issue) (form : AmoForm) (d a b c : Spec) (m : BitVec 4)
  | cpre (i : Issue) (a : Spec) (imm : BitVec 16)
  | cinv (i : Issue) (a : Spec) (imm : BitVec 16)
  | br (i : Issue) (off : BitVec 28)
  | call (i : Issue) (d : Spec) (off : BitVec 22)
  | bri (i : Issue) (a : Spec)
  | calli (i : Issue) (d a : Spec)
  | loop (i : Issue) (a : Spec) (lvl : BitVec 2) (e : BitVec 20)
  | loopi (i : Issue) (cnt : BitVec 12) (lvl : BitVec 2) (e : BitVec 14)
  | crr (i : Issue) (r : Spec) (crn : BitVec 12)
  | crw (i : Issue) (r : Spec) (crn : BitVec 12)
  | rte (i : Issue)
  | wdt (i : Issue) (a b : Spec)
  | userDefinedOpcode (i : Issue) (vslot : Bool) (e : BitVec 5) (o : VR)
  -- vector slot
  | vadd (i : Issue) (o : VR)
  | vsub (i : Issue) (o : VR)
  | vand (i : Issue) (o : VR)
  | vor (i : Issue) (o : VR)
  | vxor (i : Issue) (o : VR)
  | vshl (i : Issue) (o : VR)
  | vshr (i : Issue) (o : VR)
  | vsra (i : Issue) (o : VR)
  | vmov (i : Issue) (o : VR)
  | vbcast (i : Issue) (o : VR)
  | vcmpeq (i : Issue) (o : VR)
  | vcmplt (i : Issue) (o : VR)
  | vcmpltu (i : Issue) (o : VR)
  | vmop (i : Issue) (o : VR)
  | vms (i : Issue) (o : VR)
  | vsm (i : Issue) (o : VR)
  | vfadd (i : Issue) (fmt : FpFmt) (o : VR)
  | vfmul (i : Issue) (fmt : FpFmt) (o : VR)
  | vfma (i : Issue) (fmt : FpFmt) (o : VR)
  | vmin (i : Issue) (fmt : FpFmt) (o : VR)
  | vmax (i : Issue) (fmt : FpFmt) (o : VR)
  | vfcmp (i : Issue) (fmt : FpFmt) (o : VR)
  | vcvt (i : Issue) (d a : Spec) (src dst : BitVec 3) (rnd : BitVec 2) (m : BitVec 4)
  | vred (i : Issue) (o : VR)
  | vperm (i : Issue) (o : VR)
  | vtr (i : Issue) (o : VR)
  | trv (i : Issue) (o : VR)
  -- matrix slot
  | tcfg (i : Issue) (t : BitVec 3) (rows1 : BitVec 4) (rb1 : BitVec 6) (fmt : BitVec 4) (scale : BitVec 3)
  | acfg (i : Issue) (acc : BitVec 2) (type : BitVec 2)
  | mma (i : Issue) (fmt : BitVec 4) (acc : BitVec 2) (ta tb : BitVec 3)
  | accrd (i : Issue) (t : BitVec 3) (acc : BitVec 2) (fmt : BitVec 4) (rnd : BitVec 2) (half : Bool)
  | accz (i : Issue) (acc : BitVec 2)
  | tcvt (i : Issue) (td ta : BitVec 3) (fmt : BitVec 4) (rnd : BitVec 2)
  | ttr (i : Issue) (td ta : BitVec 3)
  -- L and T slots
  | tll (i : Issue) (t : BitVec 3) (o : LmOp)
  | vld (i : Issue) (d : Spec) (o : LmOp)
  | tlg (i : Issue) (t : BitVec 3) (base stride : Spec)
  | tlgRowArrival (thread : ThreadId) (step : Nat) (ups : Upsets)
  | vldg (i : Issue) (d base : Spec) (imm : BitVec 16)
  | tsl (i : Issue) (t : BitVec 3) (o : LmOp)
  | vst (i : Issue) (v : Spec) (o : LmOp)
  | accst (i : Issue) (acc : BitVec 2) (o : LmOp) (fmt : BitVec 4) (rnd : BitVec 2) (half : Bool)
  | tsg (i : Issue) (t : BitVec 3) (base stride : Spec)
  | tsgStepComplete (thread : ThreadId) (step : Nat)
  | vstg (i : Issue) (v base : Spec) (imm : BitVec 16)
  | put (i : Issue) (d l : Spec) (len1 : BitVec 8)
  | putAck (id : Nat)
  -- Y slot
  | send (i : Issue) (ch : BitVec 7) (a b : Spec)
  | sendt (i : Issue) (ch : BitVec 7) (a b : Spec) (p : BitVec 3)
  | commit (i : Issue) (ch : BitVec 7)
  | qsel (i : Issue) (d a b : Spec) (window : BitVec 4) (rotation : Bool)
  | fork (i : Issue) (d a b : Spec)
  | join (i : Issue) (a : Spec)
  | exit (i : Issue)
  | contextFree (thread : ThreadId)
  | barArrive (i : Issue) (group : BitVec 8)
  | barWait (i : Issue) (group : BitVec 8)
  | fenceC (i : Issue)
  | fenceM (i : Issue)
  | fenceF (i : Issue)
  | evwait (i : Issue) (a b : Spec)
  -- exceptions, threads and the debug unit (files 10, 11)
  | exceptionEntry (thread : ThreadId)
  | framePushComplete (thread : ThreadId)
  | rteFrameReadComplete (thread : ThreadId)
  | waitdog (core : CoreId)
  | halt (core : CoreId) (ctx : BitVec 2)
  | resume (core : CoreId) (ctx : BitVec 2)
  | save (core : CoreId) (ctx : BitVec 2)
  | restore (core : CoreId) (ctx : BitVec 2)
  | kill (core : CoreId) (ctx : BitVec 2)
  | confineOn (core : CoreId)
  | confineOff (core : CoreId)
  | debugOperationComplete (core : CoreId)
  -- queues and channels (file 12)
  | queueOpen (queue : QueueId) (value : Word)
  | queueClose (queue : QueueId) (value : Word)
  | channelOpen (thread : ThreadId) (ep : BitVec 7) (value : Word)
  | channelClose (thread : ThreadId) (ep : BitVec 7) (value : Word)
  | channelOpenTimeout (thread : ThreadId) (ep : BitVec 7)
  | greq (src : MsgSrc)
  | grant (src : MsgSrc)
  | rel (src : MsgSrc)
  | msg (src : MsgSrc)
  | cret (src : MsgSrc)
  | gone (src : MsgSrc)
  -- caches and scrubbers (files 13, 16)
  | dataCacheFill (core : CoreId) (line : Nat) (ups : Upsets)
  | unlock (core : CoreId)
  | icinv (core : CoreId)
  | dcinv (core : CoreId)
  | sramPatrolScrub (cluster : ClusterId) (granule : Nat) (up : Option Upset)
  | hbmPatrolScrub (port : ClusterId) (line : Nat) (symbols : List (Nat × BitVec 16))
  -- stream engine (file 14)
  | strmSubmit (id : Nat)
  | chunkIssue (cluster : ClusterId) (host : Option HostData) (ups : Turn)
  | chunkComplete (cluster : ClusterId) (tag : TagTurn)
  | descriptorPost (cluster : ClusterId) (queue : Nat)
  | mcastAck (cluster : ClusterId) (tag : TagTurn) (receiver : ClusterId) (error : Bool)
  | mcastTimeout (cluster : ClusterId) (queue : Nat)
  -- memory (files 15, 16)
  | globalAccessPerform (id : Nat) (host : Option HostData) (ups : Turn)
  | amoPerform (id : Nat) (ups : Upsets)
  | writeAck (id : Nat)
  | translationWalk (core : CoreId) (xbase : Word) (addr : Word)
  | hbmPlaceWrite (j : BitVec 5) (acc : RegAccess)
  -- fabric (file 17); a link is 8b + k
  | codewordReceive (link : BitVec 7) (cw : Codeword)
  | nak (link : BitVec 7) (ack : Byte)
  | replayTimeout (link : BitVec 7)
  | linkSilenceTimeout (link : BitVec 7)
  | linkUceLimit (link : BitVec 7)
  | linkTrained (link : BitVec 7) (peer : BitVec 16) (pbundle : BitVec 4) (lanes : BitVec 4) (margin : Byte)
  | laneFailure (link : BitVec 7) (lane : BitVec 2)
  | linkModeChange (link : BitVec 7) (mode : BitVec 2)
  | lctrlCreditReturn (link : BitVec 7) (counts : List (BitVec 16))
  | timeExchangeTimer (link : BitVec 7)
  | timeRequest (link : BitVec 7)
  | timeReply (link : BitVec 7) (t2 t3 : Int)
  | wr (link : BitVec 7) (p : Packet) (ups : Turn)
  | rd (link : BitVec 7) (p : Packet) (host : Option HostData) (ups : Turn)
  | amoRequest (link : BitVec 7) (p : Packet) (ups : Upsets)
  | evadd (link : BitVec 7) (p : Packet)
  | ack (link : BitVec 7) (p : Packet)
  | rdr (link : BitVec 7) (p : Packet)
  | amor (link : BitVec 7) (p : Packet)
  | bypass (link : BitVec 7) (p : Packet)
  | roadblock (link : BitVec 7) (p : Packet)
  | peerLost (link : BitVec 7) (p : Packet)
  | ready (link : BitVec 7) (p : Packet)
  | linkstate (link : BitVec 7) (p : Packet)
  | transactionTimeout (ftag : FabTag)
  | packetStuck (link : BitVec 7)
  | peerLostDetect (bundle : BitVec 4)
  | floodKeyExpiry (die : BitVec 3)
  | fabIdWrite (acc : RegAccess)
  -- host queue engine (file 18)
  | submissionDoorbell (port : Bool) (ring : BitVec 12) (size : Nat) (value : Word)
  | completionDoorbell (port : Bool) (ring : BitVec 12) (size : Nat) (value : Word)
  | descriptorFetch (port : Bool) (ring : BitVec 12) (d : HostData)
  | descriptorFetchTimeout (port : Bool) (ring : BitVec 12)
  | descriptorStart
  | launch (rec : Nat) (host : Option HostData)
  | pairedLaunch (rec : Nat) (hostA hostB : Option HostData)
  | launchCoreStart (core : CoreId)
  | launchComplete (rec : Nat)
  | copy (rec : Nat)
  | fill (rec : Nat)
  | wait (rec : Nat)
  | waitPass (rec : Nat)
  | signal (rec : Nat)
  | loadProgram (rec : Nat) (host : Option HostData)
  | loadProgramComplete (rec : Nat)
  | verifyTimeout (rec : Nat)
  | map (rec : Nat)
  | jobOpen (rec : Nat)
  | jobClose (rec : Nat)
  | abortJob (rec : Nat)
  | abortGraceExpiry (rec : Nat)
  | descriptorDeadline (rec : Nat)
  | completionEntryWrite (port : Bool) (cring : BitVec 12)
  | cqInterruptTimer (port : Bool) (cring : BitVec 12)
  | functionLevelReset (port : Bool)
  | hostBar4Access (port : Bool) (addr : Nat) (op : BarOp) (ups : Upsets)
  | hostWindowReadTimeout (id : Nat)
  | hqiSqctlWrite (port : Bool) (ring : BitVec 12) (acc : RegAccess)
  | hqiCqctlWrite (port : Bool) (ring : BitVec 12) (acc : RegAccess)
  | hqiEvcWrite (n : BitVec 16) (acc : RegAccess)
  | hqiEvaddWrite (n : BitVec 16) (acc : RegAccess)
  | hqiThintWrite (acc : RegAccess)
  | dbgLoadctlWrite (acc : RegAccess)
  -- recovery (file 20)
  | kerbDrainEnd (d : Domain)
  | threadReset (thread : ThreadId)
  | coreReset (core : CoreId)
  | clusterReset (cluster : ClusterId) (hang : Bool)
  | dieReset (die : BitVec 3) (hang : Bool)
  | hbmStackReset (stack : BitVec 5)
  | linkReset (link : BitVec 7)
  | moduleReset
  | resetLimitExpiry (d : Domain)
  | resetComplete (d : Domain)
  | progressWatchdog (core : CoreId)
  | dispatcherHeartbeat (die : BitVec 3)
  | heartbeatTimeout (die : BitVec 3)
  | meshTransactionTimeout (req : MeshReq)
  | workItemReplay (item : Nat)
  | trialStart (cluster : ClusterId)
  | probationExpiry (cluster : ClusterId)
  | dbgCommitWrite (id : Nat)
  | dbgResetWrite (acc : RegAccess)
  -- timebase and telemetry (file 21)
  | milepostComparatorFire (k : BitVec 4)
  | triggerEdge (pin : BitVec 3) (rising : Bool)
  | triggerPulseEnd (pin : BitVec 3)
  | powerSample (milliwatts : List Nat) (millivolts : BitVec 16)
  | thermalSample (sensors : List Int)
  -- power (file 22)
  | p1IdleEntry (cluster : ClusterId)
  | p1Wake (cluster : ClusterId)
  | requestP0 (acc : RegAccess)
  | requestP2 (acc : RegAccess)
  | requestP3 (acc : RegAccess)
  | p2Wake
  | shedEnter (millivolts : BitVec 16)
  | shedLeave (millivolts : BitVec 16)
  | powerCapInterval (watts : Nat)
  | thermalThrottle
  | thermalTrip
  | overvoltageTrip (millivolts : BitVec 16)
  | inputSwitchReclose (millivolts : BitVec 16)
  | aoPowerOn (millivolts : BitVec 16)
  | powerGoodTimer
  -- boot and attestation (file 23)
  | trainingComplete
  | secCommit (acc : RegAccess)
  | secUpdate (acc : RegAccess)
  | firmwareUpdateComplete (storeFails : Bool)
  | mrExtend (acc : RegAccess)
  | getIdentity (m : Mail)
  | getCert (m : Mail)
  | getReport (m : Mail) (mask : BitVec 16) (nonce : List Byte)
  | reportSigned (random : BitVec 256)
  | storeWrite (m : Mail) (off : Nat) (data : List Byte)
  | entdaa (addr : BitVec 7)
  | setdasa (addr : BitVec 7)
  -- pins (file 24)
  | jtagInstructionLoad (i : JtagInstr)
  | perstN (port : Bool)
  | modResetN
  | prsntN (bundle : BitVec 4) (present : Bool)
  | tollTokenRefill (thread : ThreadId)
  | busMasterEnableSet (port : Bool)
  | snapshotWriteComplete
  | aoPowerLoss
  | modResetNRelease
  | perstNRelease (port : Bool)
  deriving DecidableEq, Repr

end Sys2Proof
end

