-- ==== Sys2Proof/Decode.lean ====
section
/-! DEFINITION. The words of commands: no row of the table of operations and events has bits, so no word spells a command (log 1, DESIGN CHOICE). -/

namespace Sys2Proof

/-- The command that a word spells by the bits the table gives its rows: the table gives none bits. -/
def decodeTableWord (_nbits _w : Nat) : Option Instr := none

end Sys2Proof
end

