-- ==== Sys2Proof/Config.lean ====
section
/-! DEFINITION. What an implementation fixes and the spec leaves open: every value here is opaque, so that a claim holds whatever it is (logs 3, 4, 5, 6, 9, 97, 99, 103, 104, 105). -/

namespace Sys2Proof.Config

/-- The bytes of a memory whose contents the spec calls unspecified (R485, R605): generation, address. -/
opaque freeByte : Nat → Nat → Byte

/-- The order and grouping of a FAST dot product (R227, R237, R282): which two partial sums are combined at a step. -/
opaque fastPick : Nat → Nat → Nat

/-- The free run of the queue store that an OPEN takes, among those that fit (R356). -/
opaque openRun : Nat → Nat

/-- The TLB entry a fill replaces (R479). -/
opaque tlbVictim : Nat → Nat

/-- The free handle slot that a seal takes, among those that are free (R579). -/
opaque handleSlot : Nat → Nat

/-- The core of a cluster whose SRAM_CE counts a correctable error of the cluster's CM (R387, R635; log 97). -/
opaque cmCounter : Nat → Nat

/-- Is a packet that has waited at an ingress past its age advanced by the age rule (R435; log 99)? -/
opaque ingressAged : Nat → Bool

/-- The 30 bytes after the subtype of a time reply that carries T2 and T3, and the times that such bytes carry: R516 gives them no places (log 103). -/
opaque lctrlReply : Int → Int → List Byte
opaque lctrlTimes : List Byte → Int × Int

/-- The 30 bytes after the subtype of a mode agreement, and the mode that such bytes name (R516; log 103). -/
opaque lctrlMode : BitVec 2 → List Byte
opaque lctrlModeOf : List Byte → BitVec 2

/-- Is the request of a module with a fabric tag, arriving on a link index, one of a stream engine, whose RDR is of class 4 (R514; log 104)? -/
opaque ofStream : Nat → Nat → Nat → Bool

/-- Does a host's read that arrives at S4 wait so long that its port completes it with Completer Abort (R656; log 120)? -/
opaque readAborts : Nat → Bool

/-- The management core that sends a flood (R527; log 105). -/
opaque floodCore : Nat → Nat

/-- A value that the spec leaves open and that no other constant here covers (log 5). -/
opaque freeWord : Nat → Word

/-- What the temporaries of a V entry hold before a micro-operation writes them: the same in every execution, as R302 has every user-defined instruction deliver
identical bits for identical inputs (R190; log 5). -/
opaque tempWord : Nat → Word

/-- The byte at an offset of the boot store's control sector as manufactured (R662, R671, R692; log 20). -/
opaque controlByte : Nat → Byte

/-- The byte at an offset of both slots as manufactured: the same signed firmware (R692). -/
opaque firmwareByte : Nat → Byte

/-- The byte at an offset of a slot after its `n`th write that failed or was broken off (R669; log 20). -/
opaque brokenByte : Nat → Nat → Nat → Byte

/-- The certificate that a control sector's bytes hold (R671); the spec gives no layout (log 20). -/
opaque certificateOf : List Byte → List Byte

/-- The key hashes that are fused (R665, R692). -/
opaque keyHash : Nat → BitVec 512

/-- The identity seed that is fused (R665, R670). -/
opaque identitySeed : BitVec 256

/-- Audefa's PCI vendor identifier (R674; log 121). -/
opaque vendorId : BitVec 16

/-- The ROM version word of R672. -/
opaque romVersion : Word

/-- The fuse array as MR0 is extended by it (R672): key hashes, revocation bits, counters; the spec gives no byte layout. -/
opaque fuseBytes : List (BitVec 512) → Nat → List Nat → List Byte

/-- The address of the standard handler block of the steward firmware (R583, R601). -/
opaque standardHandler : Word

end Sys2Proof.Config
end

