-- ==== Sys2Proof/Machine/Tbl.lean ====
section
/-! DEFINITION. A sparse table: what is not listed holds the table's reset value, so that the state after reset is small. -/

namespace Sys2Proof

/-- A sparse table from numbers to values. -/
abbrev Tbl (α : Type) := List (Nat × α)

namespace Machine

/-- The entry of `k`, if one is listed. -/
def tblFind {α : Type} : Tbl α → Nat → Option α
  | [], _ => none
  | (j, x) :: t, k => if j = k then some x else tblFind t k

/-- The entry of `k`, or the value an unlisted entry holds. -/
def tblGet {α : Type} (d : α) (t : Tbl α) (k : Nat) : α := (tblFind t k).getD d

/-- The table with `k` holding `x`, at its place in rising order. -/
def tblPut {α : Type} : Tbl α → Nat → α → Tbl α
  | [], k, x => [(k, x)]
  | (j, y) :: t, k, x =>
    if j = k then (k, x) :: t
    else if k < j then (k, x) :: (j, y) :: t
    else (j, y) :: tblPut t k x

/-- The table with no entry of `k`. -/
def tblDel {α : Type} (t : Tbl α) (k : Nat) : Tbl α := t.filter (fun e => e.1 != k)

/-- The table with `k` changed by `f`, starting from the value an unlisted entry holds. -/
def tblMod {α : Type} (d : α) (t : Tbl α) (k : Nat) (f : α → α) : Tbl α := tblPut t k (f (tblGet d t k))

end Machine
end Sys2Proof
end

