-- ==== Sys2Proof/Machine/State.lean ====
section
/-! DEFINITION. The state of the module: everything the spec names, as plain data, and the state right after reset. -/

namespace Sys2Proof.Machine

/-! ## Threads -/

/-- The configuration of a tile (R199, R200): rows, row bytes, format code, scale bytes. -/
structure TileCfg where
  rows : Nat := 16
  rowBytes : Nat := 64
  fmt : BitVec 4 := 2
  scale : Nat := 0
  deriving DecidableEq, Repr

/-- The type of an accumulator (R209). -/
inductive AccTy where
  | fp32 | int32 | fp64
  deriving DecidableEq, Repr

/-- The bytes a result writes into one physical row of a tile: row, data, which data bits, the scale bytes if written (R162, R205). -/
structure RowWrite where
  row : Nat
  data : Vec
  mask : Vec
  scale : Option (BitVec 32)
  deriving DecidableEq, Repr

/-- A fault or machine check: level, code, slot, detail, the frame's addr and aux words (R313 to R315), and the response status that its record carries (R600). -/
structure Flt where
  level : Nat
  code : BitVec 8
  slot : BitVec 3
  detail : BitVec 16
  addr : Word := 0
  aux : Word := 0
  status : Byte := 0
  deriving DecidableEq, Repr

/-- What a fixed-latency result writes when it lands (R63), or the MAC_CHECK that comes with it (R249). -/
inductive Write where
  | s (r : Nat) (x : Word)
  | v (r : Nat) (x : Vec) (mask : Vec)
  | vm (r : Nat) (x : BitVec 32) (mask : BitVec 32)
  | p (r : Nat) (x : Bool)
  | sd (r : Nat) (x : Word)
  | tile (t : Nat) (rows : List RowWrite)
  | tileCfg (t : Nat) (c : TileCfg)
  | acc (a : Nat) (cells : List (Nat × BitVec 32))
  | accTy (a : Nat) (ty : AccTy)
  | lm (bytes : List (Nat × Byte))
  | sdm (bytes : List (Nat × Byte))
  | lps (k : Nat) (x : Word)
  | lpe (k : Nat) (x : Word)
  | lpc (k : Nat) (x : BitVec 32) (byCrw : Bool)
  | cr (n : Nat) (x : Word)
  | window (w : Nat) (q : BitVec 7)
  | flags (f : BitVec 5)
  | check (f : Flt)
  deriving DecidableEq, Repr

/-- A fixed-latency result in flight: the cycle it lands in, the cycle and slot it was issued in, its bundle. -/
structure Landing where
  due : Nat
  issued : Nat
  slot : Slot
  bundle : Word
  w : Write
  deriving DecidableEq, Repr

/-- A decoded slot of a bundle: a command of the slot's instruction, or the ILLEGAL that decode alone settles (R91). -/
inductive SlotCode where
  | ok (i : Instr)
  | illegal (slot : Slot) (detail : BitVec 16)
  deriving DecidableEq, Repr

/-- A decoded bundle (R84 to R86). -/
structure Bundle where
  quiet : Bool
  slots : List SlotCode
  deriving DecidableEq, Repr

/-- The H instruction that holds a thread, with what it read at issue (R62, R64, R202): tile, configuration, base and stride, or the operands of EVWAIT. -/
inductive HoldKind where
  | tlg (tile : Nat) (cfg : TileCfg) (base stride : Word)
  | tsg (tile : Nat) (cfg : TileCfg) (base stride : Word)
  | evwait (a b : Word)
  deriving DecidableEq, Repr

/-- The H instruction that holds a thread: its steps completed, the redirect of its bundle, the bundle that follows it with the loop results of its back edge,
as its first issue decided them (R178, R180), whether a CRW of the bundle had a part in that edge, the rows held for later steps, a step that failed, and the last cycle
in which it wrote rows (R62, R208, R220, R320). -/
structure Hold where
  kind : HoldKind
  bundle : Word
  steps : Nat
  redirect : Option Word
  edge : Option (Word × List Write)
  byCrw : Bool
  got : Tbl (List Byte)
  failed : Option (Nat × Flt)
  wroteAt : Option Nat
  deriving DecidableEq, Repr

/-- An entry whose frame push is under way (R311, R312): its level, the frame and the address it is pushed to. -/
structure Entry where
  level : Nat
  frame : List Word
  at_ : Word
  deriving DecidableEq, Repr

/-- A message entry staged or committed (R364): 16 bytes. -/
abbrev QEntry := BitVec 128

/-- An endpoint of a channel, as a queue names it: its module when remote, its thread and its number (R358). -/
structure EpRef where
  peer : Option (BitVec 16)
  thread : ThreadId
  ep : BitVec 7
  deriving DecidableEq, Repr

/-- The kinds of control traffic of a channel (R363). -/
inductive CtlKind where
  | msg | greq | grant | rel | cret | gone
  deriving DecidableEq, Repr

/-- One item of control traffic on its way: a message, a request or a notice between an endpoint and a queue (R363). -/
structure Ctl where
  id : Nat
  kind : CtlKind
  ep : EpRef
  queue : QueueId
  c0 : Bool
  epoch : Byte
  count : Nat
  closed : Bool
  entries : List QEntry
  job : BitVec 29
  req : Nat := 0
  deriving DecidableEq, Repr

/-- A sender endpoint (R358, R359): chctl, chstat and what its channel read at OPEN. state: 0 closed, 1 opening, 2 open, 3 broken. -/
structure Endpoint where
  gfault : Bool := false
  c0 : Bool := false
  want : Byte := 0
  peer : BitVec 16 := 0
  remote : Bool := false
  queue : QueueId := 0
  state : BitVec 2 := 0
  credit : Nat := 0
  grant : Nat := 0
  epoch : Byte := 0
  status : Byte := 0
  openAt : Nat := 0
  chC0 : Bool := false
  chPeer : Option (BitVec 16) := none
  chQueue : QueueId := 0
  req : Nat := 0
  deriving DecidableEq, Repr

/-- The edge of an H bundle that was interrupted and whose CRW had a part in it (R180, R181): the bundle, the bundle that follows it and the loop results (log 84). -/
structure KeptEdge where
  bundle : Word
  next : Word
  writes : List Write
  deriving DecidableEq, Repr

/-- How a thread ended (R332, R601, R615). -/
inductive EndHow where
  | exit | failed | machineCheck | reset
  deriving DecidableEq, Repr

/-- A thread context (R50) with all the state that belongs to it. -/
structure Ctx where
  live : Bool := false
  freeing : Bool := false
  halted : Bool := false
  gen : BitVec 16 := 0
  starts : Nat := 0
  pc : Word := 0
  notBefore : Nat := 0
  readyAt : Nat := 0
  s : Tbl Word := []
  v : Tbl Vec := []
  vm : Tbl (BitVec 32) := []
  p : Tbl Bool := []
  trow : Tbl Vec := []
  tscale : Tbl (BitVec 32) := []
  tcfg : Tbl TileCfg := []
  acc : Tbl (BitVec 32) := []
  accTy : Tbl AccTy := []
  accBad : List Nat := []
  tileBad : List Nat := []
  sd : Tbl Word := []
  lps : Tbl Word := []
  lpe : Tbl Word := []
  lpc : Tbl (BitVec 32) := []
  pendS : BitVec 32 := 0
  pendV : BitVec 32 := 0
  pendT : BitVec 8 := 0
  sendCh : BitVec 7 := 0
  sendBuf : List QEntry := []
  haz : Bool := false
  bypass : Bool := false
  sup : Bool := false
  flags : BitVec 5 := 0
  rnd : BitVec 2 := 0
  strict : Bool := false
  sr0 : Word := 0x9E3779B97F4A7C15
  sr1 : Word := 0
  mask : BitVec 3 := 0
  cause : Word := 0
  epc : Word := 0
  ssp : Word := 0
  vbase : Word := 0
  tprog : Word := 0
  prio : Bool := false
  job : BitVec 29 := 0
  xbase : Word := 0
  inflight : List Landing := []
  landed : List Landing := []
  waiting : Option Bundle := none
  stall : BitVec 4 := 0
  hold : Option Hold := none
  edges : List KeptEdge := []
  entry : Option Entry := none
  rteAt : Option Word := none
  rteBad : Option Nat := none
  resume : Option Word := none
  dbl : Bool := false
  dblEpc : Word := 0
  stepFault : Option Flt := none
  checks : List Flt := []
  pendInt : BitVec 6 := 0
  mpMask : BitVec 16 := 0
  qcount : Nat := 0
  rotPtr : BitVec 7 := 127
  windows : Tbl (BitVec 7) := []
  arrived : List Nat := []
  barmem : Tbl Word := []
  toll : Nat := 4
  tollAt : Nat := 0
  tollQ : List Ctl := []
  eps : Tbl Endpoint := []
  ctrs : Tbl (BitVec 32) := []
  seq : BitVec 16 := 0
  outstanding : Nat := 0
  launch : Option Nat := none
  item : Option Nat := none
  stdHandler : Bool := false
  deriving DecidableEq, Repr

/-- The state of a context at core reset (R50); the high seed word holds the thread identifier (R285). -/
def Ctx.reset (t : Nat) : Ctx := { sr1 := BitVec.ofNat 64 t }

/-! ## Cores -/

/-- An instruction-cache line: the module address of its 64 bytes, the errors that its parity bits for each bundle and for the tag show, the bytes (R391). The list
order is the order of use. -/
structure ILine where
  addr : Nat
  err : List LineUpset
  data : List Byte
  deriving DecidableEq, Repr

/-- A data-cache line: address, whether data are held, lock, poison mark, prefetched and not yet used, the errors of its words and tag, bytes (R397). -/
structure DLine where
  addr : Nat
  valid : Bool
  lock : Bool
  poison : Bool
  prefetched : Bool
  err : List LineUpset
  data : List Byte
  deriving DecidableEq, Repr

/-- A byte stored into a line whose fill is in flight: the store's access, the module address, the byte, and its poison (R399, R491). -/
structure DMerge where
  id : Nat
  addr : Nat
  data : Byte
  poison : Bool
  deriving DecidableEq, Repr

/-- A data-cache fill in flight: line address, whether it was prefetched, from which access on it serves no load and installs nothing (none: it installs), bytes stored
and not yet in memory (R399, R402). -/
structure DFill where
  addr : Nat
  prefetch : Bool
  closed : Option Nat
  merged : List DMerge
  deriving DecidableEq, Repr

/-- A stream of the stride prefetcher (R405). The list order is the order of training. -/
structure PfStream where
  ctx : Nat
  bundle : Word
  lslot : Bool
  last : Word
  stride : Word
  confirmed : Bool
  deriving DecidableEq, Repr

/-- A TLB entry: table base, first job address, size in bits (30 or 21), module base (R479). -/
structure TlbEntry where
  base : Word
  page : Nat
  bits : Nat
  target : Nat
  deriving DecidableEq, Repr

/-- What an MMA computes with, as it read it at issue (R64): its format code, the mode, the seed of its FAST order, the elements of a row, the rows of A and of B (data and
scale bytes) and the addend of each cell. -/
structure MmaOp where
  fmt : BitVec 4
  strict : Bool
  seed : Nat
  k : Nat
  rowsA : List (Nat × Nat)
  rowsB : List (Nat × Nat)
  addends : List Nat
  deriving DecidableEq, Repr

/-- An MMA in the engine: issue cycle, array cycles, context, accumulator, the type that accumulator had at issue (R213, R230), and its operands, with which the poison of
a failing MMA is followed through it (R248). -/
structure MmaRun where
  t : Nat
  n : Nat
  ctx : Nat
  acc : Nat
  ty : AccTy
  op : MmaOp
  deriving DecidableEq, Repr

/-- A grant that a queue holds: its endpoint, credits, class 0, the channel it opened, whether that channel has been released (R360 to R362). -/
structure Grant where
  ep : EpRef
  n : Nat
  c0 : Bool
  chan : Nat
  released : Bool
  req : Nat := 0
  deriving DecidableEq, Repr

/-- A message held in a queue: its endpoint and channel, entries in all, entries not yet freed (R369, R371). -/
structure QMsg where
  ep : EpRef
  chan : Nat
  c0 : Bool
  n : Nat
  left : Nat
  deriving DecidableEq, Repr

/-- A hardware queue (R351 to R357): qctl and qstat, its reader's generation, the grants and the messages held. -/
structure Queue where
  ctx : BitVec 2 := 0
  ldepth : BitVec 4 := 0
  evarm : Bool := false
  isOpen : Bool := false
  rctx : BitVec 2 := 0
  rgen : BitVec 16 := 0
  base : Nat := 0
  depth : Nat := 0
  hd : Nat := 0
  count : Nat := 0
  half : Bool := false
  epoch : Byte := 0
  status : Byte := 0
  arrival : Bool := false
  grants : List Grant := []
  nextChan : Nat := 0
  msgs : List QMsg := []
  deriving DecidableEq, Repr

/-- What a core's last launch ran: one image, or the pair of a PAIRED_LAUNCH (R396). -/
inductive ImageKey where
  | one (h : Nat)
  | pair (a b : Nat)
  deriving DecidableEq, Repr

/-- An operation of DBG_CTXCTL in progress: its code and context, and the count of threads that had started there (R344). -/
structure DbgOp where
  op : BitVec 4
  ctx : BitVec 2
  starts : Nat := 0
  deriving DecidableEq, Repr

/-- An Uhlif core: its four contexts and what they share (R21, R50, R54). -/
structure Core where
  cycle : Nat := 0
  nextIssue : Nat := 0
  switchAt : Nat := 0
  idle : Bool := false
  lastIssue : Nat := 0
  sdmBusy : Nat := 0
  wdFrom : Nat := 0
  cur : Nat := 0
  lastNormal : Nat := 3
  lastHigh : Nat := 3
  expired : Bool := false
  ctxs : Tbl Ctx := []
  inReset : Bool := false
  dfBase : Byte := 0xFF
  quantum : BitVec 32 := 0x10000
  wdLimit : BitVec 32 := 0x400000
  wdWhy : BitVec 16 := 0
  shareStatic : Bool := false
  fcap : BitVec 7 := 0
  scap : BitVec 9 := 0
  conf : Bool := false
  dbgBusy : Bool := false
  dbgStatus : BitVec 4 := 0
  dbgOp : Option DbgOp := none
  saveBase : Word := 0
  pfdist : BitVec 4 := 4
  ipfen : Bool := true
  dpfen : Bool := true
  strmCap : BitVec 9 := 0x100
  dtable : Tbl (List Byte) := []
  wdtPend : List (Nat × Nat × List Byte) := []
  tableSec : List (Nat × List Byte) := []
  icache : List ILine := []
  fetching : Option (Nat × Word) := none
  fetchAt : Nat := 0
  fetchPaused : Nat := 0
  iprefetch : List Nat := []
  dcache : List DLine := []
  dfills : List DFill := []
  streams : List PfStream := []
  tlb : List TlbEntry := []
  opcache : List (Nat × Nat × Nat) := []
  tgen : Tbl Nat := []
  lmUse : List (Nat × Nat) := []
  tileWrites : List Nat := []
  tileReads : Nat × Nat := (0, 0)
  mmas : List MmaRun := []
  arrayRuns : List (Nat × Nat) := []
  queues : Tbl Queue := []
  store : Tbl QEntry := []
  storeBad : List Nat := []
  lastImage : Option ImageKey := none
  mappedSince : List Nat := []
  launches : List Nat := []
  counters : Tbl Word := []
  deriving DecidableEq, Repr

/-! ## Stream engines and clusters -/

/-- The status a stream descriptor has met so far (R427). -/
structure SFail where
  chunk : Nat
  code : Byte
  addr : Word
  deriving DecidableEq, Repr

/-- A stream descriptor in a queue of an engine (R410 to R415): its words, what it captured, and its progress. The next chunk is number
`nextChunk`, in row `row` from destination byte `off` on; `idx` is the index read for that row (R416). -/
structure SDesc where
  seq : BitVec 16
  words : List Word
  job : BitVec 29
  xbase : Word
  rnd : BitVec 2
  starts : Nat := 0
  thread : Option ThreadId := none
  record : Option Nat := none
  nextChunk : Nat := 0
  row : Nat := 0
  off : Nat := 0
  idx : Option (BitVec 32) := none
  stopped : Bool := false
  released : List Nat := []
  fails : List SFail := []
  poisoned : Bool := false
  lagged : Bool := false
  invalid : Bool := false
  aborted : Bool := false
  attached : List Nat := []
  detached : List Nat := []
  acks : Tbl (List Nat) := []
  finished : Bool := false
  heldAt : Option Nat := none
  bytes : Nat := 0
  recSent : Bool := false
  recDone : Bool := false
  deriving DecidableEq, Repr

/-- A part of a chunk's destination that lies in one 4 KiB block (R420): where in the chunk it starts, its length, where it leads. -/
structure ChunkPart where
  off : Nat
  n : Nat
  peer : Option (BitVec 16)
  at_ : Nat
  deriving DecidableEq, Repr

/-- A chunk in flight (R420, R430): tag, queue, sequence of its descriptor, number, job address of its destination, the parts of that,
its bytes with their poison, whether they have been read in and converted, whether a read or write failed, receivers that owe an acknowledgement, the 8-byte units done of
the first part that is being read or written, and those that each receiver has written (R450); when its requests were made, and how long deadlines had stood still then. -/
structure Chunk where
  tag : Nat
  queue : Nat
  seq : BitVec 16
  index : Nat
  src : Word
  dst : Word
  reads : List ChunkPart
  parts : List ChunkPart
  data : List (Byte × Bool)
  ready : Bool
  failed : Bool
  waits : List Nat
  done : Nat := 0
  mcDone : Tbl Nat := []
  at_ : Nat := 0
  paused : Nat := 0
  deriving DecidableEq, Repr

/-- A suspect's search in a cluster (R611 to R614): suspects still to try, the one on trial, its probation end, those cleared. -/
structure Search where
  todo : List Nat
  trial : Option Nat
  until_ : Nat
  cleared : List Nat
  deriving DecidableEq, Repr

/-- A cluster tile: its stream engine, HBM port registers, cluster TLB and counters (R21). -/
structure Cluster where
  dqs : Tbl (List SDesc) := []
  lastServed : Nat := 64
  chunks : List Chunk := []
  mcTimeout : BitVec 32 := 0x186A0
  ingressAge : BitVec 16 := 0x3E8
  seed0 : Word := 0x9E3779B97F4A7C15
  seed1 : Word := 0
  ce : BitVec 32 := 0
  ue : BitVec 16 := 0
  ueValid : Bool := false
  ueAddr : Nat := 0
  ueLines : List Nat := []
  tlb2 : List TlbEntry := []
  counters : Tbl Word := []
  gated : Bool := false
  busyAt : Nat := 0
  search : Option Search := none
  lastSearch : List Nat × Nat := ([], 0)
  deriving DecidableEq, Repr

/-! ## Memory -/

/-- The error state of an SRAM granule: a correctable error, an uncorrectable one, or a poison mark (R386 to R389, R419). -/
inductive Granule where
  | ce | ue | poison
  deriving DecidableEq, Repr

/-- What a global access does at its target (R446). -/
inductive AccKind where
  | load | store | amo | put | tlgRow | tsgRow | framePush | frameRead | vstore
  deriving DecidableEq, Repr

/-- Where the value of a load goes (R140): a register of its thread. -/
inductive AccDest where
  | none
  | s (r : Nat) (form : LoadForm)
  | v (r : Nat)
  | tile (t step : Nat)
  deriving DecidableEq, Repr

/-- The response to an access: its status (R517), the bytes read, whether they are poisoned, whether an uncorrectable SRAM granule was met (R388). -/
structure Resp where
  status : Byte
  data : List Byte
  poison : Bool
  ue : Bool
  deriving DecidableEq, Repr

/-- A global access of a thread, from its issue until its response reached the issuer (R446, R447). -/
structure Access where
  id : Nat
  kind : AccKind
  thread : ThreadId
  gen : BitVec 16
  bundle : Word
  slot : BitVec 3
  jobAddr : Word
  addr : Nat
  peer : Option (BitVec 16)
  present : Bool
  size : Nat
  data : List (Byte × Bool)
  op : BitVec 4
  cmp : Word
  dest : AccDest
  step : Nat
  job : BitVec 29
  xbase : Word
  rnd : BitVec 2
  starts : Nat
  record : Option Nat
  item : Option Nat
  issuedAt : Nat
  cyc : Nat
  paused : Nat
  viaFill : Bool
  performed : Bool
  answer : Option Resp
  sent : Bool
  unitsDone : Nat := 0
  got : List (Byte × Bool) := []
  gotUe : Bool := false
  kept : Bool := false
  forgotten : Bool := false
  deriving DecidableEq, Repr

/-- The memory of the module: the bytes of HBM and of the SRAM window by module address, the HBM check symbols of lines that are no codeword, the marked granules, and the generation of unspecified contents. -/
structure Memory where
  cells : List Host.Cell := []
  check : Tbl (List (BitVec 16)) := []
  granules : Tbl Granule := []
  gens : Tbl Nat := []
  hbmGen : Nat := 0
  sramGen : Nat := 0
  deriving DecidableEq, Repr

/-! ## Fabric -/

/-- A link-local packet that waits to be sent (R516): a credit return with its ten counts, a time request, a time reply with the time T2 of the request's arrival, a mode
to be agreed. -/
inductive Lctrl where
  | credits (counts : List (BitVec 16))
  | request
  | reply (t2 : Int)
  | mode (mode : BitVec 2)
  deriving DecidableEq, Repr

/-- A fabric link (R496, R538): 0 DOWN, 1 TRAINING, 2 UP, 3 DISABLED, and its link layer. -/
structure Link where
  state : BitVec 3 := 0
  mode : BitVec 2 := 0
  peer : BitVec 16 := 0
  pbundle : BitVec 4 := 0
  lanes : BitVec 4 := 0
  margin : Byte := 0
  flight : Byte := 0
  retries : Byte := 0
  uce : Byte := 0
  uceMs : Nat := 0
  uceFrom : Nat := 0
  lastValid : Nat := 0
  downAt : Nat := 0
  txSeq : Byte := 0
  window : List (Byte × List Byte) := []
  ackAt : Nat := 0
  rxNext : Byte := 0
  discarding : Bool := false
  replays : Nat := 0
  credits : Tbl Nat := []
  lastClass : Nat := 4
  txq : List (Packet × Nat) := []
  rxBytes : List Byte := []
  rxq : List Packet := []
  ctl : List Lctrl := []
  timeAt : Nat := 0
  t1 : Option Int := none
  telReplays : Nat := 0
  telUce : Nat := 0
  deriving DecidableEq, Repr

/-- Who awaits the response to a fabric request: an access, a chunk's read or write, the index of a row, a completion record, an argument block, nobody any more. -/
inductive ReqOwner where
  | access (id : Nat)
  | chunkRead (q tag off n : Nat) (ja : Word)
  | chunkWrite (q tag : Nat)
  | index (q queue : Nat) (seq : BitVec 16)
  | completion (q queue : Nat) (seq : BitVec 16)
  | args (rec : Nat) (second : Bool) (off n : Nat)
  | dropped
  deriving DecidableEq, Repr

/-- A fabric request that awaits its response (R513, R517). -/
structure FabReq where
  die : BitVec 3
  ftag : BitVec 12
  owner : ReqOwner
  at_ : Nat
  deriving DecidableEq, Repr

/-- A packet of a peer of which some 8-byte units have been performed (R450): the link it came by, the packet, the units done, and what has been read. -/
structure PartPacket where
  link : Nat
  p : Packet
  done : Nat
  got : List (Byte × Bool)
  deriving DecidableEq, Repr

/-- The Toll bucket of a management core (R527): its tokens and the time of its last refill. -/
structure Bucket where
  tokens : Nat := 16
  at_ : Nat := 0
  deriving DecidableEq, Repr

/-- A key of a flood packet (R532): its type, source, subject and sequence number. -/
structure FloodKey where
  type : Nat
  src : Nat
  subject : Nat
  seq : Nat
  deriving DecidableEq, Repr

/-- A flood key in a table, with the time it was entered (R532). -/
structure FloodEntry where
  key : FloodKey
  at_ : Nat
  deriving DecidableEq, Repr

/-- The fabric block: FAB_ registers, links, flood tables and requests (R496 to R539). -/
structure Fabric where
  id : BitVec 16 := 0
  sizes : BitVec 48 := 0
  en : Bool := false
  txto : BitVec 16 := 0x7D0
  stuck : BitVec 16 := 0x64
  uceLimit : BitVec 16 := 0x10
  mode : BitVec 2 := 0
  root : Bool := false
  parent : BitVec 4 := 0
  offset : BitVec 32 := 0
  detourFail : BitVec 16 := 0
  discard : BitVec 16 := 0
  stuckCount : BitVec 16 := 0
  floodDrop : BitVec 16 := 0
  down : Tbl Word := []
  links : Tbl Link := []
  keys : Tbl (List FloodEntry) := []
  stewardKeys : List FloodKey := []
  floodSeq : BitVec 16 := 0
  reqs : List FabReq := []
  parts : List PartPacket := []
  nextTag : Tbl (BitVec 12) := []
  waiting : List (ReqOwner × Packet) := []
  mgmt : Tbl Bucket := []
  floodQ : List (Nat × Nat × Packet) := []
  resetRoadblocks : List (BitVec 16 × Nat) := []
  readies : List (BitVec 16 × Nat) := []
  lost : List (BitVec 4) := []
  deriving DecidableEq, Repr

/-! ## The host queue engine and the journal -/

/-- A submission ring (R546, R547). -/
structure SRing where
  base : Word := 0
  en : Bool := false
  prio : BitVec 3 := 0
  err : BitVec 2 := 0
  lsize : BitVec 5 := 0
  tail : BitVec 16 := 0
  head : BitVec 16 := 0
  deriving DecidableEq, Repr

/-- A completion ring (R546, R548), the entries since its last interrupt and the time of the first. -/
structure CRing where
  base : Word := 0
  en : Bool := false
  phase : Bool := false
  ithresh : BitVec 6 := 0
  lsize : BitVec 5 := 0
  tail : BitVec 16 := 0
  itime : BitVec 5 := 0
  vector : BitVec 11 := 0
  head : BitVec 16 := 0
  since : Nat := 0
  firstAt : Option Nat := none
  deriving DecidableEq, Repr

/-- An entry of the MSI-X table: the address and the data of its message, and its mask bit, which is 1 at reset (R540, R541; log 106, PRESUMED). -/
structure MsixVec where
  addr : Word := 0
  data : BitVec 32 := 0
  masked : Bool := true
  deriving DecidableEq, Repr

/-- A host port (R540 to R552): its rings, its window, Bus Master Enable, PERST_N, the MSI-X table and the pending bits, the payload and read request sizes in bytes, the
uncorrectable error status of AER, and the completions without a ring. -/
structure Port where
  srings : Tbl SRing := []
  crings : Tbl CRing := []
  hwbase : Word := 0
  bme : Bool := false
  perst : Bool := false
  msix : Tbl MsixVec := []
  msixPending : List Nat := []
  payload : Nat := 128
  readSize : Nat := 512
  aer : BitVec 32 := 0
  noCq : Word := 0
  deriving DecidableEq, Repr

/-- Where a descriptor stands (R556 to R559). -/
inductive RecState where
  | recorded | started | running | done
  deriving DecidableEq, Repr

/-- A work item (R592, R593): its descriptor, core (2048 + cluster for a COPY or FILL), image and position (the chunks done, for a COPY or FILL); its replays; the
threads that took a machine check since it last started, with the code; whether it is lost, and the thread and code of that loss. -/
structure Item where
  record : Nat
  core : Nat
  imageB : Bool
  pos : Nat
  replays : Nat := 0
  checks : List (Nat × BitVec 8) := []
  lost : Bool := false
  lostBy : Nat := 0
  lostCode : BitVec 8 := 0
  failed : Bool := false
  ended : Bool := false
  running : Bool := true
  deriving DecidableEq, Repr

/-- A piece of an argument block that has been read: which block, where in it, the status, its poison, its bytes (R562). -/
structure ArgPart where
  second : Bool
  off : Nat
  status : Byte
  poison : Bool
  data : List Byte
  deriving DecidableEq, Repr

/-- A recorded descriptor (R553, R595): its ring, words, times and outcome; whether its port took a Function Level Reset after its fetch (R544). -/
structure Rec where
  port : Bool
  ring : BitVec 12
  words : List Word
  at_ : Nat
  state : RecState := .recorded
  order : Nat := 0
  status : Byte := 0
  result : Word := 0
  blame : Option (Byte × Word) := none
  paused : Nat := 0
  argParts : List ArgPart := []
  argsAsked : Bool := false
  args : List Byte := []
  argsB : List Byte := []
  todo : List Nat := []
  graceAt : Option Nat := none
  flr : Bool := false
  deriving DecidableEq, Repr

/-- An open job (R569). -/
structure Job where
  epoch : Byte
  xbase : Word
  stackBase : Word
  stackBytes : Word
  members : Nat
  count : Nat
  deriving DecidableEq, Repr

/-- A sealed image (R579, R580), with what a launch takes from it (R583). -/
structure Handle where
  seq : Nat
  valid : Bool
  digest : List Byte
  job : BitVec 16
  codeBase : Word
  bypass : Bool
  sup : Bool
  entry : Nat
  handler : Nat
  table : List (Nat × List Byte)
  deriving DecidableEq, Repr

/-- A LOAD_PROGRAM on a management core (R579): its record, when it started, the handle it is to seal, the report that rejects it, and whether its verification ends. -/
structure Loading where
  record : Nat
  at_ : Nat
  image : Handle
  report : Option Word
  ends : Bool
  deriving DecidableEq, Repr

/-- A completion entry the engine owes (R573). -/
structure CEntry where
  port : Bool
  cring : BitVec 12
  ring : BitVec 12
  status : Byte
  tag : BitVec 32
  result : Word
  old : Bool
  deriving DecidableEq, Repr

/-- The host queue engine, the jobs, the handles and the journal's records. -/
structure HostQ where
  port0 : Port := {}
  port1 : Port := {}
  evvec0 : BitVec 11 := 0
  evvec1 : BitVec 11 := 0
  evc : Tbl (BitVec 32) := []
  recs : Tbl Rec := []
  nextRec : Nat := 0
  lastRing : Tbl Nat := []
  owed : List CEntry := []
  jobs : Tbl Job := []
  handles : Tbl Handle := []
  loading : List Loading := []
  loadEn : Bool := false
  loads : BitVec 16 := 0
  items : Tbl Item := []
  nextItem : Nat := 0
  commits : Tbl Vec := []
  journalClosed : Bool := false
  journalLost : Bool := true
  deriving DecidableEq, Repr

/-! ## Recovery -/

/-- A reset in progress (R602 to R606): its domain, whether it still drains, the end of the drain, its limit; that of a thread by KILL is marked (R527). -/
structure Reset where
  d : Domain
  draining : Bool
  drainAt : Nat
  limitAt : Nat
  hang : Bool
  dbg : Bool
  escalated : Bool
  kill : Bool := false
  deriving DecidableEq, Repr

/-- The recovery registers and the resets in progress (R598 to R625). -/
structure Recovery where
  probation : Byte := 0x19
  mto : BitVec 16 := 0x7D0
  hbto : Byte := 0x0A
  budget : BitVec 4 := 2
  pwd : Bool := true
  busy : Bool := false
  domain : BitVec 3 := 0
  result : Byte := 0
  target : BitVec 14 := 0
  evHead : BitVec 20 := 0
  evTail : BitVec 20 := 0
  lost : BitVec 16 := 0
  evSeq : Word := 0
  resets : List Reset := []
  beats : Tbl Nat := []
  deriving DecidableEq, Repr

/-! ## Timebase, telemetry, power -/

/-- What is latched at the tick of a comparator, for its snapshot (R633, R634): the counters of cores and clusters, the energies, the counts of links and ports. -/
structure Latch where
  cores : Tbl (Tbl Word)
  clusters : Tbl (Tbl Word)
  railNj : Tbl Nat
  links : Tbl (Nat × Nat)
  noCq0 : Word
  noCq1 : Word
  deriving DecidableEq, Repr

/-- A Milepost comparator (R630, R646): its registers, the tick at which they were last written, writes that wait for its firing (R631), and what is latched for it. -/
structure Milepost where
  time : Word := 0
  en : Bool := false
  irq : Bool := false
  snap : Bool := false
  job : BitVec 16 := 0
  period : BitVec 40 := 0
  fired : BitVec 32 := 0
  missed : BitVec 32 := 0
  armed : Nat := 0
  late : List (Nat × Word × Word) := []
  latch : Option Latch := none
  deriving DecidableEq, Repr

/-- A trigger pin (R643 to R646). -/
structure TrigPin where
  en : Bool := false
  out : Bool := false
  edge : BitVec 2 := 1
  mp : BitVec 4 := 0
  width : BitVec 32 := 0x64
  stamp : Word := 0
  stamped : Option Word := none
  pulseEnd : Option Nat := none
  deriving DecidableEq, Repr

/-- The timebase, the comparators, the pins and the telemetry ring (R626 to R647). -/
structure Timebase where
  time : Word := 0
  stepmin : BitVec 32 := 0x3E8
  unsync : Bool := false
  locked : Bool := false
  slew : Bool := true
  slewLeft : Int := 0
  slewAt : Nat := 0
  ticks : Nat := 0
  lockRun : Nat := 0
  exchanged : Bool := false
  mps : Tbl Milepost := []
  pins : Tbl TrigPin := []
  telBase : Word := 0
  telEn : Bool := false
  telLsize : BitVec 5 := 0x0E
  telKinds : BitVec 7 := 0x7F
  telHead : BitVec 26 := 0
  telLost : BitVec 16 := 0
  telTail : BitVec 26 := 0
  snapBusy : Bool := false
  held : List (List Word) := []
  snapSeq : BitVec 32 := 0
  edgeSeq : BitVec 32 := 0
  deriving DecidableEq, Repr

/-- Power, shedding and the cap (R637, R638, R648 to R660, R683 to R690). state: 0 P0, 2 P2, 3 P3. -/
structure Power where
  refused : Bool := false
  state : BitVec 2 := 0
  idleUs : BitVec 16 := 0x64
  req : BitVec 2 := 0
  vin : BitVec 16 := 0
  entries : Byte := 0
  due : List Nat := []
  below : Tbl Nat := []
  above : Tbl Nat := []
  level : Nat := 0
  capEn : Bool := false
  watts : BitVec 16 := 0x1388
  capIssue : Nat := 100
  capClk : Nat := 800
  capUnder : Nat := 0
  capSteps : Nat := 0
  thermSteps : Nat := 0
  thermFrom : Option Nat := none
  railMw : Tbl (BitVec 32) := []
  railNj : Tbl Nat := []
  railMv : BitVec 16 := 0
  temps : Tbl Int := []
  tripFrom : Option Nat := none
  tripped : Bool := false
  aoOn : Bool := true
  switchOpen : Bool := false
  down : Bool := false
  goodFrom : Option Nat := none
  overFrom : Option Nat := none
  underFrom : Option Nat := none
  selfRefresh : Bool := false
  waking : Bool := false
  pausedTotal : Nat := 0
  pausedFrom : Option Nat := none
  deriving DecidableEq, Repr

/-! ## Boot and attestation, pins -/

/-- A report waiting for or under signature (R674, R675). -/
structure Report where
  m : Mailbox
  mask : BitVec 16
  nonce : List Byte
  body : Option (List Byte)
  deriving DecidableEq, Repr

/-- The steward's boot chain: fuses, boot store, measurement registers (R661 to R677). stage: 0 ROM, 1 FIRMWARE, 2 TRAINING, 3 READY, 15 FAILED. -/
structure Sec where
  stage : BitVec 4 := 0
  slot : BitVec 4 := 0
  reason : Byte := 0
  degraded : Byte := 0
  pref : Bool := false
  commitBusy : Bool := false
  commitResult : BitVec 6 := 0
  revoke : BitVec 4 := 0
  ctrs : BitVec 3 := 0
  updBusy : Bool := false
  updResult : BitVec 6 := 0
  updAddr : Word := 0
  mrdata : Tbl Word := []
  mrSel : BitVec 4 := 0
  mrs : Tbl (List Byte) := []
  mrCount : Tbl (BitVec 32) := []
  keyHash : Vector (BitVec 512) 4 := Vector.ofFn (fun k => Config.keyHash k)
  revoked : BitVec 4 := 0
  seed : BitVec 256 := Config.identitySeed
  fuseCtr : Tbl Nat := []
  store : Tbl Byte := []
  broken : Tbl Nat := []
  reports : List Report := []
  i3cAddr : Option (BitVec 7) := none
  deriving DecidableEq, Repr

/-- The sideband pins (R678 to R687): asserted levels. -/
structure Pins where
  fatal : Bool := false
  pwrFail : Bool := false
  modReset : Bool := false
  absent : List (BitVec 4) := []
  jtag : JtagInstr := .idcode
  preload : Bool × Bool := (false, false)
  deriving DecidableEq, Repr

/-! ## The module -/

/-- What the module last answered to an access from outside (R9, R13, R542, R674): a value, an error response, bytes, or a failed PCIe completion. -/
inductive Answer where
  | none
  | value (x : Word)
  | error (code : Byte)
  | bytes (status : Byte) (d : List Byte) (poison : Bool)
  | unsupportedRequest
  | completerAbort
  | retryStatus
  | nack
  deriving DecidableEq, Repr

/-- What the module sent to the world outside: writes to host memory, MSI-X messages, answers of the mailboxes, packets handed on. -/
inductive Output where
  | hostWrite (port : Bool) (addr : Nat) (d : List Byte) (poison relaxed : Bool)
  | hostRead (port : Bool) (addr : Nat) (n : Nat)
  | msix (port : Bool) (vector : Nat) (addr : Word) (data : BitVec 32)
  | reply (m : Mailbox) (command status : Byte) (d : List Byte)
  | discovery (port : Bool) (vendor : BitVec 16) (type next : Byte)
  | jtag (d : List Bool)
  | fabric (k : BitVec 3) (p : Packet)
  | codeword (link : Nat) (cw : Codeword)
  | lctrl (link : Nat) (x : Lctrl) (at16 : Int)
  | triggerPulse (pin : Nat)
  deriving DecidableEq, Repr

/-- The module without its queue of commands. -/
structure Mod where
  now : Nat := 0
  free : Nat := 0
  cores : Tbl Core := []
  clusters : Tbl Cluster := []
  mem : Memory := {}
  accs : List Access := []
  nextAcc : Nat := 0
  net : List Ctl := []
  nextNet : Nat := 0
  nextOpen : Nat := 1
  place : Tbl (BitVec 17) := []
  bridgeDown : List Bool := []
  fab : Fabric := {}
  hq : HostQ := {}
  rcv : Recovery := {}
  tb : Timebase := {}
  pwr : Power := {}
  sec : Sec := {}
  pins : Pins := {}
  answer : Answer := .none
  out : List Output := []
  deriving DecidableEq, Repr

/-- The state of the block: the module and the commands that wait, first in, first out. -/
structure State where
  pending : List Instr
  mod : Mod
  deriving DecidableEq, Repr

/-- Why a machine stops with a fault. -/
inductive Fault where
  /-- Raised by no command: the spec answers every access with an effect or an error response, so the model never stops (safe). -/
  | never
  deriving DecidableEq, Repr

/-- Why a command has no meaning. -/
inductive Refusal where
  /-- Raised by the dispatcher for a command that has no meaning yet, by its mnemonic (safe: the run stops). -/
  | notModelled (mnemonic : String)
  deriving DecidableEq, Repr

/-- The state after reset: every register at its reset value, nothing pending. Boot has the stage ROM (R667) (log 8, DESIGN CHOICE) (log 11, DESIGN CHOICE) (log 39, PRESUMED). -/
def State.reset : State := { pending := [], mod := {} }

end Sys2Proof.Machine
end

