-- ==== Sys2Proof/Machine/Bits.lean ====
section
/-! DEFINITION. Bits and bytes: fields of words, little-endian byte strings (R6), sign extension, lanes of vectors (R118). -/

namespace Sys2Proof.Machine

/-- Bits [lo + n - 1 : lo] of a number. -/
def fld (x lo n : Nat) : Nat := (x / 2 ^ lo) % 2 ^ n

/-- Bit `i` of a number. -/
def bitOf (x i : Nat) : Bool := (x / 2 ^ i) % 2 == 1

/-- 1 for true. -/
def b1 (b : Bool) : Nat := if b then 1 else 0

/-- A word from a number, modulo 2^64. -/
abbrev w64 (n : Nat) : Word := BitVec.ofNat 64 n

/-- The word whose bits [lo + n - 1 : lo] are replaced by `v`. -/
def setFld (x : Word) (lo n v : Nat) : Word :=
  let a := x.toNat
  w64 (a - fld a lo n * 2 ^ lo + (v % 2 ^ n) * 2 ^ lo)

/-- The number of n bits, read as two's complement. -/
def sInt (n x : Nat) : Int := if bitOf x (n - 1) then (x % 2 ^ n : Nat) - (2 ^ n : Nat) else (x % 2 ^ n : Nat)

/-- The word of an integer, modulo 2^64. -/
def wInt (x : Int) : Word := BitVec.ofInt 64 x

/-- The low `n` bits of a word, sign-extended to 64 bits. -/
def signExt (n x : Nat) : Word := wInt (sInt n x)

/-- The 16-bit immediate of the SI format, sign-extended (R98). -/
def imm16 (x : BitVec 16) : Word := x.signExtend 64

/-- The first `n` bytes of a number, the lowest first (R6). -/
def toBytes : Nat → Nat → List Byte
  | 0, _ => []
  | n + 1, x => BitVec.ofNat 8 x :: toBytes n (x / 256)

/-- The number of a little-endian byte string (R6). -/
def ofBytes : List Byte → Nat
  | [] => 0
  | b :: t => b.toNat + 256 * ofBytes t

/-- The eight bytes of a word. -/
def wordBytes (x : Word) : List Byte := toBytes 8 x.toNat

/-- The word of eight bytes. -/
def wordOf (d : List Byte) : Word := w64 (ofBytes d)

/-- The 64 bytes of a vector. -/
def vecBytes (v : Vec) : List Byte := toBytes 64 v.toNat

/-- The vector of 64 bytes. -/
def vecOf (d : List Byte) : Vec := BitVec.ofNat 512 (ofBytes d)

/-- `n` bytes from byte `at_` on; bytes past the end read as zero. -/
def sliceBytes (d : List Byte) (at_ n : Nat) : List Byte := (d.drop at_ ++ List.replicate n 0).take n

/-- The byte string with the bytes from `at_` on replaced. -/
def patchBytes (d : List Byte) (at_ : Nat) (x : List Byte) : List Byte := d.take at_ ++ x ++ d.drop (at_ + x.length)

/-- The words of a byte string, eight bytes each. -/
def bytesWords (n : Nat) (d : List Byte) : List Word := (List.range n).map (fun i => wordOf (sliceBytes d (8 * i) 8))

/-- Lane `i` of width `w` (R118). -/
def lane (w : Nat) (v : Vec) (i : Nat) : Nat := fld v.toNat (w * i) w

/-- The vector of the lanes in order, each `w` bits wide. -/
def ofLanes (w : Nat) : List Nat → Nat
  | [] => 0
  | x :: t => x % 2 ^ w + 2 ^ w * ofLanes w t

/-- The vector of a list of lanes. -/
def lanesVec (w : Nat) (l : List Nat) : Vec := BitVec.ofNat 512 (ofLanes w l)

/-- A vector whose lanes of width `w` are all ones where `f` holds (R104). -/
def laneMask (w : Nat) (f : Nat → Bool) : Vec :=
  lanesVec w ((List.range (512 / w)).map (fun i => if f i then 2 ^ w - 1 else 0))

/-- The bits of `new` where the mask is set, of `old` elsewhere. -/
def merge {n : Nat} (old new mask : BitVec n) : BitVec n := (old &&& ~~~mask) ||| (new &&& mask)

/-- Is there an element that two lists share? -/
def overlaps (a : Nat) (n : Nat) (b : Nat) (k : Nat) : Bool := decide (a < b + k ∧ b < a + n)

/-- Quotient of n by d, rounded up. -/
def ceilDiv (n d : Nat) : Nat := (n + d - 1) / d

/-- The floor of the binary logarithm; 0 for 0. -/
def flog2 (n : Nat) : Nat := Nat.log2 n

/-- Insertion of `x` into a list that rises under `key`, after its equals. -/
def insertBy {α : Type} (key : α → Nat) (x : α) : List α → List α
  | [] => [x]
  | y :: t => if key x < key y then x :: y :: t else y :: insertBy key x t

/-- The list in rising order of `key`; equals keep their order. -/
def sortBy {α : Type} (key : α → Nat) (l : List α) : List α := l.foldl (fun acc x => insertBy key x acc) []

/-- The list whose element number `i` is changed by `f`. -/
def listMod {α : Type} (i : Nat) (f : α → α) : List α → List α
  | [] => []
  | x :: t => match i with
    | 0 => f x :: t
    | j + 1 => x :: listMod j f t

/-- Saturating decrement of a list position: the first element that satisfies `p` removed. -/
def removeFirst {α : Type} (p : α → Bool) : List α → List α
  | [] => []
  | x :: t => if p x then t else x :: removeFirst p t

/-- The first element that satisfies `p` changed by `f`. -/
def modFirst {α : Type} (p : α → Bool) (f : α → α) : List α → List α
  | [] => []
  | x :: t => if p x then f x :: t else x :: modFirst p f t

/-- A counter of `n` bits that saturates. -/
def satAdd (n : Nat) (x : BitVec n) (k : Nat) : BitVec n := BitVec.ofNat n (min (2 ^ n - 1) (x.toNat + k))

end Sys2Proof.Machine
end

