-- ==== Sys2Proof/Machine/Ctx.lean ====
section
/-! DEFINITION. The one way to read and write cores, contexts, clusters and their registers: accessors over the sparse tables of the module. -/

namespace Sys2Proof.Machine

/-- Is what a component type drives disabled, since the firmware did not accept the component (R668): 2 the dies' dispatchers, 3 HBM, 4 the links, 5 the PCIe ports (log 19,
DESIGN CHOICE)? -/
def disabled (m : Mod) (type : Nat) : Bool := m.sec.degraded.getLsbD (type - 1)

/-! ## Cores, contexts and clusters -/

/-- The cluster of a core (R14). -/
def clusterOf (c : Nat) : Nat := c / 16

/-- The core of a thread (R14). -/
def coreOf (t : Nat) : Nat := t / 4

/-- A cluster at reset: the high word of its stream generator holds its identifier (R445). -/
def Cluster.reset (q : Nat) : Cluster := { seed1 := w64 q }

/-- Core `c`. -/
def core (m : Mod) (c : Nat) : Core := tblGet {} m.cores c

/-- The module with core `c` changed by `f`. -/
def setCore (m : Mod) (c : Nat) (f : Core → Core) : Mod := { m with cores := tblMod {} m.cores c f }

/-- Context `t` of the module, `t` a thread identifier (R14). -/
def ctx (m : Mod) (t : Nat) : Ctx := tblGet (Ctx.reset t) (core m (t / 4)).ctxs (t % 4)

/-- The module with context `t` changed by `f`. -/
def setCtx (m : Mod) (t : Nat) (f : Ctx → Ctx) : Mod :=
  setCore m (t / 4) (fun c => { c with ctxs := tblMod (Ctx.reset t) c.ctxs (t % 4) f })

/-- Cluster `q`. -/
def cluster (m : Mod) (q : Nat) : Cluster := tblGet (Cluster.reset q) m.clusters q

/-- The module with cluster `q` changed by `f`. -/
def setCluster (m : Mod) (q : Nat) (f : Cluster → Cluster) : Mod :=
  { m with clusters := tblMod (Cluster.reset q) m.clusters q f }

/-- Work at a tile: it leaves P1, and its idle time starts again (R648). -/
def touchTile (m : Mod) (q : Nat) : Mod := setCluster m q (fun c => { c with gated := false, busyAt := m.now })

/-- The threads of a core. -/
def threadsOf (c : Nat) : List Nat := (List.range 4).map (fun i => 4 * c + i)

/-- Is the thread live? -/
def isLive (m : Mod) (t : Nat) : Bool := (ctx m t).live

/-- The live threads of a core. -/
def liveThreads (m : Mod) (c : Nat) : List Nat := (threadsOf c).filter (isLive m)

/-- The current thread of a core comes to a switch point: its count of bundles returns to zero, and the core issues nothing until it has chosen a thread (R335, R338, R339). -/
def leaveTurn (m : Mod) (t : Nat) : Mod :=
  if (core m (t / 4)).cur == t % 4 then setCore (setCtx m t (fun x => { x with qcount := 0 })) (t / 4) (fun c => { c with idle := true }) else m

/-- Does an access belong to the thread that runs in its context now (R333)? -/
def ownerHere (m : Mod) (a : Access) : Bool := (ctx m a.thread.toNat).live && (ctx m a.thread.toNat).gen == a.gen

/-! ## Counters (R635, R636) -/

/-- Counter `k` of core `c` advanced by `n`. -/
def count (m : Mod) (c k n : Nat) : Mod :=
  if n = 0 then m else setCore m c (fun co => { co with counters := tblMod 0 co.counters k (fun x => x + w64 n) })

/-- Counter `k` of cluster `q` advanced by `n`. -/
def countCluster (m : Mod) (q k n : Nat) : Mod :=
  if n = 0 then m else setCluster m q (fun cl => { cl with counters := tblMod 0 cl.counters k (fun x => x + w64 n) })

/-! ## Registers of a context -/

/-- Scalar register r. -/
def Ctx.sreg (x : Ctx) (r : Nat) : Word := tblGet 0 x.s r
/-- Vector register r. -/
def Ctx.vreg (x : Ctx) (r : Nat) : Vec := tblGet 0 x.v r
/-- Lane mask r; vm0 reads all ones (R51). -/
def Ctx.vmask (x : Ctx) (r : Nat) : BitVec 32 := if r = 0 then 0xFFFFFFFF else tblGet 0 x.vm r
/-- Predicate r; p0 reads 1 (R51). -/
def Ctx.pred (x : Ctx) (r : Nat) : Bool := if r = 0 then true else tblGet false x.p r
/-- Stride descriptor r. -/
def Ctx.sdesc (x : Ctx) (r : Nat) : Word := tblGet 0 x.sd r
/-- The data of row r of tile t. -/
def Ctx.tdata (x : Ctx) (t r : Nat) : Vec := tblGet 0 x.trow (16 * t + r)
/-- The scale bytes of row r of tile t. -/
def Ctx.tsc (x : Ctx) (t r : Nat) : BitVec 32 := tblGet 0 x.tscale (16 * t + r)
/-- The configuration of tile t (R199). -/
def Ctx.tconf (x : Ctx) (t : Nat) : TileCfg := tblGet {} x.tcfg t
/-- Cell 16 i + j of accumulator a (R209). -/
def Ctx.acell (x : Ctx) (a c : Nat) : BitVec 32 := tblGet 0 x.acc (256 * a + c)
/-- The type of accumulator a (R209). -/
def Ctx.aty (x : Ctx) (a : Nat) : AccTy := tblGet .fp32 x.accTy a
/-- Endpoint e (R358). -/
def Ctx.endp (x : Ctx) (e : Nat) : Endpoint := tblGet {} x.eps e

def Ctx.setS (x : Ctx) (r : Nat) (v : Word) : Ctx := { x with s := tblPut x.s r v }
def Ctx.setV (x : Ctx) (r : Nat) (v : Vec) : Ctx := { x with v := tblPut x.v r v }
/-- A write to vm0 has no effect (R51). -/
def Ctx.setVm (x : Ctx) (r : Nat) (v : BitVec 32) : Ctx := if r = 0 then x else { x with vm := tblPut x.vm r v }
/-- A write to p0 has no effect (R51). -/
def Ctx.setP (x : Ctx) (r : Nat) (v : Bool) : Ctx := if r = 0 then x else { x with p := tblPut x.p r v }

/-- The depth of a thread: the active loop levels, which are the lowest (R165). -/
def Ctx.depth (x : Ctx) : Nat :=
  if tblGet 0 x.lpe 0 = 0 then 0
  else if tblGet 0 x.lpe 1 = 0 then 1
  else if tblGet 0 x.lpe 2 = 0 then 2
  else if tblGet 0 x.lpe 3 = 0 then 3
  else 4

/-- Is any pending bit of the thread set (R55)? -/
def Ctx.anyPend (x : Ctx) : Bool := x.pendS != 0 || x.pendV != 0 || x.pendT != 0

/-! ## Control registers (R52 to R58, R305, R314, R316, R320, R336, R339, R340, R349, R477) -/

/-- cr.status (R55). -/
def crStatus (x : Ctx) : Word :=
  w64 (b1 x.haz * 0x8000 + b1 x.anyPend * 0x100 + b1 x.bypass * 8 + b1 x.sup)

/-- cr.thread (R56). -/
def crThread (m : Mod) (t : Nat) : Word :=
  let c := t / 4
  w64 ((b1 (isLive m (4 * c)) + 2 * b1 (isLive m (4 * c + 1)) + 4 * b1 (isLive m (4 * c + 2)) + 8 * b1 (isLive m (4 * c + 3))) * 0x10000 + t)

/-- cr.arith (R57). -/
def crArith (x : Ctx) : Word := w64 (x.flags.toNat * 0x10000 + x.rnd.toNat * 16 + b1 x.strict)

/-- cr.share (R340). -/
def crShare (c : Core) : Word :=
  w64 (b1 c.conf * 2 ^ 48 + b1 c.shareStatic * 2 ^ 32 + c.fcap.toNat * 2 ^ 16 + c.scap.toNat)

/-- cr.waitdog (R349). -/
def crWaitdog (c : Core) : Word := w64 (c.wdWhy.toNat * 2 ^ 48 + c.wdLimit.toNat)

/-- Is the control register number assigned (R54)? -/
def crAssigned (n : Nat) : Bool :=
  decide (n ≤ 0x012) || decide (0x020 ≤ n ∧ n ≤ 0x02B) || decide (0x030 ≤ n ∧ n ≤ 0x037)

/-- May user mode read the register (R53, R54)? -/
def crUserRead (n : Nat) : Bool :=
  match n with
  | 0x000 | 0x001 | 0x002 | 0x003 | 0x004 | 0x005 | 0x00C | 0x00F | 0x010 => true
  | _ => decide (0x020 ≤ n)

/-- May user mode write the register (R53, R54)? cr.status carries its access field by field. -/
def crUserWrite (n : Nat) : Bool :=
  match n with
  | 0x000 | 0x002 | 0x003 | 0x004 => true
  | _ => decide (0x020 ≤ n)

/-- The value of control register `n` as a CRR of thread `t` reads it (R52). -/
def crRead (m : Mod) (t n : Nat) : Word :=
  let x := ctx m t
  let c := core m (t / 4)
  match n with
  | 0x000 => crStatus x
  | 0x001 => crThread m t
  | 0x002 => crArith x
  | 0x003 => x.sr0
  | 0x004 => x.sr1
  | 0x005 => w64 x.mask.toNat
  | 0x006 => x.cause
  | 0x007 => x.epc
  | 0x008 => x.ssp
  | 0x009 => w64 (c.dfBase.toNat * 256)
  | 0x00A => x.vbase
  | 0x00B => x.tprog
  | 0x00C => w64 (b1 x.prio)
  | 0x00D => w64 c.quantum.toNat
  | 0x00E => crWaitdog c
  | 0x00F => m.tb.time
  | 0x010 => w64 x.job.toNat
  | 0x011 => x.xbase
  | 0x012 => crShare c
  | 0x020 | 0x021 | 0x022 | 0x023 => tblGet 0 x.lps (n - 0x020)
  | 0x024 | 0x025 | 0x026 | 0x027 => tblGet 0 x.lpe (n - 0x024)
  | 0x028 | 0x029 | 0x02A | 0x02B => w64 (tblGet 0 x.lpc (n - 0x028)).toNat
  | _ => x.sdesc (n - 0x030)

/-- The stride descriptor's writable bits (R108). -/
def sdMask : Word := 0x00001FFF1FFF1FFF

/-- cr.tprog's writable bits (R320). -/
def tprogMask : Word := 0xC3FFFFFFFFFFFFFF

/-- cr.xbase's writable bits (R477). -/
def xbaseMask : Word := 0x00007FFFFFF00001

/-- cr.arith after a CRW of `v`: flags W1C, 0b11 leaves rnd unchanged (R57, R58). -/
def writeArith (x : Ctx) (v : Word) : Ctx :=
  let r : BitVec 2 := BitVec.ofNat 2 (fld v.toNat 4 2)
  { x with
    flags := x.flags &&& ~~~(BitVec.ofNat 5 (fld v.toNat 16 5))
    rnd := if r = 3 then x.rnd else r
    strict := bitOf v.toNat 0 }

/-- A CRW of `v` to control register `n` by thread `t`, as it lands (R52, R53). The loop registers and the stride descriptors land on their own. -/
def crLand (m : Mod) (t n : Nat) (v : Word) : Mod :=
  let k := v.toNat
  match n with
  | 0x000 => if bitOf k 15 then setCtx m t (fun x => { x with haz := false }) else m
  | 0x002 => setCtx m t (fun x => writeArith x v)
  | 0x003 => setCtx m t (fun x => { x with sr0 := v })
  | 0x004 => setCtx m t (fun x => { x with sr1 := v })
  | 0x005 => if fld k 0 3 ≤ 4 then setCtx m t (fun x => { x with mask := BitVec.ofNat 3 (fld k 0 3) }) else m
  | 0x007 => setCtx m t (fun x => { x with epc := v &&& ~~~(0x1F : Word) })
  | 0x008 => setCtx m t (fun x => { x with ssp := v })
  | 0x00A => setCtx m t (fun x => { x with vbase := v &&& ~~~(0x7FF : Word) })
  | 0x00B => setCtx m t (fun x => { x with tprog := v &&& tprogMask })
  | 0x00C => setCtx m t (fun x => { x with prio := bitOf k 0 })
  | 0x00D => setCore m (t / 4) (fun c => { c with quantum := BitVec.ofNat 32 k })
  | 0x00E => setCore m (t / 4) (fun c => { c with wdLimit := BitVec.ofNat 32 k })
  | 0x011 => setCtx m t (fun x => { x with xbase := v &&& xbaseMask })
  | 0x012 => setCore m (t / 4) (fun c =>
      { c with shareStatic := bitOf k 32, fcap := BitVec.ofNat 7 (fld k 16 7), scap := BitVec.ofNat 9 (fld k 0 9) })
  | _ => m

end Sys2Proof.Machine
end

