-- ==== Sys2Proof/Machine/Mem.lean ====
section
/-! DEFINITION. The module address space (R473, R474), HBM placement (R483) and the burst code (R487 to R490), the SRAM granules (R386 to R389, R419), and the canonical memory. -/

namespace Sys2Proof.Machine

/-! ## The module address map -/

/-- Where a module address lies (R473, R474, R495). -/
inductive Region where
  | hbm
  | cm (q off : Nat)
  | lm (c off : Nat)
  | sdm (c off : Nat)
  | queueView (c off : Nat)
  | hostWindow (port : Bool) (off : Nat)
  | control (off : Nat)
  | reserved
  deriving DecidableEq, Repr

/-- The SRAM window's base, and the size of a cluster's slice (R473). -/
def sramBase : Nat := 0x400000000000
def sliceBytes' : Nat := 0x2000000

/-- The range of a module address (R473, R474). -/
def regionOf (a : Nat) : Region :=
  if a < 0x030000000000 then .hbm
  else if a < sramBase then .reserved
  else if a < 0x400100000000 then
    let q := (a - sramBase) / sliceBytes'
    let o := (a - sramBase) % sliceBytes'
    if o < 0x1000000 then .cm q o
    else if o < 0x1800000 then .lm (16 * q + (o - 0x1000000) / 0x80000) ((o - 0x1000000) % 0x80000)
    else if o < 0x1900000 then .sdm (16 * q + (o - 0x1800000) / 0x10000) ((o - 0x1800000) % 0x10000)
    else if o < 0x1A00000 then .queueView (16 * q + (o - 0x1900000) / 0x10000) ((o - 0x1900000) % 0x10000)
    else .reserved
  else if a < 0x500000000000 then .reserved
  else if a < 0x580000000000 then .hostWindow false (a - 0x500000000000)
  else if a < 0x600000000000 then .hostWindow true (a - 0x580000000000)
  else if a < 0x700000000000 then .reserved
  else if a < 0x700001000000 then .control (a - 0x700000000000)
  else .reserved

/-- The module address of an LM byte (R376). -/
def lmAddr (c off : Nat) : Nat := sramBase + sliceBytes' * (c / 16) + 0x1000000 + 0x80000 * (c % 16) + off
/-- The module address of an SDM byte (R382). -/
def sdmAddr (c off : Nat) : Nat := sramBase + sliceBytes' * (c / 16) + 0x1800000 + 0x10000 * (c % 16) + off
/-- The module address of a CM byte (R384). -/
def cmAddr (q off : Nat) : Nat := sramBase + sliceBytes' * q + off

/-- Is the address in HBM? -/
def isHbm (a : Nat) : Bool := decide (a < 0x030000000000)

/-- What a module address reaches: HBM that is disabled is no memory (R668) (log 19, DESIGN CHOICE). -/
def regionIn (m : Mod) (a : Nat) : Region := if disabled m 3 && isHbm a then .reserved else regionOf a

/-! ## Bytes in one canonical form -/

/-- The key under which the generation of an address's contents is kept: its HBM region, its LM, SDM or CM. -/
def genKey (a : Nat) : Nat :=
  match regionOf a with
  | .hbm => a / 2 ^ 30
  | .cm q _ => 30000 + q
  | .lm c _ => 10000 + c
  | .sdm c _ => 20000 + c
  | _ => 40000

/-- The generation of unspecified contents at an address: 0 until the contents became unspecified (R485, R605). -/
def Memory.gen (mem : Memory) (a : Nat) : Nat := (if isHbm a then mem.hbmGen else mem.sramGen) + tblGet 0 mem.gens (genKey a)

/-- What an unlisted byte reads as: 0 before its contents became unspecified (log 2, DESIGN CHOICE), a free value after (log 3, DESIGN CHOICE). -/
def Memory.unlisted (mem : Memory) (a : Nat) : Byte :=
  if mem.gen a = 0 then 0 else Config.freeByte (mem.gen a) a

/-- The byte of a listed address. -/
def cellFind : List Host.Cell → Nat → Option Byte
  | [], _ => none
  | (b, x) :: t, a => if b = a then some x else cellFind t a

/-- The list without an address. -/
def cellDel : List Host.Cell → Nat → List Host.Cell
  | [], _ => []
  | (b, x) :: t, a => if b = a then t else (b, x) :: cellDel t a

/-- The list with an address holding a byte, in rising order. -/
def cellPut : List Host.Cell → Nat → Byte → List Host.Cell
  | [], a, v => [(a, v)]
  | (b, x) :: t, a, v =>
    if b = a then (a, v) :: t
    else if a < b then (a, v) :: (b, x) :: t
    else (b, x) :: cellPut t a v

/-- The byte at an address. -/
def Memory.byte (mem : Memory) (a : Nat) : Byte := (cellFind mem.cells a).getD (mem.unlisted a)

/-- The memory with a byte written: an entry that holds what an unlisted byte reads as is removed. -/
def Memory.setByte (mem : Memory) (a : Nat) (v : Byte) : Memory :=
  { mem with cells := if v = mem.unlisted a then cellDel mem.cells a else cellPut mem.cells a v }

/-- `n` bytes from an address on, as stored. -/
def Memory.bytes (mem : Memory) (a : Nat) : Nat → List Byte
  | 0 => []
  | n + 1 => mem.byte a :: mem.bytes (a + 1) n

/-- The memory with a byte string written from an address on. -/
def Memory.setBytes (mem : Memory) (a : Nat) : List Byte → Memory
  | [] => mem
  | v :: t => (mem.setByte a v).setBytes (a + 1) t

/-- Do the addresses rise strictly from `lo` on, and does no entry hold what an unlisted byte reads as? -/
def cellsOk (mem : Memory) (lo : Nat) : List Host.Cell → Bool
  | [] => true
  | (a, v) :: t => decide (lo ≤ a) && (v != mem.unlisted a) && cellsOk mem (a + 1) t

/-- The canonical form. -/
def Memory.wf (mem : Memory) : Bool := cellsOk mem 0 mem.cells

/-- The memory whose bytes of the generation key `key` have unspecified contents from now on (R485, R605): unmarked, unlisted, of a new generation. -/
def Memory.scramble (mem : Memory) (key : Nat) : Memory :=
  { mem with
    cells := mem.cells.filter (fun c => genKey c.1 != key)
    check := mem.check.filter (fun c => genKey c.1 != key)
    granules := mem.granules.filter (fun c => genKey c.1 != key)
    gens := tblMod 0 mem.gens key (· + 1) }

/-! ## Placement (R483, R484) -/

/-- HBM_PLACEj (R484). -/
def placeOf (m : Mod) (j : Nat) : BitVec 17 := tblGet 0 m.place j

/-- The port and port offset of an HBM module address (R483). -/
def portOf (m : Mod) (a : Nat) : Nat × Nat :=
  let r := a / 2 ^ 30
  let off := a % 2 ^ 30
  let q := r / 24
  let j := r % 24
  let d := q / 16
  let p := (placeOf m j).toNat
  if bitOf p 16 then
    let b := (2 ^ 30 * q + off) / 4096
    (b % 128, 2 ^ 30 * j + 4096 * (b / 128) + off % 4096)
  else if bitOf p d then
    let b := (2 ^ 30 * (q % 16) + off) / 4096
    (16 * d + b % 16, 2 ^ 30 * j + 4096 * (b / 16) + off % 4096)
  else (q, 2 ^ 30 * j + off)

/-- The stack of a port: 4 per die (R23). -/
def stackOf (port : Nat) : Nat := 4 * (port / 16) + 2 * (port / 8 % 2) + port % 8 / 4

/-! ## The burst code (R487) -/

/-- Multiplication in GF(2^16) with x^16 + x^12 + x^3 + x + 1: `n` bits of `b`. -/
def gfMulAux : Nat → Nat → Nat → Nat → Nat
  | 0, _, _, acc => acc
  | n + 1, a, b, acc =>
    gfMulAux n (if a ≥ 0x8000 then (2 * a) ^^^ 0x1100B else 2 * a) (b / 2) (if b % 2 = 1 then acc ^^^ a else acc)

/-- The product in GF(2^16). -/
def gfMul (a b : Nat) : Nat := gfMulAux 16 a b 0

/-- a^(2^(n+1) - 2), which is the inverse for n + 1 = 16. -/
def gfInvAux : Nat → Nat → Nat → Nat
  | 0, _, acc => acc
  | n + 1, p, acc => gfInvAux n (gfMul p p) (gfMul acc p)

/-- The inverse in GF(2^16). -/
def gfInv (a : Nat) : Nat := gfInvAux 15 (gfMul a a) 1

/-- α^j for the positions of a codeword. -/
def gfPow : Nat → Nat
  | 0 => 1
  | n + 1 => gfMul 2 (gfPow n)

/-- The value of the polynomial with the coefficients c, lowest first, at x. -/
def gfEval (x : Nat) : List Nat → Nat
  | [] => 0
  | c :: t => c ^^^ gfMul x (gfEval x t)

/-- The data symbols of a line (R487). -/
def lineSymbols (d : List Byte) : List Nat := (List.range 32).map (fun i => ofBytes (sliceBytes d (2 * i) 2))

/-- The bytes of data symbols. -/
def symbolBytes (l : List Nat) : List Byte := l.flatMap (fun s => toBytes 2 s)

/-- The generator's coefficients below x^4: the product of (x + α^k) for k = 0 to 3 (R487). -/
def genPoly : List Nat :=
  [1, 2, 4, 8].foldl (fun p r => ((0 :: p).zip ((p.map (gfMul r)) ++ [0])).map (fun q => q.1 ^^^ q.2)) [1]

/-- One step of the division by g(x): the register of four symbols takes the next data symbol, highest first. -/
def checkStep (reg : List Nat) (s : Nat) : List Nat :=
  let f := s ^^^ reg.getD 3 0
  (List.range 4).map (fun k => (if k = 0 then 0 else reg.getD (k - 1) 0) ^^^ gfMul f (genPoly.getD k 0))

/-- The check symbols of the data symbols: the remainder of x^4 D(x) by g(x) (R487). -/
def checkSymbols (data : List Nat) : List Nat := data.reverse.foldl checkStep [0, 0, 0, 0]

/-- The result of decoding a stored word (R488, R489). -/
inductive Decoded where
  | good (data : List Nat)
  | corrected (data : List Nat)
  | poison
  | uncorrectable
  deriving DecidableEq, Repr

/-- The pairs of positions of a codeword. -/
def symbolPairs : List (Nat × Nat) := (List.range 36).flatMap (fun i => (List.range i).map (fun j => (j, i)))

/-- A codeword with an error added at a position. -/
def addError (c : List Nat) (j e : Nat) : List Nat := listMod j (fun x => x ^^^ e) c

/-- The decoding of a word: coefficients of x^0 to x^35 (R487 to R489). -/
def decodeWord (c : List Nat) : Decoded :=
  if c == List.replicate 4 0xFFFF ++ List.replicate 32 0 then .poison
  else
    let s0 := gfEval 1 c
    let s1 := gfEval 2 c
    let s2 := gfEval 4 c
    let s3 := gfEval 8 c
    if s0 = 0 ∧ s1 = 0 ∧ s2 = 0 ∧ s3 = 0 then .good (c.drop 4)
    else
      match (List.range 36).find? (fun j =>
          let x := gfPow j
          s0 != 0 && s1 == gfMul s0 x && s2 == gfMul s1 x && s3 == gfMul s2 x) with
      | some j => .corrected ((addError c j s0).drop 4)
      | none =>
        match symbolPairs.find? (fun p =>
            let a := gfPow p.1
            let b := gfPow p.2
            let t := a ^^^ b
            let u := gfMul a b
            (s2 ^^^ gfMul t s1 ^^^ gfMul u s0) == 0 && (s3 ^^^ gfMul t s2 ^^^ gfMul u s1) == 0) with
        | some p =>
          let a := gfPow p.1
          let b := gfPow p.2
          let e2 := gfMul (s1 ^^^ gfMul s0 a) (gfInv (a ^^^ b))
          .corrected ((addError (addError c p.1 (s0 ^^^ e2)) p.2 e2).drop 4)
        | none => .uncorrectable

/-- The stored word of a line: its check symbols are those of its data unless listed. -/
def Memory.word (mem : Memory) (line : Nat) : List Nat :=
  let data := lineSymbols (mem.bytes line 64)
  match tblFind mem.check line with
  | some c => c.map BitVec.toNat ++ data
  | none => checkSymbols data ++ data

/-- The decoding of a line as it stands. -/
def Memory.decode (mem : Memory) (line : Nat) : Decoded :=
  match tblFind mem.check line with
  | none => .good (lineSymbols (mem.bytes line 64))
  | some c => decodeWord (c.map BitVec.toNat ++ lineSymbols (mem.bytes line 64))

/-- A line stored as a codeword of the data. -/
def Memory.setLine (mem : Memory) (line : Nat) (d : List Byte) : Memory :=
  { mem.setBytes line d with check := tblDel mem.check line }

/-- A line stored as the poison word (R489). -/
def Memory.poisonLine (mem : Memory) (line : Nat) : Memory :=
  { mem.setBytes line (List.replicate 64 0) with check := tblPut mem.check line [0xFFFF, 0xFFFF, 0xFFFF, 0xFFFF] }

/-- A stored symbol of a line changed by a difference (R487): positions 0 to 3 are check symbols. -/
def Memory.upset (mem : Memory) (line sym : Nat) (diff : BitVec 16) : Memory :=
  let w := addError (mem.word line) sym diff.toNat
  let data := w.drop 4
  let mem := mem.setBytes line (symbolBytes data)
  let chk := w.take 4
  if chk = checkSymbols data then { mem with check := tblDel mem.check line }
  else { mem with check := tblPut mem.check line (chk.map (BitVec.ofNat 16)) }

/-! ## Kinds of accesses, and when one is performed (R447) -/

/-- Is the access a read or an atomic? -/
def AccKind.reads : AccKind → Bool
  | .load | .amo | .tlgRow | .frameRead => true
  | _ => false

/-- Is the access a write at its target? -/
def AccKind.writes : AccKind → Bool
  | .store | .put | .tsgRow | .framePush | .vstore => true
  | _ => false

/-- Has the access been answered with an error response? Until that reaches its issuer, it is not performed. -/
def Access.refused (a : Access) : Bool := a.answer.any (fun r => r.status != 0)

/-- Has a write been performed, as its issuer counts it: written at its target on this module, or else its acknowledgement or error response back, and the access over? -/
def writeDone (a : Access) : Bool :=
  a.performed && a.peer.isNone && (match regionOf a.addr with | .hostWindow _ _ => false | _ => true) && !a.refused

/-- Has an access been performed, as the completion of a LAUNCH counts it (R564)? -/
def Access.counted (a : Access) : Bool := if a.kind.reads then a.performed && !a.refused else writeDone a

/-! ## HBM lines, with the counts of their port (R488, R490, R494) -/

/-- What a read of a line delivers: the module after it, 64 bytes, and whether they are poisoned. -/
structure LineRead where
  m : Mod
  data : List Byte
  poison : Bool

/-- A corrected read counted at the port of an address (R488, R494). -/
def countCe (m : Mod) (a : Nat) : Mod :=
  let q := (portOf m a).1
  countCluster (setCluster m q (fun c => { c with ce := satAdd 32 c.ce 1 })) q 6 1

/-- An uncorrectable read counted, its port offset captured (R488, R494). -/
def countUe (m : Mod) (a : Nat) : Mod :=
  let q := (portOf m a).1
  countCluster (setCluster m q (fun c =>
    { c with ue := satAdd 16 c.ue 1, ueValid := true, ueAddr := 64 * ((portOf m a).2 / 64) })) q 7 1

/-- A read of a line at its port (R488, R489). -/
def readLine (m : Mod) (line : Nat) : LineRead :=
  let m := countCluster m (portOf m line).1 4 1
  match m.mem.decode line with
  | .good d => { m := m, data := symbolBytes d, poison := false }
  | .corrected d =>
    { m := countCe { m with mem := m.mem.setLine line (symbolBytes d) } line, data := symbolBytes d, poison := false }
  | .poison => { m := m, data := m.mem.bytes line 64, poison := true }
  | .uncorrectable => { m := countUe m line, data := m.mem.bytes line 64, poison := true }

/-- Is the line bad: the poison word or uncorrectable (R490)? -/
def lineBad (m : Mod) (line : Nat) : Bool :=
  match m.mem.decode line with
  | .poison | .uncorrectable => true
  | _ => false

/-- A write of some bytes of one line at its port (R490): the module after it, and whether it was done (log 58, DEDUCED). -/
def writeLine (m : Mod) (line off : Nat) (d : List Byte) (poison : Bool) : Mod × Bool :=
  let q := (portOf m line).1
  let m1 := countCluster m q 5 1
  if poison then ({ m1 with mem := m1.mem.poisonLine line }, true)
  else if off = 0 ∧ d.length = 64 then ({ m1 with mem := m1.mem.setLine line d }, true)
  else
    let r := readLine m line
    if r.poison then (r.m, false)
    else ({ countCluster r.m q 5 1 with mem := r.m.mem.setLine line (patchBytes r.data off d) }, true)

/-! ## SRAM granules (R386 to R389, R419) -/

/-- The error state of the granule that holds an address. -/
def granuleOf (m : Mod) (a : Nat) : Option Granule := tblFind m.mem.granules (8 * (a / 8))

/-- A granule's state set or cleared. -/
def setGranule (m : Mod) (a : Nat) (g : Option Granule) : Mod :=
  { m with mem := { m.mem with granules := match g with
    | some x => tblPut m.mem.granules (8 * (a / 8)) x
    | none => tblDel m.mem.granules (8 * (a / 8)) } }

/-- The granules that a range of bytes touches. -/
def granulesOf (a n : Nat) : List Nat :=
  if n = 0 then [] else (List.range ((a + n - 1) / 8 - a / 8 + 1)).map (fun i => 8 * (a / 8 + i))

/-- A correctable error of a granule counted in SRAM_CE, a counter of a core (R387, R635): that of the owner of an LM or SDM; of a CM, that of one of the cluster's
cores, which the spec does not name (log 97, DESIGN CHOICE). -/
def countSramCe (m : Mod) (g : Nat) : Mod :=
  match regionOf g with
  | .lm c _ | .sdm c _ => count m c 28 1
  | .cm q _ => count { m with free := m.free + 1 } (16 * q + Config.cmCounter m.free % 16) 28 1
  | _ => m

/-- A read of SRAM corrects the granules with a correctable error, and counts them (R387). -/
def sramCorrect (m : Mod) (a n : Nat) : Mod :=
  (granulesOf a n).foldl (fun m g => if granuleOf m g = some .ce then countSramCe (setGranule m g none) g else m) m

/-- Is the byte in a granule that an external read finds poisoned (R388, R419)? -/
def byteBad (m : Mod) (a : Nat) : Bool :=
  match granuleOf m a with
  | some .ue | some .poison => true
  | _ => false

/-- The bytes of a write that fall into one granule; all of them are written, or none (R386, R389, R419). -/
def writeGranule (m : Mod) (g : Nat) (a : Nat) (d : List (Byte × Bool)) : Mod × Bool :=
  let lo := max g a
  let hi := min (g + 8) (a + d.length)
  let part := (d.drop (lo - a)).take (hi - lo)
  let full := decide (part.length = 8)
  let pois := part.any (fun p => p.2)
  let bad := byteBad m g
  if pois then
    if bad && !full then (m, false)
    else (setGranule { m with mem := m.mem.setBytes lo (part.map Prod.fst) } g (some .poison), true)
  else if bad && !full then (m, false)
  else (setGranule { m with mem := m.mem.setBytes lo (part.map Prod.fst) } g none, true)

/-- A write of bytes, each with its poison, into LM, SDM or CM; false where a granule refuses it (R389, R419): then nothing is written, since an access answered with an
error response has written nothing (R447). -/
def writeSram (m : Mod) (a : Nat) (d : List (Byte × Bool)) : Mod × Bool :=
  let gs := granulesOf a d.length
  if gs.all (fun g => (writeGranule m g a d).2) then (gs.foldl (fun m g => (writeGranule m g a d).1) m, true) else (m, false)

/-- An error of a cache line joined to those it has: an uncorrectable error of a word replaces a correctable one. -/
def addLineErr (l : List LineUpset) (u : LineUpset) : List LineUpset :=
  if l.contains u then l
  else match u with
    | .ce w => if l.contains (.ue w) then l else l ++ [u]
    | .ue w => l.filter (· != .ce w) ++ [u]
    | .tag => l ++ [u]

/-- The physical upsets of an event taken into the state of the storage (log 47, DESIGN CHOICE). -/
def applyUpsets (m : Mod) (u : Upsets) : Mod :=
  let m := u.symbols.foldl (fun m s => { m with mem := m.mem.upset s.1 s.2.1 s.2.2 }) m
  let m := u.granules.foldl (fun m g =>
    match granuleOf m g.1, g.2 with
    | some .ue, _ => m
    | some .poison, .ce => m
    | _, .ce => setGranule m g.1 (some .ce)
    | _, .ue => setGranule m g.1 (some .ue)) m
  let m := u.accs.foldl (fun m a => setCtx m a.1 (fun x => { x with accBad := a.2 :: x.accBad })) m
  let m := u.tiles.foldl (fun m a => setCtx m a.1 (fun x => { x with tileBad := a.2 :: x.tileBad })) m
  let m := u.entries.foldl (fun m a => setCore m a.1 (fun c => { c with storeBad := a.2 :: c.storeBad })) m
  let m := u.icLines.foldl (fun m a => setCore m a.core (fun c =>
    { c with icache := modFirst (fun l => l.addr == a.line) (fun l => { l with err := addLineErr l.err a.kind }) c.icache })) m
  u.dcLines.foldl (fun m a => setCore m a.core (fun c =>
    { c with dcache := modFirst (fun l => l.addr == a.line) (fun l => { l with err := addLineErr l.err a.kind }) c.dcache })) m

/-- No upsets. -/
def noUpsets : Upsets := {}

/-! ## Reads and writes of HBM and SRAM by any requester (R447, R450) -/

/-- The lines that a range of bytes touches: line address, first byte in the line, number of bytes. -/
def linesOf (a n : Nat) : List (Nat × Nat × Nat) :=
  if n = 0 then []
  else (List.range ((a + n - 1) / 64 - a / 64 + 1)).map (fun i =>
    let line := 64 * (a / 64 + i)
    let lo := max line a
    (line, lo - line, min (line + 64) (a + n) - lo))

/-- A read of bytes of HBM, each with its poison. -/
def readHbm (m : Mod) (a n : Nat) : Mod × List (Byte × Bool) :=
  (linesOf a n).foldl (fun p l =>
    let r := readLine p.1 l.1
    (r.m, p.2 ++ (sliceBytes r.data l.2.1 l.2.2).map (fun b => (b, r.poison)))) (m, [])

/-- A write of bytes of HBM. A line written in part and bad refuses it with an error response (R490), and an access so answered has
written nothing (R447) (log 58, DEDUCED). -/
def writeHbm (m : Mod) (a : Nat) (d : List (Byte × Bool)) : Mod × Bool :=
  let ls := linesOf a d.length
  let part (l : Nat × Nat × Nat) := (d.drop (l.1 + l.2.1 - a)).take l.2.2
  let bad := ls.filter (fun l => !((part l).any (fun p => p.2)) && decide (l.2.2 < 64) && lineBad m l.1)
  if !bad.isEmpty then (bad.foldl (fun m l => (readLine m l.1).m) m, false)
  else (ls.foldl (fun m l => (writeLine m l.1 l.2.1 ((part l).map Prod.fst) ((part l).any (fun p => p.2))).1) m, true)

/-- The accesses of CM banks that a range of bytes takes, one for each 64 bytes that it touches (R384, R636). -/
def countCm (m : Mod) (a n : Nat) : Mod :=
  match regionOf a with
  | .cm q _ => countCluster m q 8 (linesOf a n).length
  | _ => m

/-- The bytes of LM, SDM or CM as a requester other than the core's own accesses reads them: each with its poison. -/
def sramBytes (m : Mod) (a n : Nat) : List (Byte × Bool) := (List.range n).map (fun i => (m.mem.byte (a + i), byteBad m (a + i)))

/-- A read of bytes of LM, SDM or CM by such a requester. -/
def readSram (m : Mod) (a n : Nat) : Mod × List (Byte × Bool) := (countCm (sramCorrect m a n) a n, sramBytes m a n)

/-- A write with the CM accesses counted. -/
def writeSramExt (m : Mod) (a : Nat) (d : List (Byte × Bool)) : Mod × Bool := writeSram (countCm m a d.length) a d

end Sys2Proof.Machine
end

