-- ==== Sys2Proof/Machine/Events.lean ====
section
/-! DEFINITION. What leaves the module and what the steward writes down: host writes, MSI-X messages (R552), the event log (R621, R625), and the Kerb fence (R602, R603). -/

namespace Sys2Proof.Machine

/-! ## Time -/

/-- The timebase after `d` nanoseconds (R626): while it is slewed, a tick more or less at most once per 1,000 ns, until the correction is applied (R628). -/
def Timebase.after (tb : Timebase) (d : Nat) : Timebase :=
  if !tb.slew || tb.slewLeft = 0 then { tb with time := tb.time + w64 d, ticks := tb.ticks + d, slewAt := 0 }
  else
    let n := min ((tb.slewAt + d) / 1000) tb.slewLeft.natAbs
    let k : Int := if tb.slewLeft > 0 then n else -n
    { tb with time := tb.time + w64 d + wInt k, ticks := ((tb.ticks + d : Nat) + k).toNat, slewAt := (tb.slewAt + d) % 1000, slewLeft := tb.slewLeft - k }

/-- Has the timebase power? -/
def tbRuns (m : Mod) : Bool := m.pwr.aoOn && !m.pwr.down

/-- Is a comparator due: enabled, with a time that is past, at a tick after that of the last write of its registers (R630)? -/
def Milepost.due (tb : Timebase) (p : Milepost) : Bool := p.en && decide (p.time.toNat ≤ tb.time.toNat) && decide (p.armed < tb.ticks)

/-- What the tiles, the power monitor, the links and the ports count at a moment. -/
def latchNow (m : Mod) : Latch :=
  { cores := m.cores.map (fun c => (c.1, c.2.counters)), clusters := m.clusters.map (fun c => (c.1, c.2.counters)), railNj := m.pwr.railNj,
    links := m.fab.links.map (fun l => (l.1, (l.2.telReplays, l.2.telUce))), noCq0 := m.hq.port0.noCq, noCq1 := m.hq.port1.noCq }

/-- At the tick at which a comparator with a snapshot becomes due the counters are latched for it, before anything of that tick is counted (R633, R634). -/
def latchDue (m : Mod) : Mod :=
  if m.tb.mps.any (fun e => e.2.snap && e.2.latch.isNone && e.2.due m.tb) then
    { m with tb := { m.tb with mps := m.tb.mps.map (fun e =>
      if e.2.snap && e.2.latch.isNone && e.2.due m.tb then (e.1, { e.2 with latch := some (latchNow m) }) else e) } }
  else m

/-- Time moves on to `t`, never back: the module's clock, and the timebase where its domain has power (R626) (log 13, DESIGN CHOICE). -/
def toTime (m : Mod) (t : Nat) : Mod :=
  let d := t - m.now
  if d = 0 then m
  else if tbRuns m then latchDue { m with now := t, tb := m.tb.after d }
  else { m with now := t }

/-- Time moves on until the timebase has counted `n` ticks: while it gains ticks (R628), in steps that cannot pass the last of them. -/
def reachTicks (n : Nat) : Nat → Mod → Mod
  | 0, m => m
  | f + 1, m =>
    let d := n - m.tb.ticks
    if d = 0 || !tbRuns m then m
    else
      let k := if m.tb.slew ∧ 0 < m.tb.slewLeft then max 1 ((d - 1) * 1000 / 1001) else d
      reachTicks n f (toTime m (m.now + k))

/-- A doorbell or a class-0 packet addressed to the module wakes it from P2 (R502, R648). -/
def wakeUp (m : Mod) : Mod := if m.pwr.state = 2 then { m with pwr := { m.pwr with waking := true } } else m

/-! ## Outputs -/

/-- An output appended (log 79, DESIGN CHOICE). -/
def emit (m : Mod) (o : Output) : Mod := { m with out := m.out ++ [o] }

/-- Host port 0 or 1. -/
def portOfHost (m : Mod) (p : Bool) : Port := if p then m.hq.port1 else m.hq.port0

/-- A host port changed. -/
def setPort (m : Mod) (p : Bool) (f : Port → Port) : Mod :=
  if p then { m with hq := { m.hq with port1 := f m.hq.port1 } }
  else { m with hq := { m.hq with port0 := f m.hq.port0 } }

/-- The entry of a vector in the MSI-X table of a port. -/
def Port.vec (k : Port) (v : Nat) : MsixVec := tblGet {} k.msix v

/-- An MSI-X vector sent with its address and data, or marked pending while it is masked (R552). -/
def sendMsix (m : Mod) (p : Bool) (v : Nat) : Mod :=
  let x := (portOfHost m p).vec v
  if !(portOfHost m p).bme then m
  else if !x.masked then emit m (.msix p v x.addr x.data)
  else setPort m p (fun q => { q with msixPending := if q.msixPending.contains v then q.msixPending else q.msixPending ++ [v] })

/-- The pieces of a range at the multiples of a size: address, length. -/
def piecesAt (size a n : Nat) : List (Nat × Nat) :=
  if n = 0 then []
  else (List.range ((a + n - 1) / size - a / size + 1)).map (fun i =>
    let lo := max a (size * (a / size + i))
    (lo, min (a + n) (size * (a / size + i + 1)) - lo))

/-- A write to host memory as TLPs of at most the port's payload size, each poisoned by a poisoned byte of its own, with the relaxed-ordering attribute or without (R491,
R540). -/
def hostWrites (m : Mod) (p : Bool) (a : Nat) (d : List (Byte × Bool)) (relaxed : Bool) : Mod :=
  (piecesAt (portOfHost m p).payload a d.length).foldl (fun m x =>
    let b := (d.drop (x.1 - a)).take x.2
    emit m (.hostWrite p x.1 (b.map Prod.fst) (b.any (fun b => b.2)) relaxed)) m

/-- A read of host memory as requests of at most the port's read request size (R540). -/
def hostReads (m : Mod) (p : Bool) (a n : Nat) : Mod :=
  (piecesAt (portOfHost m p).readSize a n).foldl (fun m x => emit m (.hostRead p x.1 x.2)) m

/-- An uncorrectable error that a port reports through AER, by its bit in the status register (R540; log 106, PRESUMED): 12 a poisoned TLP received, 14 a completion timeout,
15 a completer abort, 20 an unsupported request. -/
def aerError (m : Mod) (p : Bool) (bit : Nat) : Mod := setPort m p (fun k => { k with aer := k.aer ||| BitVec.ofNat 32 (2 ^ bit) })

/-! ## The event log -/

/-- What an event record says (R621). -/
structure EvRec where
  type : Nat
  detail : Nat := 0
  domain : Nat := 0
  unit : Nat := 0
  epoch : Nat := 0
  job : Nat := 0
  cause : Word := 0
  addr : Word := 0
  desc : Word := 0
  w5 : Word := 0
  deriving DecidableEq, Repr

/-- The journal's base (R594) (log 45, DESIGN CHOICE). -/
def journalBase : Nat := 0x02FFC0000000

/-- The eight words of a record (R621). -/
def evWords (m : Mod) (e : EvRec) : List Word :=
  [w64 (e.type * 2 ^ 56 + e.detail % 256 * 2 ^ 48 + e.domain % 8 * 2 ^ 45 + e.unit % 8192 * 2 ^ 32 + e.epoch % 256 * 2 ^ 24 + e.job % 65536),
   m.tb.time, e.cause, e.addr, e.desc, e.w5, m.rcv.evSeq, 0]

/-- Is the event log full (R625)? -/
def evFull (m : Mod) : Bool := m.rcv.evTail + 1 == m.rcv.evHead

/-- The steward writes an event record at the port of its line (R24), or drops it when the log is full; it then signals the hosts (R621, R625). -/
def logEvent (m : Mod) (e : EvRec) : Mod :=
  let r := m.rcv
  if m.hq.journalClosed then m
  else if evFull m then { m with rcv := { r with lost := satAdd 16 r.lost 1, evSeq := r.evSeq + 1 } }
  else
    let line := journalBase + 0x01000000 + 64 * r.evTail.toNat
    let m := { (writeLine m line 0 ((evWords m e).flatMap wordBytes) false).1 with
      rcv := { r with evTail := r.evTail + 1, evSeq := r.evSeq + 1 } }
    sendMsix (sendMsix m false m.hq.evvec0.toNat) true m.hq.evvec1.toNat

/-- The domain and the unit of a machine check of a memory, as the reset domains are coded: the core of an LM or SDM, the cluster of a CM, the stack of an HBM line (R604, R621)
(log 119, DEDUCED). -/
def memUnit (m : Mod) (a : Nat) : Nat × Nat :=
  match regionOf a with
  | .lm c _ | .sdm c _ => (1, c)
  | .cm q _ => (2, q)
  | .hbm => (4, stackOf (portOf m a).1)
  | _ => (6, 0)

/-- A machine-check record of a memory: the address of the failing granule, line or table (R388, R480, R493). -/
def memCheck (m : Mod) (detail a : Nat) : Mod :=
  logEvent m { type := 1, detail := detail, domain := (memUnit m a).1, unit := (memUnit m a).2, addr := w64 a }

/-- The detail of SRAM_UE for an address (R315). -/
def ueDetail (a : Nat) : Nat :=
  match regionOf a with
  | .lm _ _ => 0
  | .sdm _ _ => 1
  | _ => 2

/-- A memory reports the uncorrectable granules that a read finds (R388). -/
def reportUe (m : Mod) (a n : Nat) : Mod :=
  (granulesOf a n).foldl (fun m g => if granuleOf m g = some .ue then memCheck m (ueDetail g) g else m) m

/-! ## The Kerb fence -/

/-- Does the module address lie in a fenced target of the domain (R604)? -/
def domainCovers (m : Mod) (d : Domain) (a : Nat) : Bool :=
  match d, regionOf a with
  | .thread _, _ => false
  | .link _, _ => false
  | .module, .hostWindow _ _ => false
  | .module, _ => true
  | .core c, .lm k _ | .core c, .sdm k _ | .core c, .queueView k _ => c.toNat == k
  | .core c, .control o =>
    decide (o < 0x800000) && o / 0x10000 == c.toNat / 16 && decide (0x1000 ≤ o % 0x10000 ∧ o % 0x10000 < 0x9000) && (o % 0x10000 - 0x1000) / 0x800 == c.toNat % 16
  | .cluster q, .cm k _ => q.toNat == k
  | .cluster q, .lm k _ | .cluster q, .sdm k _ | .cluster q, .queueView k _ => q.toNat == k / 16
  | .cluster q, .control o => decide (o < 0x800000) && o / 0x10000 == q.toNat && !decide (0x20 ≤ o % 0x10000 ∧ o % 0x10000 < 0x30)
  | .die k, .hbm => (portOf m a).1 / 16 == k.toNat
  | .die k, .cm q _ => q / 16 == k.toNat
  | .die k, .lm c _ | .die k, .sdm c _ | .die k, .queueView c _ => c / 256 == k.toNat
  | .die k, .control o => decide (o < 0x800000) && o / 0x100000 == k.toNat
  | .stack s, .hbm => stackOf (portOf m a).1 == s.toNat
  | _, _ => false

/-- Is a request to the address, issued at `at_`, answered FENCED (R602, R603)? A request that the domain holds since before the fence completes while the drain lasts. -/
def fencedAt (m : Mod) (a at_ : Nat) : Bool :=
  m.rcv.resets.any (fun r => domainCovers m r.d a && !(r.draining && decide (at_ + 100000 < r.drainAt)))

/-- Does the domain hold the thread? -/
def domainHolds (d : Domain) (t : Nat) : Bool :=
  match d with
  | .thread k => k.toNat == t
  | .core c => c.toNat == t / 4
  | .cluster q => q.toNat == t / 64
  | .die k => k.toNat == t / 1024
  | .module => true
  | _ => false

/-- Is every domain powered, as in P0 and P1 outside S5 (R648, R657, R683)? -/
def powered (m : Mod) : Bool := m.pwr.aoOn && !m.pwr.down && m.pwr.state == 0

/-- Do the mesh and the core clocks run: powered, and below S4 (R648, R651)? -/
def meshRuns (m : Mod) : Bool := powered m && decide (m.pwr.level < 4)

/-- An event of the mesh, of the cores or of HBM: it waits while their clocks stand (R649, R656). -/
def onMesh (s : State) (f : Mod → Mod) : Host.Outcome State Fault Refusal :=
  if meshRuns s.mod then .next { s with mod := f s.mod } else .next s

/-- Does compute run: powered, and below S3 (R654)? -/
def coresRun (m : Mod) : Bool := powered m && decide (m.pwr.level < 3)

/-- Is the thread stopped by a Kerb fence (R602), or by S3 or the lack of power (R648, R654)? -/
def threadFenced (m : Mod) (t : Nat) : Bool := !coresRun m || m.rcv.resets.any (fun r => domainHolds r.d t)

end Sys2Proof.Machine
end

