-- ==== Sys2Proof/Machine/Xlate.lean ====
section
/-! DEFINITION. Job addresses and their translation (R475 to R480). -/

namespace Sys2Proof.Machine

/-- Where a job address leads: a module address here or on a peer, or a page that is not present. -/
inductive XRes where
  | here (a : Nat)
  | peer (id : BitVec 16) (a : Nat)
  | notPresent
  deriving DecidableEq, Repr

/-- What the walk finds for an address: the base of the page and its size in bits. -/
structure Page where
  page : Nat
  bits : Nat
  target : Nat
  deriving DecidableEq, Repr

/-- A table entry read at the owning port (R479): outside HBM it reads as not present; a poisoned or uncorrectable line too, with a machine-check record (R478, R480). -/
def readEntry (m : Mod) (a : Nat) : Mod × Nat :=
  if !isHbm a then (m, 0)
  else
    let r := readLine m (64 * (a / 64))
    if r.poison then (memCheck r.m 2 a, 0) else (r.m, ofBytes (sliceBytes r.data (a % 64) 8))

/-- A walk of the table of `xbase` for a local job address whose bits [62:47] are zero (R478). -/
def walk (m : Mod) (xbase : Word) (a : Nat) : Mod × Option Page :=
  let base := 2 ^ 20 * fld xbase.toNat 20 27
  match readEntry m (base + 8 * fld a 30 17) with
  | (m, e) =>
    if e % 4 = 1 then (m, some { page := a / 2 ^ 30, bits := 30, target := 2 ^ 30 * fld e 30 17 })
    else if e % 4 = 2 then
      match readEntry m (4096 * fld e 12 35 + 8 * fld a 21 9) with
      | (m, e2) =>
        if e2 % 4 = 1 then (m, some { page := a / 2 ^ 21, bits := 21, target := 2 ^ 21 * fld e2 21 26 })
        else (m, none)
    else (m, none)

/-- The entry of a TLB that translates the address under a table base (R479). -/
def tlbFind (l : List TlbEntry) (base : Word) (a : Nat) : Option TlbEntry :=
  l.find? (fun e => e.base == base && e.page == a / 2 ^ e.bits)

/-- A TLB of `size` entries filled; when it is full the entry replaced is one the spec does not name (log 6, DESIGN CHOICE). -/
def tlbFill (size seed : Nat) (l : List TlbEntry) (e : TlbEntry) : List TlbEntry :=
  if l.length < size then e :: l else e :: l.eraseIdx (Config.tlbVictim seed % l.length)

/-- The module address that an entry gives. -/
def TlbEntry.at_ (e : TlbEntry) (a : Nat) : Nat := e.target + a % 2 ^ e.bits

/-- The table base as a tag: the enabled bit apart (R479). -/
def tagBase (xbase : Word) : Word := xbase &&& 0x00007FFFFFF00000

/-- A translation through the cluster's TLB (R479). -/
def xlateCluster (m : Mod) (q : Nat) (xbase : Word) (a : Nat) : Mod × Option TlbEntry :=
  let base := tagBase xbase
  match tlbFind (cluster m q).tlb2 base a with
  | some e => (m, some e)
  | none =>
    let m := countCluster m q 9 1
    match walk m xbase a with
    | (m, none) => (m, none)
    | (m, some p) =>
      let e : TlbEntry := { base := base, page := p.page, bits := p.bits, target := p.target }
      let seed := m.free
      let m := { m with free := m.free + 1 }
      (setCluster m q (fun c => { c with tlb2 := tlbFill 2048 seed c.tlb2 e }), some e)

/-- A translation through a core's TLB, then its cluster's (R479). -/
def xlateCore (m : Mod) (c : Nat) (xbase : Word) (a : Nat) : Mod × Option TlbEntry :=
  match tlbFind (core m c).tlb (tagBase xbase) a with
  | some e => (m, some e)
  | none =>
    let m := count m c 39 1
    match xlateCluster m (c / 16) xbase a with
    | (m, none) => (m, none)
    | (m, some e) =>
      let seed := m.free
      let m := { m with free := m.free + 1 }
      (setCore m c (fun k => { k with tlb := tlbFill 64 seed k.tlb e }), some e)

/-- A remote job address: its peer and module address; this module's own name leads here (R476). -/
def xlateRemote (m : Mod) (a : Word) : XRes :=
  let id : BitVec 16 := BitVec.ofNat 16 (fld a.toNat 47 16)
  let M := fld a.toNat 0 47
  if id = m.fab.id then .here M else .peer id M

/-- A job address (R475 to R479), with `look` the TLB it goes through. -/
def xlateWith (look : Mod → Nat → Mod × Option TlbEntry) (m : Mod) (xbase a : Word) : Mod × XRes :=
  if bitOf a.toNat 63 then (m, xlateRemote m a)
  else if fld a.toNat 47 16 != 0 then (m, .notPresent)
  else if !bitOf xbase.toNat 0 then (m, .here a.toNat)
  else
    match look m a.toNat with
    | (m, some e) => (m, .here (e.at_ a.toNat))
    | (m, none) => (m, .notPresent)

/-- A job address of a core's access. -/
def xlate (m : Mod) (c : Nat) (xbase a : Word) : Mod × XRes := xlateWith (fun m x => xlateCore m c xbase x) m xbase a

/-- A job address of a stream engine's access. -/
def xlateEngine (m : Mod) (q : Nat) (xbase a : Word) : Mod × XRes := xlateWith (fun m x => xlateCluster m q xbase x) m xbase a

/-- The end of the page, or of the naturally aligned 2 MiB when nothing is translated, that holds a local job address (R406). -/
def pageBits (m : Mod) (c : Nat) (xbase a : Word) : Nat :=
  if !bitOf xbase.toNat 0 then 21
  else match tlbFind (core m c).tlb (tagBase xbase) a.toNat with
    | some e => e.bits
    | none => 21

end Sys2Proof.Machine
end

