-- ==== Sys2Proof/Machine/Land.lean ====
section
/-! DEFINITION. Results in flight and the cycles of a core: when a result lands (R63, R73, R74, R164), what its landing does, and the advance of a core's clock. -/

namespace Sys2Proof.Machine

/-- A machine check made pending for a thread (R308). -/
def raiseCheck (m : Mod) (t : Nat) (f : Flt) : Mod := setCtx m t (fun x => { x with checks := x.checks ++ [f] })

/-- A machine check of level 4 (R303) (log 51, DEDUCED). -/
def machineCheck (code : BitVec 8) (slot : BitVec 3) (detail : Nat) (bundle aux : Word) : Flt :=
  { level := 4, code := code, slot := slot, detail := BitVec.ofNat 16 detail, addr := bundle, aux := aux }

/-- The number of a slot in cr.cause (R314). -/
def slotNum : Slot → BitVec 3
  | .s => 0
  | .v => 1
  | .m => 2
  | .l => 3
  | .t => 4
  | .y => 5

/-- A value that the spec leaves open, and the next one (log 5, DESIGN CHOICE). -/
def takeFree (m : Mod) : Mod × Word := ({ m with free := m.free + 1 }, Config.freeWord m.free)

/-- The aux word of DATA_POISON on a granule of the core's own memories: the job address of its data, which is its module address where no table translates
(R313, R477); under a table the spec names none, and the word is free (log 5, DESIGN CHOICE). -/
def ownAux (m : Mod) (t g : Nat) : Mod × Word := if bitOf (ctx m t).xbase.toNat 0 then takeFree m else (m, w64 g)

/-- Is a granule uncorrectable or poisoned? -/
def granuleBad (m : Mod) (g : Nat) : Bool :=
  match granuleOf m g with
  | some .ue | some .poison => true
  | _ => false

/-- The machine check of an own access: one, for the first bad granule that it meets (R388, R389, R419) (log 80, DESIGN CHOICE). -/
def ownCheck (m : Mod) (t : Nat) (slot : Slot) (bundle : Word) (gs : List Nat) : Mod :=
  match gs.find? (granuleBad m) with
  | none => m
  | some g =>
    if granuleOf m g = some .ue then raiseCheck m t (machineCheck 0x32 (slotNum slot) (ueDetail g) bundle 0)
    else
      match ownAux m t g with
      | (m, aux) => raiseCheck m t (machineCheck 0x31 (slotNum slot) 3 bundle aux)

/-- Does a granule refuse a write of `n` of its bytes (R389, R419)? -/
def refusesPart (m : Mod) (g n : Nat) : Bool := granuleBad m g && n != 8

/-- The bytes of a write that fall into a granule, none written where the granule refuses them (R386, R389, R419). -/
def ownGranule (m : Mod) (g : Nat) (part : List (Nat × Byte)) : Mod :=
  if refusesPart m g part.length then m
  else setGranule { m with mem := part.foldl (fun (mem : Memory) p => mem.setByte p.1 p.2) m.mem } g none

/-- The granules of a list of bytes, each once, rising where the bytes rise. -/
def granuleKeys : List (Nat × Byte) → List Nat
  | [] => []
  | p :: t => let r := granuleKeys t
    if r.contains (8 * (p.1 / 8)) then r else 8 * (p.1 / 8) :: r

/-- The bytes of a write that fall into a granule. -/
def partOf (bytes : List (Nat × Byte)) (g : Nat) : List (Nat × Byte) := bytes.filter (fun p => 8 * (p.1 / 8) == g)

/-- An own write of a thread into LM or SDM, by module address (R377, R389, R419). -/
def ownWrite (m : Mod) (t : Nat) (slot : Slot) (bundle : Word) (bytes : List (Nat × Byte)) : Mod :=
  let gs := granuleKeys bytes
  let refused := gs.filter (fun g => refusesPart m g (partOf bytes g).length)
  gs.foldl (fun m g => ownGranule m g (partOf bytes g)) (ownCheck m t slot bundle refused)

/-- The bytes that an own read delivers: zeros where a granule is bad (R388, R419). -/
def ownData (m : Mod) (a n : Nat) : List Byte := (List.range n).map (fun i => if byteBad m (a + i) then 0 else m.mem.byte (a + i))

/-- What one instruction's own reads of some ranges do beside delivering bytes: correctable errors are repaired, uncorrectable granules reported, and the
thread takes the machine check of R388 or R419. -/
def ownReads (m : Mod) (t : Nat) (slot : Slot) (bundle : Word) (ranges : List (Nat × Nat)) : Mod :=
  let m := ranges.foldl (fun m r => sramCorrect m r.1 r.2) m
  let gs := (ranges.flatMap (fun r => granulesOf r.1 r.2)).eraseDups
  ownCheck (gs.foldl (fun m g => if granuleOf m g = some .ue then memCheck m (ueDetail g) g else m) m) t slot bundle gs

/-- An own read of a thread. -/
def ownRead (m : Mod) (t : Nat) (slot : Slot) (bundle : Word) (a n : Nat) : Mod × List Byte := (ownReads m t slot bundle [(a, n)], ownData m a n)

/-- The write generation of a tile advances (R223). -/
def bumpTile (m : Mod) (t tile : Nat) : Mod :=
  setCore m (t / 4) (fun c => { c with tgen := tblMod 0 c.tgen (8 * (t % 4) + tile) (· + 1) })

/-- A row written into a tile (R162, R163, R205). A masked write merges into what the row holds when it lands, an earlier-issued write of the same cycle included
(R164) (log 90, DESIGN CHOICE). -/
def putRow (tile : Nat) (x : Ctx) (w : RowWrite) : Ctx :=
  let k := 16 * tile + w.row
  { x with
    trow := tblPut x.trow k (merge (tblGet 0 x.trow k) w.data w.mask)
    tscale := match w.scale with
      | some s => tblPut x.tscale k s
      | none => x.tscale }

/-- A result that lands (R63). A masked v or vm result merges into what its register holds as it lands: where an earlier-issued result to that register lands in the same
cycle, the inactive lanes are those of that result (log 90, DESIGN CHOICE). -/
def landWrite (m : Mod) (t : Nat) (l : Landing) : Mod :=
  match l.w with
  | .s r x => setCtx m t (fun c => c.setS r x)
  | .v r x mask => setCtx m t (fun c => c.setV r (merge (c.vreg r) x mask))
  | .vm r x mask => setCtx m t (fun c => c.setVm r (merge (c.vmask r) x mask))
  | .p r x => setCtx m t (fun c => c.setP r x)
  | .sd r x => setCtx m t (fun c => { c with sd := tblPut c.sd r x })
  | .tile k rows =>
    count (bumpTile (setCtx m t (fun c => { rows.foldl (putRow k) c with tileBad := c.tileBad.filter (· != k) })) t k) (t / 4) 25 1
  | .tileCfg k cfg => bumpTile (setCtx m t (fun c => { c with tcfg := tblPut c.tcfg k cfg })) t k
  | .acc a cells => setCtx m t (fun c =>
      { c with
        acc := cells.foldl (fun tb p => tblPut tb (256 * a + p.1) p.2) c.acc
        accBad := c.accBad.filter (fun k => !(k / 256 == a && cells.any (fun p => p.1 == k % 256))) })
  | .accTy a ty => setCtx m t (fun c => { c with accTy := tblPut c.accTy a ty })
  | .lm bytes => ownWrite m t l.slot l.bundle (bytes.map (fun p => (lmAddr (t / 4) p.1, p.2)))
  | .sdm bytes => ownWrite m t l.slot l.bundle (bytes.map (fun p => (sdmAddr (t / 4) p.1, p.2)))
  | .lps k x => setCtx m t (fun c => { c with lps := tblPut c.lps k x })
  | .lpe k x => setCtx m t (fun c => { c with lpe := tblPut c.lpe k x })
  | .lpc k x _ => setCtx m t (fun c => { c with lpc := tblPut c.lpc k x })
  | .cr n x => crLand m t n x
  | .window w q => setCtx m t (fun c => { c with windows := tblPut c.windows w q })
  | .flags _ => m
  | .check f => raiseCheck (count m (t / 4) 33 1) t f

/-- The registers that a result lands in, for R74: p0 and vm0 are none (R51), nor are the loop registers (R180) and the flags. -/
def landKeys : Write → List (Nat × Nat)
  | .s r _ => [(0, r)]
  | .v r _ _ => [(1, r)]
  | .vm r _ _ => if r = 0 then [] else [(2, r)]
  | .p r _ => if r = 0 then [] else [(3, r)]
  | .sd r _ => [(4, r)]
  | .tile k _ => [(5, k)]
  | .tileCfg k _ => [(6, k)]
  | .acc a _ => [(7, a)]
  | .accTy a _ => [(8, a)]
  | .cr n _ => [(9, n)]
  | .window w _ => [(10, w)]
  | .lm bytes => bytes.map (fun p => (11, p.1))
  | .sdm bytes => bytes.map (fun p => (12, p.1))
  | .lps _ _ | .lpe _ _ | .lpc _ _ _ | .flags _ | .check _ => []

/-- Do two results of a cycle meet in a register? (log 70, DEDUCED). -/
def anyClash : List Landing → Bool
  | [] => false
  | l :: t => t.any (fun k => (landKeys l.w).any (fun x => (landKeys k.w).contains x)) || anyClash t

/-- The flags that the results of a cycle set. -/
def landFlags (l : List Landing) : BitVec 5 :=
  l.foldl (fun f x => match x.w with | .flags g => f ||| g | _ => f) 0

/-- The results of a core that land in a cycle, with their threads, in the order of R74. -/
def dueIn (m : Mod) (c cyc : Nat) : List (Nat × Landing) :=
  sortBy (fun p => p.2.issued)
    ((threadsOf c).flatMap (fun t => ((ctx m t).inflight.filter (fun l => l.due == cyc)).map (fun l => (t, l))))

/-- The landings of one cycle of a core: results in order, then haz and the flags, which a W1C of the same cycle does not clear (R10, R74, R164). -/
def landCycle (m : Mod) (c cyc : Nat) : Mod :=
  let due := dueIn m c cyc
  let m := (threadsOf c).foldl (fun m t =>
    setCtx m t (fun x => { x with inflight := x.inflight.filter (fun l => l.due != cyc) })) m
  let m := due.foldl (fun m p => landWrite m p.1 p.2) m
  let m := (threadsOf c).foldl (fun m t =>
    let mine := (due.filter (fun p => p.1 == t)).map Prod.snd
    if mine.isEmpty then m
    else setCtx m t (fun x => { x with haz := x.haz || anyClash mine, flags := x.flags ||| landFlags mine, landed := mine })) m
  let w := (due.filter (fun p => match p.2.w with | .tile _ _ => true | _ => false)).length
  if w = 0 then m
  else count (setCore m c (fun k => { k with tileWrites := List.replicate w cyc })) c 26 (w - 1)

/-- The cycles in which results of the core land. -/
def dueCycles (m : Mod) (c : Nat) : List Nat := (threadsOf c).flatMap (fun t => (ctx m t).inflight.map (fun l => l.due))

/-- The least of a list that is at most `t`. -/
def leastUpTo (t : Nat) (l : List Nat) : Option Nat :=
  l.foldl (fun acc x => if x ≤ t then (match acc with | some y => some (min x y) | none => some x) else acc) none

/-- Every landing up to cycle `t`, cycle by cycle. -/
def landTo (m : Mod) (c t : Nat) : Nat → Mod
  | 0 => m
  | n + 1 =>
    match leastUpTo t (dueCycles m c) with
    | none => m
    | some cyc => landTo (landCycle m c cyc) c t n

/-- The largest count of one bank among the LM accesses of a cycle (R380). -/
def bankMax (l : List Nat) : Nat := l.foldl (fun k b => max k (l.filter (· == b)).length) 0

/-- The cycles of a list of LM accesses, each once. -/
def lmCycles (l : List (Nat × Nat)) : List Nat :=
  l.foldl (fun acc p => if acc.contains p.1 then acc else acc ++ [p.1]) []

/-- The mesh periods of extension of the accesses counted in the cycles before `t` (R380). -/
def lmStretchTo (t : Nat) (l : List (Nat × Nat)) : Nat :=
  ((lmCycles l).filter (fun cyc => decide (cyc < t))).foldl
    (fun s cyc => s + (bankMax ((l.filter (fun p => p.1 == cyc)).map Prod.snd) - 1)) 0

/-- The long stall a context is in, as the code of cr.waitdog.why: 0 when in none (R68, R349). `stall` is that of its waiting bundle. -/
def stallOf (x : Ctx) : Nat :=
  if x.entry.isSome || x.rteAt.isSome then 0xA
  else if x.hold.isSome then 8
  else if x.waiting.isSome then x.stall.toNat
  else 0

/-- The stall cycles of a context counted (R635). -/
def countStall (m : Mod) (t n : Nat) : Mod :=
  let x := ctx m t
  let k := if x.live then stallOf x else 0
  if k = 0 then m
  else
    let m := count m (t / 4) (6 + t % 4) n
    if k = 3 then count m (t / 4) 42 n
    else if k = 6 then count m (t / 4) 38 n
    else if k = 7 then count m (t / 4) 37 n
    else m

/-! ## What a thread can take at its boundary (R303 to R308, R321) -/

/-- The level and code of each interrupt, by its pending bit (R303, R304). -/
def intLevel (b : Nat) : Nat := if b < 3 then 1 else 2
def intCode (b : Nat) : BitVec 8 :=
  match b with
  | 0 => 1
  | 1 => 2
  | 2 => 3
  | 3 => 0x10
  | 4 => 0x11
  | _ => 0x12

/-- The unmasked pending interrupt to take: the highest level, then the lowest code (R308); none in double-fault state, in which every level pends (R325). -/
def nextInt (x : Ctx) : Option Nat :=
  if x.dbl then none else [3, 4, 5, 0, 1, 2].find? (fun b => x.pendInt.getLsbD b && decide (x.mask.toNat < intLevel b))

/-- Is a machine check or an unmasked interrupt there for the thread? -/
def mustEnter (x : Ctx) : Bool := !x.checks.isEmpty || (nextInt x).isSome

/-- Has a TSG of the thread completed a row before an earlier one? -/
def rowsAhead (x : Ctx) : Bool :=
  match x.hold with
  | some h => match h.kind with
    | .tsg _ _ _ _ => !h.got.isEmpty
    | _ => false
  | none => false

/-- Do the completed rows of a TSG in progress form a prefix, with no later row on its way (R321)? -/
def rowsSettled (m : Mod) (t : Nat) : Bool :=
  !rowsAhead (ctx m t) &&
  m.accs.all (fun a => !(a.thread.toNat == t && a.kind == .tsgRow && a.gen == (ctx m t).gen) || (!a.performed && !a.sent))

/-- Is there an exception that the thread takes at its boundary as it stands: it waits for no frame (log 107, DEDUCED)? -/
def hasEntry (m : Mod) (t : Nat) : Bool :=
  let x := ctx m t
  (mustEnter x || x.stepFault.isSome) && x.entry.isNone && x.rteAt.isNone && rowsSettled m t

/-- Does a cycle of the core count for the WAITDOG: a live context, every live thread in a long stall, out of which no exception takes it, none halted (R308, R350)? -/
def wdCounts (m : Mod) (c : Nat) : Bool :=
  let l := liveThreads m c
  !l.isEmpty && l.all (fun t => !(ctx m t).halted && stallOf (ctx m t) != 0 && !hasEntry m t)

/-- The cycles from `a` on and before `b` in which the array stage holds an MMA (R228, R250). -/
def arrayBusy (l : List MmaRun) (a b : Nat) : Nat := (l.map (fun r => min b (r.t + r.n) - max a r.t)).foldl (· + ·) 0

/-- The matrix issue cap in effect: the lower of the shed cap and the cap of R658 and R690 (R653). -/
def issueCap (p : Power) : Nat :=
  let shed := if p.level = 0 then 100 else if p.level = 1 then 75 else 50
  min shed p.capIssue

/-- The cycles of the aligned run of 64 with number `w` that an MMA issued in `t` with `n` array cycles takes (R653). -/
def runPart (w t n : Nat) : Nat := min (64 * w + 64) (t + n) - max (64 * w) t

/-- Does a matrix issue cap of `cap` % let an MMA of `n` array cycles issue in cycle `t`: no aligned run of 64 cycles then holds MMAs in more than its share. An MMA that is
longer than a run's share may take runs that hold no other (R653) (log 108, DESIGN CHOICE). -/
def capAllows (cap : Nat) (runs : List (Nat × Nat)) (t n : Nat) : Bool :=
  let share := 64 * cap / 100
  (List.range ((t + n - 1) / 64 - t / 64 + 1)).all (fun i =>
    let w := t / 64 + i
    let used := (runs.map (fun r => runPart w r.1 r.2)).foldl (· + ·) 0
    decide (used + runPart w t n ≤ share) || (used == 0 && decide (share < n)))

/-- The core's clock moved on to cycle `t`: what lands up to then has landed (R63) (log 12, DESIGN CHOICE). -/
def advance (m : Mod) (c t : Nat) : Mod :=
  let n := (dueCycles m c).length
  let m := landTo m c t n
  let d := t - (core m c).cycle
  if d = 0 then m
  else
    let m := (threadsOf c).foldl (fun m th => countStall m th d) m
    let m := count m c 0 d
    let m := if (core m c).ctxs.any (fun e => e.2.tollQ.any (fun x => x.kind == .msg)) then count m c 51 d else m
    let m := count m c 30 (arrayBusy (core m c).mmas (t - d) t)
    let use := (core m c).lmUse
    let m := count m c 27 (lmStretchTo t use)
    -- At S3 and S4 the WAITDOG and the progress watchdog hold the values they have (R654).
    let held := if 3 ≤ m.pwr.level then d else 0
    let counts := wdCounts m c
    setCore m c (fun k =>
      { k with cycle := t, lmUse := use.filter (fun p => decide (t ≤ p.1)), wdFrom := if counts then k.wdFrom + held else t, lastIssue := k.lastIssue + held })

/-- A fixed result of latency `n` put in flight by the bundle that a thread issues in cycle `t` (R63). -/
def land (m : Mod) (th t n : Nat) (slot : Slot) (pc : Word) (w : Write) : Mod :=
  setCtx m th (fun x => { x with inflight := x.inflight ++ [{ due := t + n, issued := t, slot := slot, bundle := pc, w := w }] })

/-- The fixed result that landed in a register in the cycle in which the core stands, where one did (R74). -/
def landedHere (m : Mod) (t : Nat) (key : Nat × Nat) : Option Landing :=
  (ctx m t).landed.find? (fun l => l.due == (core m (t / 4)).cycle && (landKeys l.w).contains key)

/-- A result other than a fixed one lands in a register of a thread: a fixed result of the same cycle there sets haz, and stays where its slot of the same
bundle is the later one (R74). -/
def landLate (m : Mod) (t : Nat) (key : Nat × Nat) (issued : Nat) (slot : BitVec 3) (f : Ctx → Ctx) : Mod :=
  match landedHere m t key with
  | none => setCtx m t f
  | some l =>
    let m := if l.issued == issued && decide (slot.toNat < (slotNum l.slot).toNat) then m else setCtx m t f
    setCtx m t (fun x => { x with haz := true })

/-- Is a fixed result of the thread in flight in a cycle (R78)? -/
def inFlight (x : Ctx) (t : Nat) : Bool := x.inflight.any (fun l => decide (t < l.due))

end Sys2Proof.Machine
end

