-- ==== Sys2Proof/Machine/Cache.lean ====
section
/-! DEFINITION. The data cache, the stride prefetcher and the instruction cache of a core (R391 to R409), and the making of global accesses (R446). -/

namespace Sys2Proof.Machine

/-! ## The data cache (R397 to R404) -/

/-- May a line of an access be cached: its job address is no remote one, be it of this module, and it leads to HBM (R138, R398, R476)? -/
def cached (ja : Word) (a : Nat) : Bool := !bitOf ja.toNat 63 && isHbm a

/-- The line of an address. -/
def lineOf (a : Nat) : Nat := 64 * (a / 64)

/-- The set of a data-cache line (R397). -/
def dcSet (line : Nat) : Nat := line / 64 % 128

/-- A line of a data cache. -/
def dcFind (m : Mod) (c line : Nat) : Option DLine := (core m c).dcache.find? (fun l => l.addr == line)

/-- A core's data cache changed. -/
def setDc (m : Mod) (c : Nat) (f : List DLine → List DLine) : Mod := setCore m c (fun k => { k with dcache := f k.dcache })

/-- A line changed in place. -/
def dcMod (m : Mod) (c line : Nat) (f : DLine → DLine) : Mod := setDc m c (modFirst (fun l => l.addr == line) f)

/-- A line becomes the most recently used of the cache. -/
def dcTouch (m : Mod) (c line : Nat) : Mod :=
  match dcFind m c line with
  | none => m
  | some l => setDc m c (fun d => removeFirst (fun k => k.addr == line) d ++ [l])

/-- The data of a line invalidated; a locked line stays, without data (R402). -/
def dcInvalidate (m : Mod) (c line : Nat) : Mod :=
  match dcFind m c line with
  | none => m
  | some l =>
    if l.lock then dcMod m c line (fun k => { k with valid := false, poison := false, prefetched := false, err := [], data := [] })
    else setDc m c (removeFirst (fun k => k.addr == line))

/-- A line looked up: one whose tag parity fails is invalidated, its lock kept, and counted (R404). -/
def dcLook (m : Mod) (c line : Nat) : Mod :=
  match dcFind m c line with
  | none => m
  | some l => if l.err.contains .tag then dcInvalidate (count m c 20 1) c line else m

/-- The oldest fill of the line in flight, which arrives first. -/
def fillFind (m : Mod) (c line : Nat) : Option DFill := (core m c).dfills.find? (fun f => f.addr == line)

/-- The fill of the line in flight that will install it. -/
def fillOpen (m : Mod) (c line : Nat) : Option DFill := (core m c).dfills.find? (fun f => f.addr == line && f.closed.isNone)

/-- That fill changed in place. -/
def fillMod (m : Mod) (c line : Nat) (f : DFill → DFill) : Mod :=
  setCore m c (fun k => { k with dfills := modFirst (fun x => x.addr == line && x.closed.isNone) f k.dfills })

/-- Bytes of a write that fall into a line, as they merge into its fill. -/
def mergesOf (id a line : Nat) (d : List (Byte × Bool)) : List DMerge :=
  (((List.range d.length).zip d).filter (fun p => lineOf (a + p.1) == line)).map (fun p => { id := id, addr := a + p.1, data := p.2.1, poison := p.2.2 })

/-- The bytes of a line that the core has written and its memory may not hold yet: a fill requested now merges them (R449). A row of a TSG is written to the cache as its step
is, and is none of them (R322). -/
def pendingMerges (m : Mod) (c line : Nat) : List DMerge :=
  (m.accs.filter (fun a => a.kind.writes && a.kind != .tsgRow && a.thread.toNat / 4 == c && a.present && a.peer.isNone && !a.performed)).flatMap
    (fun a => mergesOf a.id a.addr line a.data)

/-- A fill requested, unless one is in flight, which it shares (R399). -/
def fillRequest (m : Mod) (c line : Nat) (prefetch : Bool) : Mod :=
  match fillOpen m c line with
  | some _ => fillMod m c line (fun f => { f with prefetch := f.prefetch && prefetch })
  | none => setCore m c (fun k =>
      { k with dfills := k.dfills ++ [{ addr := line, prefetch := prefetch, closed := none, merged := pendingMerges m c line }] })

/-- The locked lines of a set, other than `line` (R401). -/
def lockedIn (m : Mod) (c line : Nat) : Nat :=
  ((core m c).dcache.filter (fun l => l.lock && dcSet l.addr == dcSet line && l.addr != line)).length

/-- A line put into the least recently used way that is not locked, or where it is already held (R398, R402). -/
def dcPut (m : Mod) (c : Nat) (l : DLine) : Mod :=
  match dcFind m c l.addr with
  | some _ => setDc m c (fun d => removeFirst (fun k => k.addr == l.addr) d ++ [l])
  | none =>
    let inSet := (core m c).dcache.filter (fun k => dcSet k.addr == dcSet l.addr)
    if inSet.length < 8 then setDc m c (fun d => d ++ [l])
    else
      match inSet.find? (fun k => !k.lock) with
      | some v => setDc m c (fun d => removeFirst (fun k => k.addr == v.addr) d ++ [l])
      | none => m

/-- A line locked: one that is absent takes a way, and waits there for its data (R401, R402). -/
def dcLock (m : Mod) (c line : Nat) : Mod :=
  match dcFind m c line with
  | some _ => dcMod m c line (fun l => { l with lock := true })
  | none => dcPut m c { addr := line, valid := false, lock := true, poison := false, prefetched := false, err := [], data := [] }

/-- A line installed, its lock as it stands (R402, R403). -/
def dcInstall (m : Mod) (c : Nat) (line : Nat) (poison prefetched : Bool) (data : List Byte) : Mod :=
  dcPut m c { addr := line, valid := true, lock := (dcFind m c line).elim false DLine.lock, poison := poison, prefetched := prefetched, err := [], data := data }

/-- The word of a line that an error lies in. -/
def errWord : LineUpset → Option Nat
  | .ce w | .ue w => some w.toNat
  | .tag => none

/-- Bytes written into a line from an offset on: the code of a word written whole is made afresh. -/
def DLine.patch (l : DLine) (off : Nat) (d : List Byte) : DLine :=
  { l with data := patchBytes l.data off d, err := l.err.filter (fun e => (errWord e).elim true (fun w => !decide (off ≤ 8 * w ∧ 8 * w + 8 ≤ off + d.length))) }

/-- What a write of the core does to a line of its data cache that is present: its bytes are updated; poisoned bytes mark the line; a line marked so loses its data (R141, R404,
R449, R491). -/
def dcPatch (m : Mod) (c line off : Nat) (d : List (Byte × Bool)) : Mod :=
  let m := dcLook m c line
  match dcFind m c line with
  | none => m
  | some k =>
    if !k.valid then m
    else if k.poison then dcInvalidate m c line
    else dcMod m c line (fun k => { k.patch off (d.map Prod.fst) with poison := d.any (fun b => b.2) })

/-- What a write does to the lines that are present in the issuing core's data cache. -/
def dcUpdate (m : Mod) (c a : Nat) (d : List (Byte × Bool)) : Mod :=
  (linesOf a d.length).foldl (fun m l => dcPatch m c l.1 l.2.1 ((d.drop (l.1 + l.2.1 - a)).take l.2.2)) m

/-- What a store does to the issuing core's data cache: the bytes of a present line, the bytes of an arriving one (R141, R399, R404, R449). -/
def dcStore (m : Mod) (c id a : Nat) (d : List (Byte × Bool)) : Mod :=
  (linesOf a d.length).foldl (fun m l =>
    fillMod (dcPatch m c l.1 l.2.1 ((d.drop (l.1 + l.2.1 - a)).take l.2.2)) c l.1 (fun f => { f with merged := f.merged ++ mergesOf id a l.1 d })) m

/-- The fill of a line in flight serves the loads issued so far, and does not install it (R402). -/
def fillClose (m : Mod) (c line : Nat) : Mod := fillMod m c line (fun f => { f with closed := some m.nextAcc })

/-- The bytes stored into an arriving line by accesses before `id` (R399). -/
def applyMerges (line : Nat) (data : List Byte) (l : List DMerge) (id : Nat) : List Byte :=
  l.foldl (fun d x => if x.id < id then patchBytes d (x.addr - line) [x.data] else d) data

/-- Is the data prefetcher of a core on (R407, R408)? -/
def dpfOn (m : Mod) (c : Nat) : Bool := (core m c).dpfen && m.pwr.level == 0

/-- Is the instruction prefetcher of a core on (R407, R408)? -/
def ipfOn (m : Mod) (c : Nat) : Bool := (core m c).ipfen && m.pwr.level == 0

/-- A prefetch request (R406): dropped where its line is present or arriving, where it leaves the page of the load, where its page is not present, or where it is not cached. -/
def prefetchLine (m : Mod) (c : Nat) (xbase : Word) (load a : Word) : Mod :=
  let bits := pageBits m c xbase load
  if a.toNat / 2 ^ bits != load.toNat / 2 ^ bits then m
  else
    match xlate m c xbase a with
    | (m, .here x) =>
      let line := lineOf x
      let m := dcLook m c line
      let held := match dcFind m c line with | some l => l.valid | none => false
      if !cached a x || held || (fillOpen m c line).isSome then m
      else fillRequest (count m c 21 1) c line true
    | (m, _) => m

/-- The stride prefetcher trained by an LDG or VLDG (R405). -/
def trainStride (m : Mod) (th : Nat) (pc : Word) (lslot : Bool) (xbase a : Word) : Mod :=
  let c := th / 4
  if !dpfOn m c then m
  else
    let same (s : PfStream) := s.ctx == th % 4 && s.bundle == pc && s.lslot == lslot
    match (core m c).streams.find? same with
    | none =>
      let s : PfStream := { ctx := th % 4, bundle := pc, lslot := lslot, last := a, stride := 0, confirmed := false }
      setCore m c (fun k =>
        { k with streams := (if k.streams.length < 16 then k.streams else k.streams.drop 1) ++ [s] })
    | some s =>
      let delta := a - s.last
      let ok := delta != 0 && delta == s.stride
      let s' : PfStream := { s with last := a, stride := if ok then s.stride else delta, confirmed := ok }
      let m := setCore m c (fun k => { k with streams := removeFirst same k.streams ++ [s'] })
      if ok then
        (List.range (max 1 (core m c).pfdist.toNat)).foldl (fun m i => prefetchLine m c xbase a (a + w64 (i + 1) * s.stride)) m
      else m

/-! ## Making accesses (R446) -/

/-- An access as it is issued by a slot of a bundle; the fields that matter only to some kinds are given later. -/
def mkAccess (m : Mod) (th : Nat) (slot : Slot) (kind : AccKind) (ja : Word) (x : XRes) (size : Nat) : Access :=
  let k := ctx m th
  { id := m.nextAcc, kind := kind, thread := BitVec.ofNat 13 th, gen := k.gen, bundle := k.pc, slot := slotNum slot,
    jobAddr := ja,
    addr := match x with | .here a => a | .peer _ a => a | .notPresent => 0,
    peer := match x with | .peer p _ => some p | _ => none,
    present := match x with | .notPresent => false | _ => true,
    size := size, data := [], op := 0, cmp := 0, dest := .none, step := 0, job := k.job, xbase := k.xbase, rnd := k.rnd,
    starts := k.starts, record := k.launch, item := k.item, issuedAt := m.now, cyc := (core m (th / 4)).cycle, paused := m.pwr.pausedTotal, viaFill := false, performed := false, answer := none, sent := false }

/-- The access added to those under way (log 48, DEDUCED). -/
def addAccess (m : Mod) (a : Access) : Mod := { m with accs := m.accs ++ [a], nextAcc := m.nextAcc + 1 }

/-- An access found by its number. -/
def accFind (m : Mod) (id : Nat) : Option Access := m.accs.find? (fun a => a.id == id)

/-- An access changed in place. -/
def accMod (m : Mod) (id : Nat) (f : Access → Access) : Mod := { m with accs := modFirst (fun a => a.id == id) f m.accs }

/-- An access that is over. -/
def accDel (m : Mod) (id : Nat) : Mod := { m with accs := removeFirst (fun a => a.id == id) m.accs }

/-- The bytes an access touches at its target. -/
def Access.span (a : Access) : Nat := max a.size a.data.length

/-- Are two accesses of a thread the STG and the VSTG of one bundle (R142)? -/
def storesOfBundle (a b : Access) : Bool := a.kind == .vstore && b.kind == .store && a.bundle == b.bundle && a.cyc == b.cyc

/-- Must `a` wait for the earlier access `b` of its thread: overlapping bytes of one target on this module, or an earlier write through the same host window (R454, R455)?
Accesses to a peer have no order (R455), but the STG and the VSTG of one bundle, which R142 orders wherever they go (log 101, DEDUCED). -/
def mustFollow (a b : Access) : Bool :=
  decide (b.id < a.id) && b.thread == a.thread && b.gen == a.gen && !b.performed && b.present && a.peer == b.peer && (a.peer.isNone || storesOfBundle a b) &&
  (overlaps a.addr a.span b.addr b.span ||
    (b.kind.writes && (match regionOf a.addr, regionOf b.addr with
      | .hostWindow p _, .hostWindow q _ => p == q
      | _, _ => false)))

/-- Does program order hold the access back (R454, R455)? -/
def accHeld (m : Mod) (a : Access) : Bool := m.accs.any (mustFollow a)

/-- A load of a thread as it issues: a hit of the data cache is performed at once, a miss in HBM waits for its fill, all else goes to its target (R140, R398, R400). -/
def issueLoad (m : Mod) (th : Nat) (a : Access) : Mod :=
  let c := th / 4
  if a.peer.isSome || !cached a.jobAddr a.addr then addAccess m a
  else
    let line := lineOf a.addr
    let miss (m : Mod) : Mod := addAccess (fillRequest (count m c 16 1) c line false) { a with viaFill := true }
    let m := dcLook m c line
    match dcFind m c line with
    | none => miss m
    | some l =>
      if !l.valid then miss m
      else
        let read := l.err.filter (fun e => (errWord e).any (fun w => overlaps (8 * w) 8 (a.addr % 64) a.size))
        if read.any (fun e => (errWord e).any (fun w => e == .ue (BitVec.ofNat 3 w))) then miss (dcInvalidate (count m c 19 1) c line)
        else
          let m := count (dcMod m c line (fun k => { k with err := k.err.filter (fun e => !read.contains e) })) c 18 read.length
          let m := count m c 15 1
          let m := if l.prefetched then count (dcMod m c line (fun k => { k with prefetched := false })) c 22 1 else m
          let m := dcTouch m c line
          addAccess m { a with
            performed := true
            answer := some { status := 0, data := sliceBytes l.data (a.addr % 64) a.size, poison := l.poison, ue := false } }

/-- Has the target taken a stored byte: the access is performed or over, or has written the byte's granule (R448, R450)? A fill that reads then has the byte, or a later one. -/
def mergeDone (m : Mod) (x : DMerge) : Bool :=
  (accFind m x.id).elim true (fun a => a.performed || (a.unitsDone != 0 && decide (x.addr < 8 * (a.addr / 8 + a.unitsDone))))

/-- The stored bytes of a fill that its read of the line cannot have (R449). -/
def lateMerges (m : Mod) (l : List DMerge) : List DMerge := l.filter (fun x => !mergeDone m x)

/-- A store of a thread as it issues (R141, R449): its bytes go into lines of the core's data cache that are present or arriving, and to its target. -/
def issueStore (m : Mod) (th : Nat) (a : Access) : Mod :=
  let m := if a.peer.isNone && isHbm a.addr then dcStore m (th / 4) a.id a.addr a.data else m
  addAccess m a

/-! ## The instruction cache (R391 to R396) -/

/-- The set of an instruction-cache line. -/
def icSet (line : Nat) : Nat := line / 64 % 256

/-- Does the parity of a line fail at one of its bundles: that of its tag, or that of the bundle (R391, R395)? -/
def ILine.fails (l : ILine) (second : Bool) : Bool := l.err.any (fun e => (errWord e).elim true (fun w => decide (4 ≤ w) == second))

/-- A line of an instruction cache. -/
def icFind (m : Mod) (c line : Nat) : Option ILine := (core m c).icache.find? (fun l => l.addr == line)

/-- A line becomes the most recently used. -/
def icTouch (m : Mod) (c line : Nat) : Mod :=
  match icFind m c line with
  | none => m
  | some l => setCore m c (fun k => { k with icache := removeFirst (fun x => x.addr == line) k.icache ++ [l] })

/-- A line taken out. -/
def icDrop (m : Mod) (c line : Nat) : Mod :=
  setCore m c (fun k => { k with icache := removeFirst (fun x => x.addr == line) k.icache })

/-- A line installed in the least recently used way of its set (R391). -/
def icInstall (m : Mod) (c line : Nat) (data : List Byte) : Mod :=
  let l : ILine := { addr := line, err := [], data := data }
  let m := icDrop m c line
  let inSet := (core m c).icache.filter (fun k => icSet k.addr == icSet line)
  let m := match inSet with
    | v :: _ => if inSet.length < 4 then m else icDrop m c v.addr
    | [] => m
  setCore m c (fun k => { k with icache := k.icache ++ [l] })

/-- DATA_POISON of a fetch: a poisoned line or an error response, with the bundle's address and the job address of the line (R313, R395, R600). -/
def fetchPoison (m : Mod) (c : Nat) (pc : Word) (status : Nat) : Mod :=
  raiseCheck m (4 * c + (core m c).cur)
    { machineCheck 0x31 7 2 pc (pc &&& ~~~(0x3F : Word)) with status := BitVec.ofNat 8 status }

end Sys2Proof.Machine
end

