-- ==== Sys2Proof/Machine/Fabric.lean ====
section
/-! DEFINITION. The fabric below its commands: packets as bytes (R512 to R514), the CRC (R506), torus routing (R519 to R525), link ports and their credits (R507 to R511), floods (R529 to R531). -/

namespace Sys2Proof.Machine

/-! ## Packets -/

/-- Does a packet type carry word 2 (R514)? -/
def hasWord2 (ty : Nat) : Bool := decide (1 ≤ ty ∧ ty ≤ 7) || decide (0x13 ≤ ty ∧ ty ≤ 0x15) || decide (0x20 ≤ ty ∧ ty ≤ 0x23)

/-- Is a packet type assigned (R514)? -/
def typeKnown (ty : Nat) : Bool := hasWord2 ty || decide (0x10 ≤ ty ∧ ty ≤ 0x12)

/-- Zero bytes up to a multiple of 4. -/
def pad4 (d : List Byte) : List Byte := d ++ List.replicate ((4 - d.length % 4) % 4) 0

/-- A packet as bytes (R513). -/
def packetBytes (p : Packet) : List Byte :=
  let w0 := p.src.toNat * 2 ^ 48 + p.dst.toNat * 2 ^ 32 + p.len.toNat * 2 ^ 22 + p.rev.toNat * 2 ^ 16 + p.order.toNat * 2 ^ 13 +
    b1 p.poison * 2 ^ 12 + b1 p.vcd * 2 ^ 11 + p.cls.toNat * 2 ^ 8 + p.type.toNat
  let w1 := p.op.toNat * 2 ^ 56 + p.status.toNat * 2 ^ 48 + p.k.toNat * 2 ^ 44 + p.ftag.toNat * 2 ^ 32 + p.replay.toNat * 2 ^ 27 +
    p.traffic.toNat * 2 ^ 24 + p.epoch.toNat * 2 ^ 16 + p.job.toNat
  toBytes 8 w0 ++ toBytes 8 w1 ++ (if hasWord2 p.type.toNat then wordBytes p.word2 else []) ++ pad4 p.data

/-- The data bytes that follow the header of a packet (R513): none for RD. -/
def dataLen (ty len : Nat) : Nat := if ty = 2 then 0 else len

/-- A packet read from the front of a stream whose 16 header bytes are there; none while bytes are missing. -/
def parsePacket (d : List Byte) : Option (Packet × List Byte) :=
  if d.length < 16 then none
  else
    let w0 := ofBytes (d.take 8)
    let w1 := ofBytes ((d.drop 8).take 8)
    let ty := fld w0 0 8
    let len := fld w0 22 9
    let h := if hasWord2 ty then 24 else 16
    let n := dataLen ty len
    let all := h + n + (4 - n % 4) % 4
    if d.length < all then none
    else
      some ({ src := BitVec.ofNat 16 (fld w0 48 16), dst := BitVec.ofNat 16 (fld w0 32 16), len := BitVec.ofNat 9 len,
              rev := BitVec.ofNat 6 (fld w0 16 6), order := BitVec.ofNat 3 (fld w0 13 3), poison := bitOf w0 12, vcd := bitOf w0 11,
              cls := BitVec.ofNat 3 (fld w0 8 3), type := BitVec.ofNat 8 ty, op := BitVec.ofNat 8 (fld w1 56 8),
              status := BitVec.ofNat 8 (fld w1 48 8), k := BitVec.ofNat 3 (fld w1 44 3), ftag := BitVec.ofNat 12 (fld w1 32 12),
              replay := BitVec.ofNat 2 (fld w1 27 2), traffic := BitVec.ofNat 3 (fld w1 24 3), epoch := BitVec.ofNat 8 (fld w1 16 8),
              job := BitVec.ofNat 16 (fld w1 0 16), word2 := if hasWord2 ty then wordOf (sliceBytes d 16 8) else 0,
              data := (d.drop h).take n }, d.drop all)

/-- The packets at the front of the received stream, and the 32 bytes of each LCTRL (R512, R516): a byte 0 where a packet would start is a 4-byte NOP. -/
def parseStream : Nat → List Byte → List (Packet ⊕ List Byte) × List Byte
  | 0, d => ([], d)
  | n + 1, d =>
    match d with
    | [] => ([], [])
    | b :: _ =>
      if b = 0 then (if d.length < 4 then ([], d) else parseStream n (d.drop 4))
      else if b = 0x30 then
        (if d.length < 32 then ([], d)
         else match parseStream n (d.drop 32) with
          | (ps, r) => (.inr (d.take 32) :: ps, r))
      else
        match parsePacket d with
        | none => ([], d)
        | some (p, rest) => match parseStream n rest with
          | (ps, r) => (.inl p :: ps, r)

/-! ## CRC-32 (R506) -/

/-- `n` shifts of the reflected CRC register. -/
def crcShift : Nat → Nat → Nat
  | 0, c => c
  | n + 1, c => crcShift n (if c % 2 = 1 then (c / 2) ^^^ 0xEDB88320 else c / 2)

/-- The CRC-32 of a byte string. -/
def crc32 (d : List Byte) : Nat := (d.foldl (fun c b => crcShift 8 (c ^^^ b.toNat)) 0xFFFFFFFF) ^^^ 0xFFFFFFFF

/-- The header of a codeword as a number (R507). -/
def cwHeader (kind : BitVec 4) (seq ack : Byte) : Nat := kind.toNat * 65536 + seq.toNat * 256 + ack.toNat

/-- The CRC of a codeword: over its header, as three bytes, and its packet space (R506). -/
def cwCrc (kind : BitVec 4) (seq ack : Byte) (space : List Byte) : Nat := crc32 (toBytes 3 (cwHeader kind seq ack) ++ space)

/-- Does the codeword's CRC check (R506)? -/
def cwCrcOk (w : Codeword) : Bool := cwCrc w.kind w.seq w.ack (sliceBytes w.bytes 0 636) == ofBytes (sliceBytes w.bytes 636 4)

/-- A codeword as it is sent: its header, 636 bytes of packet space filled with NOPs, and its CRC in bytes 636 to 639 (R503, R506, R507, R512). -/
def codewordOf (kind : BitVec 4) (seq ack : Byte) (body : List Byte) : Codeword :=
  { symbolErrors := 0, kind := kind, seq := seq, ack := ack, bytes := sliceBytes body 0 636 ++ toBytes 4 (cwCrc kind seq ack (sliceBytes body 0 636)) }

/-! ## Torus coordinates and routes (R519 to R524) -/

/-- The size of dimension d (R535). -/
def dimSize (m : Mod) (d : Nat) : Nat := fld m.fab.sizes.toNat (8 * d) 8 + 1

/-- The product of the sizes of the dimensions below `d`. -/
def dimStride (m : Mod) : Nat → Nat
  | 0 => 1
  | d + 1 => dimStride m d * dimSize m d

/-- The coordinate of a module in dimension d (R519). -/
def coord (m : Mod) (id d : Nat) : Nat := id / dimStride m d % dimSize m d

/-- Does the identifier obey R519? -/
def fabIdOk (sizes : BitVec 48) (id : Nat) : Bool :=
  let p := (List.range 6).foldl (fun p d => p * (fld sizes.toNat (8 * d) 8 + 1)) 1
  decide (p ≤ 65536 ∧ id < p)

/-- The direction of a packet in dimension d: true for + (R520) (log 63, DEDUCED). -/
def goesPlus (m : Mod) (src cur dst : Nat) (rev : BitVec 6) (d : Nat) : Bool :=
  let n := dimSize m d
  let up := (coord m dst d + n - coord m cur d) % n
  let plus := if 2 * up = n then coord m src d % 2 == 0 else decide (2 * up < n)
  plus != rev.getLsbD d

/-- The neighbour of a module one step away (R497). -/
def neighbour (m : Mod) (id d : Nat) (plus : Bool) : Nat :=
  let n := dimSize m d
  let c := coord m id d
  let c' := if plus then (c + 1) % n else (c + n - 1) % n
  id - c * dimStride m d + c' * dimStride m d

/-- The dimension a packet at `cur` moves in: the first of the sequence o, o + 1, … where it is not yet there (R520). -/
def nextDim (m : Mod) (cur dst : Nat) (order : BitVec 3) : Option Nat :=
  ((List.range 6).map (fun i => (order.toNat + i) % 6)).find? (fun d => coord m cur d != coord m dst d)

/-- The way of a direction once begun does not turn: the direction is decided at the packet's coordinate by the shorter way. -/
def nextHop (m : Mod) (src cur dst : Nat) (order : BitVec 3) (rev : BitVec 6) : Option (Nat × Bool) :=
  match nextDim m cur dst order with
  | none => none
  | some d =>
    -- A reversed way stays reversed: it is decided from the coordinate at which the dimension was entered, the source's.
    some (d, goesPlus m src (if rev.getLsbD d then src else cur) dst rev d)

/-- The bundle of a hop (R497). -/
def bundleOf (h : Nat × Bool) : Nat := 2 * h.1 + (if h.2 then 0 else 1)

/-- Is a hop covered by a valid entry of the down list, in either direction (R523)? -/
def hopDown (m : Mod) (cur : Nat) (h : Nat × Bool) (k : Nat) : Bool :=
  let b := bundleOf h
  let nb := neighbour m cur h.1 h.2
  m.fab.down.any (fun e =>
    let x := e.2.toNat
    bitOf x 63 && bitOf (fld x 32 8) k &&
    ((fld x 0 16 == cur && fld x 48 4 == b) || (fld x 0 16 == nb && fld x 48 4 == (b ^^^ 1))))

/-- The hops of a route: module and hop. -/
def routeHops (m : Mod) (src dst : Nat) (order : BitVec 3) (rev : BitVec 6) : Nat → Nat → List (Nat × (Nat × Bool))
  | 0, _ => []
  | n + 1, cur =>
    match nextHop m src cur dst order rev with
    | none => []
    | some h => (cur, h) :: routeHops m src dst order rev n (neighbour m cur h.1 h.2)

/-- The most hops a route can have. -/
def maxHops (m : Mod) : Nat := (List.range 6).foldl (fun s d => s + dimSize m d) 0

/-- Does a route cross no covered link? -/
def routeClear (m : Mod) (src dst k : Nat) (order : BitVec 3) (rev : BitVec 6) : Bool :=
  (routeHops m src dst order rev (maxHops m) src).all (fun h => !hopDown m h.1 h.2 k)

/-- The dimensions whose shorter way crosses a covered link, as the rev field of R524. -/
def revDims (m : Mod) (src dst k : Nat) (order : BitVec 3) : BitVec 6 :=
  (routeHops m src dst order 0 (maxHops m) src).foldl
    (fun r h => if hopDown m h.1 h.2 k then r ||| BitVec.ofNat 6 (2 ^ h.2.1) else r) 0

/-- The first route that crosses no covered link (R524). -/
def chooseRoute (m : Mod) (src dst k : Nat) : Option (BitVec 3 × BitVec 6) :=
  let tries := ((List.range 6).map (fun o => ((BitVec.ofNat 3 o, 0) : BitVec 3 × BitVec 6))) ++
    (List.range 6).map (fun o => (BitVec.ofNat 3 o, revDims m src dst k (BitVec.ofNat 3 o)))
  tries.find? (fun r => routeClear m src dst k r.1 r.2)

/-! ## Link ports (R507 to R511) -/

/-- Link 8b + k. -/
def linkOf (m : Mod) (l : Nat) : Link := tblGet {} m.fab.links l

/-- A link changed. -/
def setLink (m : Mod) (l : Nat) (f : Link → Link) : Mod := { m with fab := { m.fab with links := tblMod {} m.fab.links l f } }

/-- The buffer of a virtual channel in credits of 16 bytes (R510), by 2 * class + VC. -/
def bufferOf (vc : Nat) : Nat :=
  match vc / 2 with
  | 0 | 1 => 64
  | 2 => 512
  | 3 => 2048
  | _ => 4096

/-- The credits held for a virtual channel. -/
def creditOf (l : Link) (vc : Nat) : Nat := (tblFind l.credits vc).getD (bufferOf vc)

/-- The virtual channel of a packet. -/
def vcOf (p : Packet) : Nat := 2 * p.cls.toNat + b1 p.vcd

/-- The credits a packet takes (R510). -/
def packetCredits (p : Packet) : Nat := ceilDiv (packetBytes p).length 16

/-- May the packet go now: its class is carried in the mode, and its virtual channel holds credit (R501, R502, R510)? -/
def mayGo (l : Link) (p : Packet) : Bool :=
  (l.mode != 2 || decide (p.cls.toNat ≤ 1)) && decide (packetCredits p ≤ creditOf l (vcOf p))

/-- The first packet of a virtual channel that waits at a port. -/
def firstOf (l : Link) (vc : Nat) : Option Packet := (l.txq.find? (fun x => vcOf x.1 == vc)).map Prod.fst

/-- The packet a class sends next: VC b before VC a (R511). -/
def classNext (l : Link) (c : Nat) : Option Packet :=
  match firstOf l (2 * c + 1) with
  | some p => if mayGo l p then some p else (firstOf l (2 * c)).filter (mayGo l)
  | none => (firstOf l (2 * c)).filter (mayGo l)

/-- The next packet of a link port (R511): class 0, then class 1, then classes 2 to 4 in round robin after the last served. -/
def portNext (l : Link) : Option Packet :=
  let rr := match l.lastClass with
    | 2 => [3, 4, 2]
    | 3 => [4, 2, 3]
    | _ => [2, 3, 4]
  ([0, 1] ++ rr).findSome? (classNext l)

/-- The sequence number of the last codeword accepted, which every codeword carries in ack (R507). -/
def Link.lastAck (k : Link) : Byte := k.rxNext - 1

/-- A codeword of some kind leaves a link (R503, R507). -/
def sendKind (m : Mod) (l : Nat) (kind : BitVec 4) (seq : Byte) (body : List Byte) : Mod :=
  emit m (.codeword l (codewordOf kind seq (linkOf m l).lastAck body))

/-- A DATA codeword leaves a link with the next sequence number, and is kept until it is acknowledged (R508). -/
def sendData (m : Mod) (l : Nat) (body : List Byte) : Mod :=
  let k := linkOf m l
  let m := setLink m l (fun k =>
    { k with window := k.window ++ [(k.txSeq, body)], ackAt := if k.window.isEmpty then m.now else k.ackAt, txSeq := k.txSeq + 1 })
  sendKind m l 0 k.txSeq body

/-- A packet leaves a link port: it takes its credits (R510). -/
def portSend (m : Mod) (l : Nat) (p : Packet) : Mod :=
  let m := setLink m l (fun k =>
    { k with
      txq := removeFirst (fun x => x.1 == p) k.txq
      credits := tblPut k.credits (vcOf p) (creditOf k (vcOf p) - packetCredits p)
      lastClass := if p.cls.toNat ≥ 2 then p.cls.toNat else k.lastClass })
  emit (sendData m l (packetBytes p)) (.fabric (BitVec.ofNat 3 (l % 8)) p)

/-- The timebase in units of 1/16 ns. -/
def time16 (m : Mod) : Int := (m.tb.time.toNat * 16 : Nat)

/-- The subtype of an LCTRL (R516). -/
def Lctrl.subtype : Lctrl → Byte
  | .credits _ => 1
  | .request => 2
  | .reply _ => 3
  | .mode _ => 4

/-- The bytes of an LCTRL that leaves at a time, in 1/16 ns (R516). -/
def Lctrl.bytes (x : Lctrl) (now : Int) : List Byte :=
  0x30 :: x.subtype :: sliceBytes
    (match x with
     | .credits counts => (List.range 10).flatMap (fun i => toBytes 2 (counts.getD i 0).toNat)
     | .request => []
     | .reply t2 => Config.lctrlReply t2 now
     | .mode x => Config.lctrlMode x) 0 30

/-- An LCTRL leaves a link port. It takes no credit (R510). T1 of a time request is taken now (R533). -/
def ctlSendOne (m : Mod) (l : Nat) (x : Lctrl) : Mod :=
  let m := setLink m l (fun k => { k with ctl := k.ctl.drop 1, t1 := if x = .request then some (time16 m) else k.t1 })
  emit (sendData m l (x.bytes (time16 m))) (.lctrl l x (time16 m))

/-- The port sends while it may: at most 128 codewords unacknowledged, and IDLE then (R508); LCTRL first (R516). -/
def pump (m : Mod) (l : Nat) : Nat → Mod
  | 0 => m
  | n + 1 =>
    let k := linkOf m l
    if k.state != 2 then m
    else if 128 ≤ k.window.length then sendKind m l 1 0 []
    else
      match k.ctl with
      | x :: _ => pump (ctlSendOne m l x) l n
      | [] =>
        match portNext k with
        | none => m
        | some p => pump (portSend m l p) l n

/-- All that waits at a port and may go is sent. -/
def pumpAll (m : Mod) (l : Nat) : Mod := pump m l ((linkOf m l).ctl.length + (linkOf m l).txq.length)

/-- A packet queued at a link port. -/
def portQueue (m : Mod) (l : Nat) (p : Packet) : Mod := pumpAll (setLink m l (fun k => { k with txq := k.txq ++ [(p, m.now)] })) l

/-- An LCTRL queued at the port of an up link. -/
def ctlQueue (m : Mod) (l : Nat) (x : Lctrl) : Mod :=
  if (linkOf m l).state = 2 then pumpAll (setLink m l (fun k => { k with ctl := k.ctl ++ [x] })) l else m

/-- The credits of a packet return to its sender, if its class has a buffer (R510, R516). -/
def returnBuffer (m : Mod) (l : Nat) (p : Packet) : Mod :=
  if 10 ≤ vcOf p then m
  else ctlQueue m l (.credits ((List.range 10).map (fun vc => if vc = vcOf p then BitVec.ofNat 16 (packetCredits p) else 0)))

/-- FAB_CTL.mode set by the power controller (R501, R648, R651): an up link in a wider mode asks its peer, through LCTRL, to agree the narrower one (log 103). -/
def setMode (m : Mod) (mode : BitVec 2) : Mod :=
  (List.range 96).foldl (fun m l => if (linkOf m l).mode.toNat < mode.toNat then ctlQueue m l (.mode mode) else m)
    { m with fab := { m.fab with mode := mode } }

/-- A packet moves on from this module by its own header: false where its link is not UP, or where it is at its destination (R520, R521, R525). -/
def forward (m : Mod) (p : Packet) : Mod × Bool :=
  let me := m.fab.id.toNat
  match nextHop m p.src.toNat me p.dst.toNat p.order p.rev with
  | none => (m, false)
  | some h =>
    let l := 8 * bundleOf h + p.k.toNat
    let c := coord m me h.1
    let c0 := coord m p.src.toNat h.1
    let vc := if h.2 then decide (c < c0) else decide (c0 < c)
    if (linkOf m l).state = 2 then (portQueue m l { p with vcd := vc }, true)
    else ({ m with fab := { m.fab with discard := satAdd 16 m.fab.discard 1 } }, false)

/-- A packet that starts here: its route chosen (R515, R524), false where none qualifies or its link is not UP. -/
def fabSend (m : Mod) (p : Packet) : Mod × Bool :=
  match chooseRoute m m.fab.id.toNat p.dst.toNat p.k.toNat with
  | none => ({ m with fab := { m.fab with detourFail := satAdd 16 m.fab.detourFail 1 } }, false)
  | some (o, r) => forward m { p with order := o, rev := r, vcd := false, src := m.fab.id }

/-- The packet with every field zero. -/
def emptyPacket : Packet :=
  { src := 0, dst := 0, len := 0, rev := 0, order := 0, poison := false, vcd := false, cls := 0, type := 0, op := 0, status := 0,
    k := 0, ftag := 0, replay := 0, traffic := 0, epoch := 0, job := 0, word2 := 0, data := [] }

/-- A packet with the job tags of cr.job (R513). -/
def tagged (p : Packet) (job : BitVec 29) : Packet :=
  let j := job.toNat
  { p with job := BitVec.ofNat 16 (fld j 0 16), epoch := BitVec.ofNat 8 (fld j 16 8), traffic := BitVec.ofNat 3 (fld j 24 3),
           replay := BitVec.ofNat 2 (fld j 27 2) }

/-- The link index of a packet that names a module address (R515). -/
def kOfAddr (a : Nat) : BitVec 3 :=
  match regionOf a with
  | .cm q _ => BitVec.ofNat 3 (q / 16)
  | .lm c _ | .sdm c _ | .queueView c _ => BitVec.ofNat 3 (c / 256)
  | _ =>
    -- A reserved offset of a slice lies in the SRAM window too: its cluster is the one the slice belongs to.
    if sramBase ≤ a ∧ a < sramBase + 128 * sliceBytes' then BitVec.ofNat 3 ((a - sramBase) / sliceBytes' / 16) else BitVec.ofNat 3 (fld a 12 3)

/-! ## Floods (R529 to R531) -/

/-- The diameter D of the torus. -/
def diameter (m : Mod) : Nat := (List.range 6).foldl (fun s d => s + dimSize m d / 2) 0

/-- The lowest-numbered up link of a bundle (R529). -/
def upLink (m : Mod) (b : Nat) : Option Nat := (List.range 8).find? (fun k => (linkOf m (8 * b + k)).state == 2)

/-- The flood word (R531). -/
def floodWord (up : Bool) (mask bundle subject seq hops reason : Nat) : Word :=
  w64 (b1 up * 2 ^ 60 + mask % 256 * 2 ^ 52 + bundle % 16 * 2 ^ 48 + subject % 65536 * 2 ^ 32 + seq % 65536 * 2 ^ 16 + hops % 256 * 256 + reason % 256)

/-- The key of a flood packet (R530). -/
def floodKey (p : Packet) : FloodKey :=
  let w := p.word2.toNat
  if p.type = 0x20 then { type := 0x20, src := p.src.toNat, subject := p.job.toNat, seq := p.epoch.toNat }
  else { type := p.type.toNat, src := 0, subject := fld w 32 16, seq := fld w 16 16 }

/-- The bucket of a management core at a tick of the timebase: a token for every 256 ns, at most 16 (R527). -/
def Bucket.at' (b : Bucket) (now : Nat) : Bucket :=
  let n := (now - b.at_) / 256
  if 16 ≤ b.tokens + n then { tokens := 16, at_ := now } else { tokens := b.tokens + n, at_ := b.at_ + 256 * n }

/-- The bucket of a management core now. -/
def mgmtBucket (m : Mod) (c : Nat) : Bucket := (tblGet {} m.fab.mgmt c).at' m.tb.ticks

/-- A flood packet of a management core leaves on a bundle, by its lowest-numbered up link, with a token of that core (R527, R529). -/
def floodOut (m : Mod) (c b : Nat) (p : Packet) : Mod :=
  match upLink m b with
  | none => m
  | some k =>
    let m := { m with fab := { m.fab with mgmt := tblPut m.fab.mgmt c { mgmtBucket m c with tokens := (mgmtBucket m c).tokens - 1 } } }
    portQueue m (8 * b + k) { p with k := BitVec.ofNat 3 k }

/-- A flood packet leaves, or waits where its management core has no token or holds earlier ones (R527). -/
def floodSend (m : Mod) (c b : Nat) (p : Packet) : Mod :=
  if (mgmtBucket m c).tokens = 0 || m.fab.floodQ.any (fun x => x.1 == c) then { m with fab := { m.fab with floodQ := m.fab.floodQ ++ [(c, b, p)] } }
  else floodOut m c b p

/-- The flood packets that wait for a token leave as their cores have them. -/
def floodDrain (m : Mod) : Mod :=
  m.fab.floodQ.foldl (fun m x => floodSend m x.1 x.2.1 x.2.2) { m with fab := { m.fab with floodQ := [] } }

/-- The steward floods a packet on each of its up bundles (R529). -/
def flood (m : Mod) (type : Nat) (up : Bool) (mask bundle subject reason : Nat) (job epoch : Nat) : Mod :=
  let p : Packet :=
    { emptyPacket with
      src := m.fab.id, dst := m.fab.id, cls := 0, type := BitVec.ofNat 8 type, job := BitVec.ofNat 16 job, epoch := BitVec.ofNat 8 epoch,
      word2 := floodWord up mask bundle subject m.fab.floodSeq.toNat (min (diameter m + 4) 255) reason }
  let m := { m with fab := { m.fab with floodSeq := m.fab.floodSeq + 1, stewardKeys := floodKey p :: m.fab.stewardKeys } }
  let c := Config.floodCore m.fab.floodSeq.toNat % 4
  (List.range 12).foldl (fun m b => if (upLink m b).isSome then floodSend m c b p else m) m

end Sys2Proof.Machine
end

