-- ==== Sys2Proof/Machine/Queues.lean ====
section
/-! DEFINITION. Hardware queues and channels below their commands (R351 to R375), with the Toll of class 0 (R527). -/

namespace Sys2Proof.Machine

/-! ## Queues -/

/-- Queue `q` of the module (R14). -/
def queueAt (m : Mod) (q : Nat) : Queue := tblGet {} (core m (q / 128)).queues (q % 128)

/-- A queue changed. -/
def setQueue (m : Mod) (q : Nat) (f : Queue → Queue) : Mod :=
  setCore m (q / 128) (fun c => { c with queues := tblMod {} c.queues (q % 128) f })

/-- The reader's thread (R352). -/
def readerOf (q : Nat) (k : Queue) : Nat := 4 * (q / 128) + k.rctx.toNat

/-- Is the queue open with this thread as its reader (R352)? -/
def readsQueue (m : Mod) (t q : Nat) : Bool :=
  (queueAt m q).isOpen && (queueAt m q).rctx.toNat == t % 4 && (queueAt m q).rgen == (ctx m t).gen && q / 128 == t / 4

/-- The credits granted on a queue (R361). -/
def grantedOf (k : Queue) : Nat := k.grants.foldl (fun s g => s + g.n) 0

/-- The static quarters hold: cr.share.static, or confinement (R341, R342). -/
def quarters (c : Core) : Bool := c.shareStatic || c.conf

/-- Is a run of store entries free of open queues? -/
def runFree (c : Core) (base d : Nat) : Bool :=
  c.queues.all (fun e => !(e.2.isOpen && overlaps base d e.2.base e.2.depth))

/-- The free aligned runs of `d` entries within `n` entries from `lo` on (R351). -/
def freeRuns (c : Core) (lo n d : Nat) : List Nat :=
  ((List.range (n / d)).map (fun i => lo + d * i)).filter (fun b => runFree c b d)

/-- OPEN of a queue: the first status that applies, or the queue opened (R356). Which free run it takes is open (log 9, DESIGN CHOICE). -/
def openQueue (m : Mod) (q : Nat) : Mod :=
  let c := core m (q / 128)
  let k := queueAt m q
  let t := readerOf q { k with rctx := k.ctx }
  let fail (s : Byte) := setQueue m q (fun k => { k with status := s })
  if k.isOpen then fail 4
  else if k.ldepth.toNat < 2 ∨ 8 < k.ldepth.toNat then fail 1
  else if !isLive m t then fail 3
  else if quarters c && q % 128 / 32 != k.ctx.toNat then fail 5
  else
    let d := 2 ^ k.ldepth.toNat
    let runs := if quarters c then freeRuns c (512 * k.ctx.toNat) 512 d else freeRuns c 0 2048 d
    match runs with
    | [] => fail 2
    | _ =>
      let base := runs.getD (Config.openRun m.free % runs.length) 0
      setQueue { m with free := m.free + 1 } q (fun k =>
        { k with isOpen := true, rctx := k.ctx, rgen := (ctx m t).gen, base := base, depth := d, hd := 0, count := 0, half := false,
                 status := 0, arrival := false, grants := [], nextChan := 0, msgs := [] })

/-! ## Control traffic (R363) -/

/-- A control item on the control network of this module. -/
def netSend (m : Mod) (c : Ctl) : Mod := { m with net := m.net ++ [{ c with id := m.nextNet }], nextNet := m.nextNet + 1 }

/-- The packet type of a control item (R514). -/
def ctlType : CtlKind → Byte
  | .msg => 4
  | .greq => 5
  | .rel => 6
  | .grant => 0x13
  | .cret => 0x14
  | .gone => 0x15

/-- Does the item go from an endpoint to a queue? -/
def toQueue : CtlKind → Bool
  | .msg | .greq | .rel => true
  | _ => false

/-- The channel word (R514). -/
def channelWord (c : Ctl) : Word :=
  let n := match c.kind with
    | .msg => c.entries.length
    | .cret => c.count
    | _ => 1
  w64 (c.epoch.toNat * 2 ^ 40 + (n + 3) % 4 * 2 ^ 38 + c.ep.ep.toNat * 2 ^ 31 + c.ep.thread.toNat * 2 ^ 18 + c.queue.toNat)

/-- A control item as a packet to a peer (R363, R513 to R515). A GRANT from a closed queue carries status ERROR (log 24, DESIGN CHOICE). -/
def ctlPacket (c : Ctl) (peer : BitVec 16) : Packet :=
  let data : List Byte := match c.kind with
    | .msg => c.entries.flatMap (fun e => toBytes 16 e.toNat)
    | .greq | .grant => toBytes 8 c.count
    | _ => []
  { tagged emptyPacket c.job with
    dst := peer, len := BitVec.ofNat 9 data.length, cls := if c.c0 then 0 else if toQueue c.kind then 2 else 3,
    type := ctlType c.kind, status := if c.closed then 2 else 0, k := BitVec.ofNat 3 (c.queue.toNat / 32768),
    word2 := channelWord c, data := data }

/-- The control item that a packet carries (R514). `peer` is the other module. -/
def packetCtl (kind : CtlKind) (p : Packet) : Ctl :=
  let w := p.word2.toNat
  { id := 0, kind := kind,
    ep := { peer := if toQueue kind then some p.src else none, thread := BitVec.ofNat 13 (fld w 18 13), ep := BitVec.ofNat 7 (fld w 31 7) },
    queue := BitVec.ofNat 18 (fld w 0 18), c0 := p.cls == 0, epoch := BitVec.ofNat 8 (fld w 40 8),
    count := match kind with
      | .greq | .grant => ofBytes (sliceBytes p.data 0 8)
      | .cret => fld w 38 2 + 1
      | _ => 0,
    closed := p.status != 0,
    entries := match kind with
      | .msg => (List.range (fld w 38 2 + 1)).map (fun i => BitVec.ofNat 128 (ofBytes (sliceBytes p.data (16 * i) 16)))
      | _ => [],
    job := BitVec.ofNat 29 (p.replay.toNat * 2 ^ 27 + p.traffic.toNat * 2 ^ 24 + p.epoch.toNat * 2 ^ 16 + p.job.toNat) }

/-- A control item sent to its other end; false where no link takes it. -/
def ctlSend (m : Mod) (peer : Option (BitVec 16)) (c : Ctl) : Mod × Bool :=
  match peer with
  | none => (netSend m c, true)
  | some p => fabSend m (ctlPacket c p)

/-- An item that a queue sends to an endpoint. -/
def toEndpoint (m : Mod) (c : Ctl) : Mod := (ctlSend m c.ep.peer c).1

/-- The peer of an endpoint's open channel. -/
def peerOfEp (m : Mod) (c : Ctl) : Option (BitVec 16) := ((ctx m c.ep.thread.toNat).endp c.ep.ep.toNat).chPeer

/-- A grant request that no route takes closes its endpoint (R360). -/
def sendOut (m : Mod) (peer : Option (BitVec 16)) (c : Ctl) : Mod :=
  match ctlSend m peer c with
  | (m, true) => m
  | (m, false) =>
    if c.kind = .greq then
      setCtx m c.ep.thread.toNat (fun x => { x with eps := tblMod {} x.eps c.ep.ep.toNat (fun e =>
        if e.state = 1 then { e with state := 0, status := 5 } else e) })
    else m

/-! ## The Toll (R527) -/

/-- A token taken from a context's bucket, which gains one for every 256 ticks of the timebase (R527). -/
def takeToken (m : Mod) (t : Nat) : Mod :=
  setCtx m t (fun x => { x with toll := x.toll - 1, tollAt := if x.toll = 4 then m.tb.ticks else x.tollAt })

/-- An item that leaves a core for a queue: one of class 0 takes a token, or waits behind those that wait. -/
def leaveCore (m : Mod) (peer : Option (BitVec 16)) (c : Ctl) : Mod :=
  let t := c.ep.thread.toNat
  let x := ctx m t
  if !c.c0 then sendOut m peer c
  else if x.tollQ.isEmpty && x.toll != 0 then sendOut (takeToken m t) peer c
  else setCtx m t (fun x => { x with tollQ := x.tollQ ++ [{ c with ep := { c.ep with peer := peer } }] })

/-- The first waiting item leaves when the bucket holds a token. -/
def tollDrain (m : Mod) (t : Nat) : Nat → Mod
  | 0 => m
  | n + 1 =>
    let x := ctx m t
    match x.tollQ with
    | [] => m
    | c :: rest =>
      if x.toll = 0 then m
      else
        let m := takeToken (setCtx m t (fun x => { x with tollQ := rest })) t
        tollDrain (sendOut m c.ep.peer { c with ep := { c.ep with peer := none } }) t n

/-- Is the Toll queue full: four messages (R527)? -/
def tollFull (x : Ctx) : Bool := decide (4 ≤ (x.tollQ.filter (fun c => c.kind == .msg)).length)

/-! ## Closing a queue (R357) -/

/-- A queue of the module closes: its words go, its epoch advances, its endpoints get gone notices, its windows are unbound.
The notices carry the job tags of its reader, whose entries they end (R513; log 96, DEDUCED). qstat.base keeps its value: the spec gives none for a closed queue
(log 116, DESIGN CHOICE). -/
def closeQueue (m : Mod) (q : Nat) : Mod :=
  let k := queueAt m q
  let m := k.grants.foldl (fun m g =>
    toEndpoint m { id := 0, kind := .gone, ep := g.ep, queue := BitVec.ofNat 18 q, c0 := g.c0, epoch := k.epoch, count := 0,
                   closed := false, entries := [], job := (ctx m (readerOf q k)).job, req := g.req }) m
  let m := setCtx m (readerOf q k) (fun x => { x with windows := x.windows.filter (fun w => w.2.toNat != q % 128) })
  setQueue m q (fun k =>
    { k with isOpen := false, count := 0, half := false, epoch := k.epoch + 1, grants := [], nextChan := 0, msgs := [], arrival := false })

/-- CLOSE written to qctl (R357). -/
def closeQueueOp (m : Mod) (q : Nat) : Mod :=
  if (queueAt m q).isOpen then setQueue (closeQueue m q) q (fun k => { k with status := 0 })
  else setQueue m q (fun k => { k with status := 4 })

/-- A write of qctl: the RW fields, then the operation (R354). -/
def qctlWrite (m : Mod) (q : Nat) (v : Word) : Mod :=
  let n := v.toNat
  let m := setQueue m q (fun k =>
    { k with ctx := BitVec.ofNat 2 (fld n 24 2), ldepth := BitVec.ofNat 4 (fld n 16 4), evarm := bitOf n 2 })
  match fld n 62 2 with
  | 1 => openQueue m q
  | 2 => closeQueueOp m q
  | _ => m

/-! ## Endpoints (R358 to R362) -/

/-- An endpoint changed. -/
def setEp (m : Mod) (t e : Nat) (f : Endpoint → Endpoint) : Mod := setCtx m t (fun x => { x with eps := tblMod {} x.eps e f })

/-- An item of an endpoint towards its queue. -/
def epCtl (m : Mod) (t e : Nat) (kind : CtlKind) (count : Nat) (entries : List QEntry) : Ctl :=
  let k := (ctx m t).endp e
  { id := 0, kind := kind, ep := { peer := none, thread := BitVec.ofNat 13 t, ep := BitVec.ofNat 7 e }, queue := k.chQueue, c0 := k.chC0,
    epoch := k.epoch, count := count, closed := false, entries := entries, job := (ctx m t).job, req := k.req }

/-- OPEN of an endpoint (R360). -/
def openEndpoint (m : Mod) (t e : Nat) : Mod :=
  let k := (ctx m t).endp e
  if k.state != 0 then setEp m t e (fun k => { k with status := 4 })
  else
    let peer := if k.remote && k.peer != m.fab.id then some k.peer else none
    let n := m.nextOpen
    let m := setEp { m with nextOpen := n + 1 } t e (fun k =>
      { k with state := 1, req := n, openAt := m.now, chC0 := k.c0, chPeer := peer, chQueue := k.queue, credit := 0, grant := 0 })
    leaveCore m peer (epCtl m t e .greq (k.want.toNat + 1) [])

/-- An endpoint closed: its staged message discarded, its grant released (R362). -/
def closeEndpoint (m : Mod) (t e : Nat) : Mod :=
  let x := ctx m t
  let k := x.endp e
  if k.state = 0 then m
  else
    let c := epCtl m t e .rel 0 []
    let m := setCtx m t (fun x => if x.sendCh.toNat = e then { x with sendBuf := [] } else x)
    let m := setEp m t e (fun k => { k with state := 0, credit := 0, status := 0 })
    leaveCore m k.chPeer c

/-- CLOSE of an endpoint by a write of chctl. -/
def closeEndpointOp (m : Mod) (t e : Nat) : Mod :=
  if ((ctx m t).endp e).state = 0 then setEp m t e (fun k => { k with status := 4 }) else closeEndpoint m t e

/-- A write of chctl: the RW fields, then the operation (R358). -/
def chctlWrite (m : Mod) (t e : Nat) (v : Word) : Mod :=
  let n := v.toNat
  let m := setEp m t e (fun k =>
    { k with gfault := bitOf n 57, c0 := bitOf n 56, want := BitVec.ofNat 8 (fld n 48 8), peer := BitVec.ofNat 16 (fld n 32 16),
             remote := bitOf n 31, queue := BitVec.ofNat 18 (fld n 0 18) })
  match fld n 62 2 with
  | 1 => openEndpoint m t e
  | 2 => closeEndpointOp m t e
  | _ => m

/-- The endpoints of a thread close at its end (R362). -/
def closeEndpoints (m : Mod) (t : Nat) : Mod := (ctx m t).eps.foldl (fun m e => closeEndpoint m t e.1) m

/-- Every queue that a thread reads closes at its end (R332). -/
def closeQueuesOf (m : Mod) (t : Nat) : Mod :=
  (core m (t / 4)).queues.foldl (fun m e =>
    if e.2.isOpen && e.2.rctx.toNat == t % 4 then closeQueue m (128 * (t / 4) + e.1) else m) m

/-! ## What arrives (R360 to R362, R368, R369, R371, R373) -/

/-- A grant request at its queue: g credits and the epoch (R360). -/
def takeGreq (m : Mod) (c : Ctl) : Mod :=
  let q := c.queue.toNat
  let k := queueAt m q
  let g := if k.isOpen then min c.count (k.depth - grantedOf k) else 0
  let m := if g = 0 then m else setQueue m q (fun k =>
    { k with grants := k.grants ++ [{ ep := c.ep, n := g, c0 := c.c0, chan := k.nextChan, released := false, req := c.req }], nextChan := k.nextChan + 1 })
  toEndpoint m { c with kind := .grant, count := g, closed := !k.isOpen, epoch := k.epoch }

/-- A grant reply at its endpoint, from the module of the queue (R360, R362): one that is not awaited is released. A reply to an OPEN that has timed out is taken as the
reply to a later one that is opening: nothing in it tells them apart (log 116, DESIGN CHOICE). -/
def takeGrant (m : Mod) (peer : Option (BitVec 16)) (c : Ctl) : Mod :=
  let t := c.ep.thread.toNat
  let e := c.ep.ep.toNat
  let k := (ctx m t).endp e
  if k.state = 1 ∧ k.chQueue = c.queue ∧ k.chPeer = peer then
    if c.count = 0 then setEp m t e (fun k => { k with state := 0, status := if c.closed then 1 else 2 })
    else setEp m t e (fun k => { k with state := 2, credit := c.count, grant := c.count, epoch := c.epoch, status := 0, req := c.req })
  else if c.count = 0 then m
  else leaveCore m peer { c with kind := .rel, ep := { c.ep with peer := none } }

/-- The grant of the channel that an item of an endpoint belongs to: that of the OPEN it names. The items of a peer name none: of its grants of the class, the first not
yet released (log 116, DESIGN CHOICE). -/
def Queue.openGrant (k : Queue) (c : Ctl) : Option Grant := k.grants.find? (fun g => g.ep == c.ep && g.c0 == c.c0 && g.req == c.req && !g.released)

/-- The OPEN that the channel of a message belongs to. -/
def Queue.reqOf (k : Queue) (chan : Nat) : Nat := (k.grants.find? (fun g => g.chan == chan)).elim 0 Grant.req

/-- The grants of released channels go once every entry delivered on them has been popped (R362). -/
def Queue.settleGrants (k : Queue) : Queue :=
  { k with grants := k.grants.filter (fun g => !(g.released && !k.msgs.any (fun x => x.chan == g.chan))) }

/-- The channel of a release is released. -/
def dropGrant (k : Queue) (c : Ctl) : Queue :=
  match k.openGrant c with
  | none => k
  | some r => Queue.settleGrants { k with grants := k.grants.map (fun g => if g.chan = r.chan then { g with released := true } else g) }

/-- A release at its queue (R362). -/
def takeRel (m : Mod) (c : Ctl) : Mod :=
  if (queueAt m c.queue.toNat).isOpen then setQueue m c.queue.toNat (fun k => dropGrant k c) else m

/-- The reader is told of an arrival on an armed queue (R373). -/
def queueEvent (m : Mod) (q : Nat) : Mod :=
  let k := queueAt m q
  if !k.evarm then m
  else setCtx (setQueue m q (fun k => { k with arrival := true })) (readerOf q k) (fun x => { x with pendInt := x.pendInt ||| 1 })

/-- A message at its queue: readable whole, or stale (R369). A message for which there is no room, which a sender that keeps to its credits never sends (R361), is discarded
(log 116, DESIGN CHOICE). -/
def takeMsg (m : Mod) (c : Ctl) : Mod :=
  let q := c.queue.toNat
  let k := queueAt m q
  if !k.isOpen || k.epoch != c.epoch then count m (q / 128) 43 1
  else if k.depth < k.count + c.entries.length then m
  else
    let n := c.entries.length
    let slots := (List.range n).map (fun i => k.base + (k.hd + k.count + i) % k.depth)
    let m := setCore m (q / 128) (fun co =>
      { co with store := (slots.zip c.entries).foldl (fun t p => tblPut t p.1 p.2) co.store
                storeBad := co.storeBad.filter (fun e => !slots.contains e) })
    let m := setQueue m q (fun k =>
      { k with count := k.count + n
               msgs := k.msgs ++ [{ ep := c.ep, chan := ((k.openGrant c).map Grant.chan).getD k.nextChan, c0 := c.c0, n := n, left := n }] })
    queueEvent (count m (q / 128) 41 1) q

/-- A credit return at its endpoint, for the channel that it has open (R371, R362; log 116, DEDUCED). -/
def takeCret (m : Mod) (peer : Option (BitVec 16)) (c : Ctl) : Mod :=
  let t := c.ep.thread.toNat
  setEp m t c.ep.ep.toNat (fun k =>
    if k.state = 2 ∧ k.epoch = c.epoch ∧ k.chQueue = c.queue ∧ k.chPeer = peer ∧ k.req = c.req then { k with credit := min k.grant (k.credit + c.count) } else k)

/-- A gone notice at its endpoint (R362, R368). -/
def takeGone (m : Mod) (peer : Option (BitVec 16)) (c : Ctl) : Mod :=
  setEp m c.ep.thread.toNat c.ep.ep.toNat (fun k =>
    if (k.state = 2 ∨ k.state = 3) ∧ k.epoch = c.epoch ∧ k.chQueue = c.queue ∧ k.chPeer = peer then { k with state := 3, credit := 0, status := 3 } else k)

/-! ## Popping (R367, R370, R371) -/

/-- The words a queue holds. -/
def wordsIn (k : Queue) : Nat := 2 * k.count - b1 k.half

/-- The credit of a freed message goes back, with the job tags of the thread that popped it, and a released grant with its last entry (R371, R362, R513). -/
def freeEntry (m : Mod) (q t : Nat) : Mod :=
  let k := queueAt m q
  match k.msgs with
  | [] => m
  | g :: rest =>
    if 1 < g.left then setQueue m q (fun k => { k with msgs := { g with left := g.left - 1 } :: rest })
    else
      let m := setQueue m q (fun k => { k with msgs := rest })
      let m := toEndpoint m { id := 0, kind := .cret, ep := g.ep, queue := BitVec.ofNat 18 q, c0 := g.c0, epoch := k.epoch, count := g.n,
                              closed := false, entries := [], job := (ctx m t).job, req := k.reqOf g.chan }
      setQueue m q Queue.settleGrants

/-- One word popped from a queue that holds one. An uncorrectable entry is delivered as zero with SRAM_UE (R388). -/
def popWord (m : Mod) (q t : Nat) (slot : Slot) (bundle : Word) : Mod × Word :=
  let k := queueAt m q
  let at_ := k.base + k.hd
  let co := core m (q / 128)
  let bad := co.storeBad.contains at_
  let e := (tblGet 0 co.store at_).toNat
  let w := if bad then 0 else w64 (if k.half then e / 2 ^ 64 else e)
  let m := if bad then raiseCheck m t (machineCheck 0x32 (slotNum slot) 3 bundle 0) else m
  if k.half then
    let m := setQueue m q (fun k => { k with half := false, hd := (k.hd + 1) % k.depth, count := k.count - 1 })
    (freeEntry m q t, w)
  else (setQueue m q (fun k => { k with half := true }), w)

/-- `n` words popped. -/
def popWords (m : Mod) (q t : Nat) (slot : Slot) (bundle : Word) : Nat → Mod × List Word
  | 0 => (m, [])
  | n + 1 =>
    match popWord m q t slot bundle with
    | (m, w) => match popWords m q t slot bundle n with
      | (m, l) => (m, w :: l)

/-! ## The queue view (R353, R355, R358, R359) -/

/-- qctl as it reads. -/
def qctlRead (k : Queue) : Word := w64 (k.ctx.toNat * 2 ^ 24 + k.ldepth.toNat * 2 ^ 16 + b1 k.evarm * 4)

/-- qstat. -/
def qstatRead (k : Queue) : Word :=
  w64 (grantedOf k * 2 ^ 49 + k.count * 2 ^ 40 + b1 k.half * 2 ^ 39 + k.base * 2 ^ 21 + b1 k.isOpen * 2 ^ 16 + k.epoch.toNat * 256 + k.status.toNat)

/-- chctl as it reads. -/
def chctlRead (k : Endpoint) : Word :=
  w64 (b1 k.gfault * 2 ^ 57 + b1 k.c0 * 2 ^ 56 + k.want.toNat * 2 ^ 48 + k.peer.toNat * 2 ^ 32 + b1 k.remote * 2 ^ 31 + k.queue.toNat)

/-- chstat. -/
def chstatRead (k : Endpoint) : Word :=
  w64 (k.state.toNat * 2 ^ 62 + k.credit * 2 ^ 49 + k.grant * 2 ^ 40 + k.epoch.toNat * 2 ^ 24 + k.status.toNat)

/-- The record at an 8-byte-aligned offset of a core's view (R353). -/
def viewRead (m : Mod) (c off : Nat) : Word :=
  let hi := off / 8 % 2 == 1
  if off < 0x8000 then
    let e := (tblGet 0 (core m c).store (off / 16)).toNat
    w64 (if hi then e / 2 ^ 64 else e)
  else if off < 0x8800 then
    let k := queueAt m (128 * c + (off - 0x8000) / 16)
    if hi then qstatRead k else qctlRead k
  else if off < 0x9000 then 0
  else if off < 0xB000 then
    let k := (ctx m (4 * c + (off - 0x9000) / 0x800)).endp ((off - 0x9000) % 0x800 / 16)
    if hi then chstatRead k else chctlRead k
  else 0

/-- A write of the record at an 8-byte-aligned offset (R353): the status words and the store ignore it. -/
def viewWrite (m : Mod) (c off : Nat) (v : Word) : Mod :=
  if off / 8 % 2 = 1 then m
  else if 0x8000 ≤ off ∧ off < 0x8800 then qctlWrite m (128 * c + (off - 0x8000) / 16) v
  else if 0x9000 ≤ off ∧ off < 0xB000 then chctlWrite m (4 * c + (off - 0x9000) / 0x800) ((off - 0x9000) % 0x800 / 16) v
  else m

end Sys2Proof.Machine
end

