-- ==== Sys2Proof/Machine/Threads.lean ====
section
/-! DEFINITION. The life of a thread (R327 to R334), its work item (R592, R593, R608), and the start of a reset (R602 to R606). -/

namespace Sys2Proof.Machine

/-! ## Threads of the module -/

/-- The contexts that the state lists, by thread identifier. -/
def allThreads (m : Mod) : List Nat := m.cores.flatMap (fun c => c.2.ctxs.map (fun x => 4 * c.1 + x.1))

/-- The live threads that satisfy `p`. -/
def liveWhere (m : Mod) (p : Nat → Ctx → Bool) : List Nat := (allThreads m).filter (fun t => (ctx m t).live && p t (ctx m t))

/-- Is the context free (R327, R333)? -/
def isFree (m : Mod) (t : Nat) : Bool := !(ctx m t).live && !(ctx m t).freeing

/-- The free contexts of a core, lowest first. -/
def freeContexts (m : Mod) (c : Nat) : List Nat := (threadsOf c).filter (isFree m)

/-! ## Starts of resets (R602, R606) -/

/-- Does domain `a` contain domain `b`, or equal it (R604)? -/
def domainIn (b a : Domain) : Bool :=
  match a, b with
  | .module, _ => true
  | .die k, .die j => k == j
  | .die k, .cluster q => k.toNat == q.toNat / 16
  | .die k, .core c => k.toNat == c.toNat / 256
  | .die k, .thread t => k.toNat == t.toNat / 1024
  | .cluster q, .cluster r => q == r
  | .cluster q, .core c => q.toNat == c.toNat / 16
  | .cluster q, .thread t => q.toNat == t.toNat / 64
  | .core c, .core d => c == d
  | .core c, .thread t => c.toNat == t.toNat / 4
  | .thread t, .thread u => t == u
  | .stack s, .stack r => s == r
  | .link l, .link k => l == k
  | _, _ => false

/-- A reset starts with the Kerb fence of its domain: absorbed by a larger one, taking over smaller ones (R602, R606) (log 17, DEDUCED). -/
def startReset (m : Mod) (d : Domain) (hang dbg : Bool) : Mod :=
  if m.rcv.resets.any (fun r => domainIn d r.d) then m
  else
    let inner := m.rcv.resets.filter (fun r => domainIn r.d d)
    let r : Reset := { d := d, draining := true, drainAt := m.now + 100000, limitAt := 0, hang := hang || inner.any (fun x => x.hang),
                       dbg := dbg || inner.any (fun x => x.dbg), escalated := false }
    { m with rcv := { m.rcv with resets := m.rcv.resets.filter (fun r => !domainIn r.d d) ++ [r] } }

/-- A thread reset of each of a list of threads. -/
def resetThreads (m : Mod) (l : List Nat) : Mod := l.foldl (fun m t => startReset m (.thread (BitVec.ofNat 13 t)) false false) m

/-! ## Descriptors' outcomes (R615) -/

/-- The rank of a status in the order of R615: lower applies first. -/
def statusRank (s : Byte) : Nat :=
  if s = 7 then 0 else if s = 6 then 1 else if s = 8 then 2 else if s = 1 then 3 else if s = 3 then 4 else 5

/-- The descriptor of record `r` changed. -/
def setRec (m : Mod) (r : Nat) (f : Rec → Rec) : Mod :=
  match tblFind m.hq.recs r with
  | none => m
  | some x => { m with hq := { m.hq with recs := tblPut m.hq.recs r (f x) } }

/-- A status that a thread made apply, with the result that goes with it: kept unless one that applies first is there. -/
def blame (m : Mod) (r : Nat) (status : Byte) (result : Word) : Mod :=
  setRec m r (fun x =>
    { x with blame := match x.blame with
      | none => some (status, result)
      | some (s, v) => if statusRank status < statusRank s then some (status, result) else some (s, v) })

/-- The result of R615: the thread, and the code of its cause. -/
def blameResult (t code : Nat) : Word := w64 (code * 2 ^ 13 + t)

/-! ## Work items (R592, R593) -/

/-- An item changed. -/
def setItem (m : Mod) (i : Nat) (f : Item → Item) : Mod :=
  match tblFind m.hq.items i with
  | none => m
  | some x => { m with hq := { m.hq with items := tblPut m.hq.items i (f x) } }

/-- The live threads of a work item. -/
def itemThreads (m : Mod) (i : Nat) : List Nat := liveWhere m (fun _ x => x.item == some i)

/-- The live threads of a launch. -/
def recordThreads (m : Mod) (r : Nat) : List Nat := liveWhere m (fun _ x => x.launch == some r)

/-- A work item is lost, to the end of thread `t`: its threads still live end by thread reset (R593). -/
def loseItem (m : Mod) (i t : Nat) : Mod :=
  let code (x : Item) : BitVec 8 := ((x.checks.filter (fun c => c.1 == t)).getLast?).elim 0 Prod.snd
  resetThreads (setItem m i (fun x => { x with lost := true, running := false, lostBy := t, lostCode := code x })) (itemThreads m i)

/-- What is left of a launch ends: its threads by thread reset, and no core starts it any more (R593, R609). -/
def endRest (m : Mod) (r : Nat) : Mod := resetThreads (setRec m r (fun x => { x with todo := [] })) (recordThreads m r)

/-- A work item fails: its descriptor ends with ERROR, and its remaining threads by thread reset (R593, R609, R615). -/
def failItem (m : Mod) (i t code : Nat) : Mod :=
  match tblFind m.hq.items i with
  | none => m
  | some x =>
    let m := blame (setItem m i (fun x => { x with failed := true, running := false })) x.record 3 (blameResult t code)
    endRest m x.record

/-- What the end of a thread means for its item: `code` is that of the cause of a failure (R593, R615). -/
def itemEnd (m : Mod) (t : Nat) (x : Ctx) (how : EndHow) (code : Nat) : Mod :=
  match x.item with
  | none => m
  | some i =>
    match tblFind m.hq.items i with
    | none => m
    | some it =>
      let settled := it.ended || it.failed || it.lost
      if settled then m
      else if how = .machineCheck ∨ how = .reset ∨ it.checks.any (fun c => c.1 == t) ∨ (how = .failed ∧ it.checks ≠ []) then loseItem m i t
      else if how = .failed then failItem m i t code
      else if (itemThreads m i).isEmpty then setItem m i (fun x => { x with ended := true, running := false })
      else m

/-- KILL of a thread: a thread reset, whose end leaves the Toll queue as EXIT does (R344, R527, R604). Its descriptor ends ABORTED, so that its item ends without replay and
the descriptor's remaining threads by thread reset (R593, R609, R615; log 35, DEDUCED). -/
def killThread (m : Mod) (t : Nat) : Mod :=
  let m := match (ctx m t).launch with
    | some r => endRest (blame m r 6 (blameResult t 0)) r
    | none => m
  let d : Domain := .thread (BitVec.ofNat 13 t)
  let m := startReset m d false false
  { m with rcv := { m.rcv with resets := m.rcv.resets.map (fun r => if r.d == d then { r with kill := true } else r) } }

/-! ## The end of a thread (R327, R332) -/

/-- The rows of a TSG in the bundle of an EXIT, which takes effect: they complete, but for one whose page is not present and those behind it (R321, R332, R333). -/
def keepRows (m : Mod) (t : Nat) : Mod :=
  let mine (a : Access) : Bool := a.kind == .tsgRow && a.thread.toNat == t && a.gen == (ctx m t).gen
  let lost (a : Access) : Bool := m.accs.any (fun b => mine b && decide (b.step ≤ a.step) && !b.present)
  { m with accs := m.accs.filterMap (fun a => if !mine a then some a else if lost a then none else some { a with kept := true }) }

/-- A thread ends: its buffer discarded, its endpoints and queues closed, its streams freed; the context frees once nothing is in flight (R332, R333, R407) (log 56, DEDUCED). -/
def endThread (m : Mod) (t : Nat) (how : EndHow) (code : Nat) : Mod :=
  let x := ctx m t
  if !x.live then m
  else
    let c := t / 4
    let m := if how == .exit then keepRows m t else m
    let m := setCtx m t (fun x => { x with sendBuf := [] })
    let m := closeQueuesOf m t
    let m := closeEndpoints m t
    let m := setCore m c (fun k => { k with streams := k.streams.filter (fun s => s.ctx != t % 4) })
    let m := leaveTurn (touchTile m (t / 64)) t
    let m := setCtx m t (fun x =>
      { x with live := false, halted := false, freeing := inFlight x (core m c).cycle, waiting := none, stall := 0, hold := none, entry := none,
               rteAt := none, rteBad := none, resume := none, stepFault := none, checks := [] })
    itemEnd m t x how code

/-! ## The start of a thread (R328 to R330) -/

/-- A core that had no running thread gets one: its watchdogs count from now on, and it chooses its thread (R338, R350, R599). -/
def wakeCore (m : Mod) (c : Nat) : Mod := setCore m c (fun k => { k with idle := true, lastIssue := k.cycle, wdFrom := k.cycle })

/-- The live contexts of a core that are not halted. -/
def runningThreads (m : Mod) (c : Nat) : List Nat := (liveThreads m c).filter (fun t => !(ctx m t).halted)

/-- A thread starts in a context: the state at core reset, but for what belongs to the context, its endpoints among it (R330, R37, R285, R358, R426, R527). -/
def startThread (m : Mod) (t : Nat) (f : Ctx → Ctx) : Mod :=
  let m := if (runningThreads m (t / 4)).isEmpty then wakeCore m (t / 4) else m
  let m := touchTile m (t / 64)
  let m := setCtx m t (fun x =>
    f { Ctx.reset t with
        live := true, gen := x.gen + 1, starts := x.starts + 1, barmem := x.barmem, toll := x.toll, tollAt := x.tollAt, tollQ := x.tollQ, eps := x.eps,
        seq := x.seq, outstanding := x.outstanding, notBefore := (core m (t / 4)).cycle })
  (List.range 8).foldl (fun m k => bumpTile m t k) m

end Sys2Proof.Machine
end

