-- ==== Sys2Proof/Machine/Ops.lean ====
section
/-! DEFINITION. The shared operations of a thread's control: taking an exception, the double and the third fault (R303 to R315, R323 to R326), and the return from one (R318 to R320). -/

namespace Sys2Proof.Machine

/-! ## Words of an exception -/

/-- cr.cause (R314). -/
def causeWord (df : Bool) (f : Flt) : Word :=
  w64 (b1 df * 2 ^ 31 + f.level * 2 ^ 28 + f.slot.toNat * 2 ^ 25 + f.code.toNat * 2 ^ 16 + f.detail.toNat)

/-- cr.tprog of an H instruction in progress (R320). -/
def holdTprog (h : Hold) : Word :=
  w64 (2 ^ 63 + (match h.redirect with | some a => 2 ^ 62 + fld a.toNat 5 42 * 2 ^ 16 | none => 0) + h.steps % 65536)

/-- The cr.tprog that an entry writes: of the H instruction in progress at the resume address, or of one that was to resume; else 0 (R311, R320). -/
def entryTprog (x : Ctx) : Word :=
  match x.hold with
  | some h => holdTprog h
  | none => x.resume.getD 0

/-- The resume address (R310): the bundle of the H instruction in progress, or the bundle the thread issues next, which raised the fault or waits. -/
def resumePc (x : Ctx) : Word :=
  match x.hold with
  | some h => h.bundle
  | none => x.pc

/-- The state word of a frame (R313). -/
def stateWord (x : Ctx) : Word := w64 (x.mask.toNat * 65536 + (crStatus x).toNat % 65536)

/-- The eight words of a frame (R313). -/
def frameWords (m : Mod) (x : Ctx) (cause : Word) (f : Flt) (aux : Word) : List Word :=
  [resumePc x, cause, stateWord x, f.addr, entryTprog x, aux, x.ssp, m.tb.time]

/-- The edge of an H bundle whose CRW had a part in it, kept while its H instruction is interrupted (R180, R181). -/
def keptEdge (h : Hold) : List KeptEdge :=
  match h.edge with
  | some (next, ws) => if h.byCrw then [{ bundle := h.bundle, next := next, writes := ws }] else []
  | none => []

/-- The accesses of an H instruction of a thread that is given up: rows not yet performed and rows held (R208, R322). -/
def dropRows (m : Mod) (t : Nat) : Mod :=
  { m with accs := m.accs.filter (fun a => !(a.thread.toNat == t && (a.kind == .tlgRow || a.kind == .tsgRow) && a.gen == (ctx m t).gen)) }

/-- The thread leaves whatever it waited in (R308). The edge that a CRW of its H bundle had a part in is kept for the return (R180, R181; log 84, DEDUCED). -/
def leaveWait (x : Ctx) : Ctx :=
  { x with waiting := none, stall := 0, hold := none, resume := none, stepFault := none, edges := x.hold.elim [] keptEdge ++ x.edges }

/-- The first cycle in which a handler bundle may issue: every fixed result in flight has landed (R72). -/
def settledAt (x : Ctx) (t : Nat) : Nat := x.inflight.foldl (fun k l => max k l.due) t

/-! ## Events of a thread -/

/-- The event record of a thread (R621). -/
def threadEvent (m : Mod) (t : Nat) (type detail : Nat) (cause addr w5 : Word) : Mod :=
  let j := (ctx m t).job.toNat
  logEvent m { type := type, detail := detail, domain := 0, unit := t, epoch := fld j 16 8, job := fld j 0 16, cause := cause, addr := addr, w5 := w5 }

/-- A machine check marks the work item of its thread (R593). -/
def markChecked (m : Mod) (t : Nat) (code : BitVec 8) : Mod :=
  match (ctx m t).item with
  | some i => setItem m i (fun x => { x with checks := x.checks ++ [(t, code)] })
  | none => m

/-- The machine-check record of an entry, a double-fault entry included, and the mark on the thread's work item (R250, R326, R593). -/
def checkRecord (m : Mod) (t : Nat) (f : Flt) (cause : Word) : Mod :=
  threadEvent (markChecked m t f.code) t 1 f.detail.toNat cause f.addr (w64 f.status.toNat)

/-! ## The third and the double fault (R323, R324) -/

/-- A third fault: a core fault record, with the resume address of the double-fault frame, and the reset of the core (R324). -/
def thirdFault (m : Mod) (t : Nat) (f : Flt) : Mod :=
  let x := ctx m t
  let m := if f.level = 4 then markChecked m t f.code else m
  let m := threadEvent m t 2 0 (causeWord true f) x.dblEpc x.cause
  startReset (setCtx m t (fun x => { leaveWait x with checks := [] })) (.core (BitVec.ofNat 11 (t / 4))) false false

/-- The standard handler ends a thread on a fault, with a THREAD_FAULT record of its frame (R601). -/
def standardFault (m : Mod) (t : Nat) (cause epc addr : Word) : Mod :=
  endThread (threadEvent m t 3 0 cause epc addr) t .failed (fld cause.toNat 16 8)

/-- The double-fault frame slot of a context in its core's SDM (R317). -/
def dfSlot (m : Mod) (t : Nat) : Nat := sdmAddr (t / 4) ((256 * (core m (t / 4)).dfBase.toNat + 64 * (t % 4)) % 0x10000)

/-- Entry into double-fault state (R323): the frame goes to SDM in 2 cycles, in which the S slot issues no LDS or STS (R383); no memory request is made. -/
def doubleFault (m : Mod) (t : Nat) (f : Flt) (aux : Word) : Mod :=
  let x := ctx m t
  if x.dbl then thirdFault m t f
  else
    let cause := causeWord true f
    let frame := frameWords m x cause f aux
    let m := if f.level = 4 then checkRecord m t f cause else m
    let m := (writeSram (dropRows m t) (dfSlot m t) ((frame.flatMap wordBytes).map (fun b => (b, false)))).1
    let cyc := (core m (t / 4)).cycle
    let m := setCore m (t / 4) (fun c => { c with sdmBusy := cyc + 2 })
    let m := setCtx m t (fun x =>
      { leaveWait x with
        cause := cause, epc := resumePc x, tprog := entryTprog x, mask := 4, sup := true, dbl := true, dblEpc := resumePc x, pc := x.vbase + 0x500,
        entry := none, rteAt := none, rteBad := none, notBefore := settledAt x (cyc + 2) })
    let m := count m (t / 4) 49 1
    if x.stdHandler then standardFault m t cause (resumePc x) f.addr else m

/-! ## The frame push and the frame read (R312, R319) -/

/-- Where a frame at a job address lies, or the detail of the failure of R312. -/
def frameTarget (m : Mod) (t : Nat) (ssp a : Word) : Mod × (Nat ⊕ Nat) :=
  if ssp.toNat % 64 != 0 then (m, .inr 0)
  else if bitOf a.toNat 63 then (m, .inr 1)
  else
    match xlate m (t / 4) (ctx m t).xbase a with
    | (m, .notPresent) => (m, .inr 2)
    | (m, .peer _ _) => (m, .inr 1)
    | (m, .here b) =>
      match regionOf b with
      | .hbm | .cm _ _ => (m, .inl b)
      | _ => (m, .inr 1)

/-- The frame push is issued, through the data cache; until its acknowledgement the thread is in a long stall (R68, R312, R141). -/
def pushFrame (m : Mod) (t : Nat) (level : Nat) (cause : Word) (frame : List Word) (a : Word) : Mod :=
  match frameTarget m t (ctx m t).ssp a with
  | (m, .inr d) => doubleFault m t { level := 0, code := 0x40, slot := 7, detail := BitVec.ofNat 16 d } cause
  | (m, .inl b) =>
    let acc := { mkAccess m t .y .framePush a (.here b) 64 with data := (frame.flatMap wordBytes).map (fun x => (x, false)), slot := 7 }
    leaveTurn (issueStore (setCtx m t (fun x => { x with entry := some { level := level, frame := frame, at_ := a } })) t acc) t

/-- Taking an exception (R311): cause, resume address and progress are written, and the frame is pushed; in this cycle the thread is in no long stall, and the WAITDOG's count
returns to zero (R350). A fault or a machine check that the mask does not allow
escalates (R307), and one in double-fault state, whatever the mask, is a third fault (R324). -/
def takeException (m : Mod) (t : Nat) (f : Flt) : Mod :=
  let x := ctx m t
  if x.dbl then thirdFault m t f
  else if f.level = 3 ∧ 3 ≤ x.mask.toNat then doubleFault m t f 0
  else if f.level = 4 ∧ x.mask = 4 then doubleFault m t f 0
  else
    let cause := causeWord false f
    let frame := frameWords m x cause f f.aux
    let m := if f.level = 4 then checkRecord m t f cause else m
    let m := dropRows m t
    let m := setCtx m t (fun x =>
      { leaveWait x with pc := resumePc x, cause := cause, epc := resumePc x, tprog := entryTprog x,
                         resume := if bitOf (entryTprog x).toNat 63 then some (entryTprog x) else none })
    pushFrame (count (setCore m (t / 4) (fun c => { c with wdFrom := c.cycle })) (t / 4) 49 1) t f.level cause frame (x.ssp - 64)

/-- The standard handler after the entry of a level (R601): DISPATCH and the levels 3 and 4 end the thread; any other interrupt returns at once and changes nothing. -/
def standardHandler (m : Mod) (t level : Nat) (frame : List Word) : Mod :=
  let cause := frame.getD 1 0
  let code := fld cause.toNat 16 8
  if level = 3 then standardFault m t cause (frame.getD 0 0) (frame.getD 3 0)
  else if level = 4 then endThread m t .machineCheck code
  else if code = 0x10 then endThread m t .exit 0
  else setCtx m t (fun x => { x with entry := none })

/-- The frame push is acknowledged, or has failed (R311, R312). -/
def pushDone (m : Mod) (t : Nat) (e : Entry) (status : Nat) : Mod :=
  if status = 0 then
    if (ctx m t).stdHandler then standardHandler m t e.level e.frame
    else
      let cyc := (core m (t / 4)).cycle
      setCtx m t (fun x =>
        { x with entry := none, resume := none, ssp := e.at_, mask := BitVec.ofNat 3 e.level, sup := true,
                 pc := x.vbase + w64 (0x100 * e.level), notBefore := settledAt x (cyc + 1) })
  else
    doubleFault (setCtx m t (fun x => { x with entry := none })) t
      { level := 0, code := 0x40, slot := 7, detail := if status = 3 then 3 else 4 } (e.frame.getD 1 0)

/-! ## Boundaries (R306 to R308) -/

/-- The lowest-numbered armed queue of a reader with an arrival (R373). -/
def arrivalQueue (m : Mod) (t : Nat) : Nat :=
  (((core m (t / 4)).queues.find? (fun e => e.2.isOpen && e.2.rctx.toNat == t % 4 && e.2.arrival)).map Prod.fst).getD 0

/-- The lowest comparator of a Milepost mask (R632). -/
def lowestBit (n x : Nat) : Nat := ((List.range n).find? (fun i => bitOf x i)).getD 0

/-- An interrupt is taken: its bit and what stands behind it are cleared (R304, R373, R632). -/
def takeInterrupt (m : Mod) (t b : Nat) : Mod :=
  let x := ctx m t
  let detail := if b = 0 then arrivalQueue m t else if b = 2 then lowestBit 16 x.mpMask.toNat else 0
  let m := setCtx m t (fun x =>
    { x with pendInt := x.pendInt &&& ~~~(BitVec.ofNat 6 (2 ^ b)), mpMask := if b = 2 then 0 else x.mpMask })
  let m := if b = 0 then setCore m (t / 4) (fun c =>
      { c with queues := c.queues.map (fun e => if e.2.rctx.toNat == t % 4 then (e.1, { e.2 with arrival := false }) else e) }) else m
  takeException m t { level := intLevel b, code := intCode b, slot := 7, detail := BitVec.ofNat 16 detail }

/-- May the thread take an exception now: it is live, running, current, and at a boundary (R308)? The waits for its frame push and for the frame read of its RTE are none:
the exception that has begun, or the return, is completed first (log 107, DEDUCED). -/
def atBoundary (m : Mod) (t : Nat) : Bool :=
  let x := ctx m t
  x.live && !x.halted && x.entry.isNone && x.rteAt.isNone && (core m (t / 4)).cur == t % 4 && !(core m (t / 4)).idle && !(core m (t / 4)).inReset &&
  !threadFenced m t && rowsSettled m t

/-- The core's clock moved on to the cycle of a thread's boundary, the first in which its next bundle could issue: what the bundles before it put in flight for
that cycle has landed (R52, R63, R308). -/
def toBoundary (m : Mod) (t : Nat) : Mod :=
  let c := core m (t / 4)
  advance m (t / 4) (max (max c.cycle c.nextIssue) (ctx m t).notBefore)

/-- What a thread takes at a boundary, decided in the boundary's cycle: a machine check, the unmasked interrupt of R308, or the fault of a step (R321). A
boundary at which it has nothing to take stays as it is. -/
def enterBoundary (m : Mod) (t : Nat) : Mod :=
  if !atBoundary m t then m
  else
    let b := toBoundary m t
    let x := ctx b t
    match x.checks with
    | f :: rest => takeException (setCtx b t (fun x => { x with checks := rest })) t f
    | [] =>
      match nextInt x with
      | some i => takeInterrupt b t i
      | none =>
        match x.stepFault with
        | some f => takeException b t f
        | none => m

/-! ## The return (R318 to R320) -/

/-- RTE issues: the frame read starts, or is known to fail, which it then does when it completes (R318, R319). -/
def startRte (m : Mod) (t : Nat) : Mod :=
  let x := ctx m t
  let m := setCtx m t (fun x => { x with rteAt := some x.ssp })
  if x.dbl then m
  else
    match frameTarget m t x.ssp x.ssp with
    | (m, .inr d) => setCtx m t (fun x => { x with rteBad := some d })
    | (m, .inl b) => issueLoad m t (mkAccess m t .s .frameRead x.ssp (.here b) 64)

/-- The thread resumes at a frame (R318, R320). A mask value above 4 in the frame leaves cr.mask as it is (log 25, DESIGN CHOICE). An H instruction of the RTE
bundle that still holds the thread leads to the frame's resume address once it finishes (log 84, DEDUCED). -/
def restoreFrame (m : Mod) (t : Nat) (frame : List Word) : Mod :=
  let epc := frame.getD 0 0 &&& ~~~(0x1F : Word)
  let st := (frame.getD 2 0).toNat
  let tp := frame.getD 4 0 &&& tprogMask
  let cyc := (core m (t / 4)).cycle
  setCtx m t (fun x =>
    { x with
      epc := epc, tprog := tp, pc := epc, rteAt := none, rteBad := none, dbl := false, sup := bitOf st 0,
      hold := x.hold.map (fun h => { h with redirect := some epc }),
      mask := if fld st 16 3 ≤ 4 then BitVec.ofNat 3 (fld st 16 3) else x.mask,
      ssp := if x.dbl then x.ssp else x.ssp + 64,
      resume := if bitOf tp.toNat 63 then some tp else none,
      notBefore := max x.notBefore (cyc + 3) })

/-- An RTE whose frame read failed (R319). -/
def rteFail (m : Mod) (t d : Nat) : Mod :=
  doubleFault (setCtx m t (fun x => { x with rteAt := none, rteBad := none })) t { level := 0, code := 0x41, slot := 0, detail := BitVec.ofNat 16 d } 0

/-- The frame read of an RTE completes (R318, R319). -/
def rteDone (m : Mod) (t : Nat) : Mod :=
  let x := ctx m t
  match x.rteAt with
  | none => m
  | some _ =>
    if x.dbl then
      let at_ := dfSlot m t
      if (List.range 64).any (fun i => byteBad m (at_ + i)) then rteFail (reportUe m at_ 64) t 3
      else restoreFrame (sramCorrect m at_ 64) t (bytesWords 8 (m.mem.bytes at_ 64))
    else
      match x.rteBad, m.accs.find? (fun k => k.kind == .frameRead && k.thread.toNat == t && k.gen == x.gen) with
      | some d, _ => rteFail m t d
      | none, some k =>
        match k.answer with
        | none => m
        | some r =>
          let m := accDel m k.id
          if r.status != 0 then rteFail m t 4
          else if r.poison || r.ue then rteFail m t 3
          else restoreFrame m t (bytesWords 8 r.data)
      | none, none => m

end Sys2Proof.Machine
end

