-- ==== Sys2Proof/Machine/QueueCmd.lean ====
section
/-! DEFINITION. The commands of queues and channels (R351 to R375): OPEN and CLOSE, the timeout of an OPEN, the traffic between endpoints and queues, the refill of the Toll (R527). -/

namespace Sys2Proof.Machine

/-! ## OPEN and CLOSE -/

/-- A word with an operation in bits [63:62]. -/
def withOp (v : Word) (op : Nat) : Word := setFld v 62 2 op

/-- QUEUE_OPEN: a write of qctl with op OPEN (R354, R356). -/
def execQueueOpen (queue : QueueId) (value : Word) (s : State) : Host.Outcome State Fault Refusal :=
  .next { s with mod := qctlWrite s.mod queue.toNat (withOp value 1) }

/-- QUEUE_CLOSE: a write of qctl with op CLOSE (R354, R357). -/
def execQueueClose (queue : QueueId) (value : Word) (s : State) : Host.Outcome State Fault Refusal :=
  .next { s with mod := qctlWrite s.mod queue.toNat (withOp value 2) }

/-- CHANNEL_OPEN: a write of chctl with op OPEN (R358, R360). -/
def execChannelOpen (thread : ThreadId) (ep : BitVec 7) (value : Word) (s : State) : Host.Outcome State Fault Refusal :=
  .next { s with mod := chctlWrite s.mod thread.toNat ep.toNat (withOp value 1) }

/-- CHANNEL_CLOSE: a write of chctl with op CLOSE (R358, R362). -/
def execChannelClose (thread : ThreadId) (ep : BitVec 7) (value : Word) (s : State) : Host.Outcome State Fault Refusal :=
  .next { s with mod := chctlWrite s.mod thread.toNat ep.toNat (withOp value 2) }

/-- FAB_CTL.txto in nanoseconds; 0 acts as 1 us (R536). -/
def txtoNs (m : Mod) : Nat := 1000 * max 1 m.fab.txto.toNat

/-- No reply to a remote OPEN within FAB_CTL.txto (R360). Time moves on to the deadline. -/
def openTimeout (m : Mod) (t e : Nat) : Mod :=
  let k := (ctx m t).endp e
  if k.state = 1 ∧ k.chPeer.isSome then
    setEp (toTime m (k.openAt + txtoNs m)) t e (fun k => { k with state := 0, status := 5 })
  else m

/-- CHANNEL_OPEN_TIMEOUT. -/
def execChannelOpenTimeout (thread : ThreadId) (ep : BitVec 7) (s : State) : Host.Outcome State Fault Refusal :=
  .next { s with mod := openTimeout s.mod thread.toNat ep.toNat }

/-! ## Traffic -/

/-- A packet leaves the receive buffer of its link, if it waits there, and its credits return (R510, R516). -/
def takeRx (m : Mod) (l : Nat) (p : Packet) : Mod :=
  if (linkOf m l).rxq.contains p then returnBuffer (setLink m l (fun k => { k with rxq := removeFirst (· == p) k.rxq })) l p else m

/-- The source and the destination tile of an item on the control network of this module. -/
def Ctl.tiles (c : Ctl) : Nat × Nat :=
  let e := c.ep.thread.toNat / 64
  let q := c.queue.toNat / 2048
  if toQueue c.kind then (e, q) else (q, e)

/-- Is an item the first of its virtual channel between its two tiles (R32, R363)? -/
def netFirst (l : List Ctl) (c : Ctl) : Bool :=
  match l.find? (fun x => x.tiles == c.tiles && x.c0 == c.c0) with
  | some x => x.id == c.id
  | none => false

/-- Do two packets carry items of one channel in one direction? -/
def sameChannel (x p : Packet) : Bool :=
  x.src == p.src && [(4 : Byte), 5, 6].contains x.type == [(4 : Byte), 5, 6].contains p.type && [(4 : Byte), 5, 6, 0x13, 0x14, 0x15].contains x.type &&
    fld x.word2.toNat 0 38 == fld p.word2.toNat 0 38

/-- Is a packet the first of its channel and direction among those that a link holds (R32, R369)? -/
def rxFirst (l : List Packet) (p : Packet) : Bool :=
  match l.find? (fun x => sameChannel x p) with
  | some x => x == p
  | none => true

/-- The item that a command delivers, with the other end's module, and the module without it. In P2 and at S4 it is held (R502, R655). -/
def takeItem (m : Mod) (kind : CtlKind) (src : MsgSrc) : Option (Mod × Option (BitVec 16) × Ctl) :=
  if !meshRuns m then none
  else match src with
  | .inFlight id =>
    match m.net.find? (fun c => c.id == id && c.kind == kind) with
    | some c => if netFirst m.net c then some ({ m with net := removeFirst (fun x => x.id == id) m.net }, none, c) else none
    | none => none
  | .fromLink l p =>
    if p.type == ctlType kind && p.dst == m.fab.id && rxFirst (linkOf m l.toNat).rxq p then some (takeRx m l.toNat p, some p.src, packetCtl kind p) else none

/-- Does the queue of an item lie in a fenced domain (R603)? -/
def queueFenced (m : Mod) (q : Nat) : Bool := fencedAt m (sramBase + sliceBytes' * (q / 2048) + 0x1900000 + 0x10000 * (q / 128 % 16)) m.now

/-- A packet of class 0 addressed to this module, held in its link router, wakes it from P2 (R502). -/
def knock (m : Mod) : MsgSrc → Mod
  | .inFlight _ => m
  | .fromLink _ p => if p.cls == 0 && p.dst == m.fab.id then wakeUp m else m

/-- A delivery: what the command's item does where it arrives. -/
def deliverItem (s : State) (kind : CtlKind) (src : MsgSrc) (f : Mod → Option (BitVec 16) → Ctl → Mod) : Host.Outcome State Fault Refusal :=
  match takeItem s.mod kind src with
  | some (m, peer, c) => .next { s with mod := f m peer c }
  | none => .next { s with mod := knock s.mod src }

/-- GREQ: a fenced queue answers as a closed one (R360, R603; log 27, DEDUCED). -/
def execGreq (src : MsgSrc) (s : State) : Host.Outcome State Fault Refusal :=
  deliverItem s .greq src (fun m _ c =>
    if queueFenced m c.queue.toNat then toEndpoint m { c with kind := .grant, count := 0, closed := true } else takeGreq m c)

/-- GRANT. -/
def execGrant (src : MsgSrc) (s : State) : Host.Outcome State Fault Refusal := deliverItem s .grant src takeGrant

/-- REL: a release for a fenced queue is dropped, as the queue's reset drops the grant. -/
def execRel (src : MsgSrc) (s : State) : Host.Outcome State Fault Refusal :=
  deliverItem s .rel src (fun m _ c => if queueFenced m c.queue.toNat then m else takeRel m c)

/-- MSG: a message for a fenced queue is dropped (R603). -/
def execMsg (src : MsgSrc) (s : State) : Host.Outcome State Fault Refusal :=
  deliverItem s .msg src (fun m _ c => if queueFenced m c.queue.toNat then m else takeMsg m c)

/-- CRET. -/
def execCret (src : MsgSrc) (s : State) : Host.Outcome State Fault Refusal := deliverItem s .cret src takeCret

/-- GONE. -/
def execGone (src : MsgSrc) (s : State) : Host.Outcome State Fault Refusal := deliverItem s .gone src takeGone

/-! ## The Toll -/

/-- The flood packets that wait leave as their management cores gain a token, at the earliest time at which one does (R527). -/
def waitingFloods (m : Mod) : Mod :=
  match m.fab.floodQ with
  | [] => m
  | x :: _ => floodDrain (if (mgmtBucket m x.1).tokens = 0 then reachTicks ((mgmtBucket m x.1).at_ + 256) 128 m else m)

/-- A token comes to a context's bucket, 256 ns of the timebase after the last, and what waits may go (R527). Time moves on to it, while the timebase runs. -/
def refill (m : Mod) (t : Nat) : Mod :=
  let m := waitingFloods m
  let x := ctx m t
  if 4 ≤ x.toll || !tbRuns m then m
  else
    let at_ := x.tollAt + 256
    let m := setCtx (reachTicks at_ 128 m) t (fun x => { x with toll := x.toll + 1, tollAt := at_ })
    tollDrain m t x.tollQ.length

/-- TOLL_TOKEN_REFILL. -/
def execTollTokenRefill (thread : ThreadId) (s : State) : Host.Outcome State Fault Refusal := .next { s with mod := refill s.mod thread.toNat }

end Sys2Proof.Machine
end

