-- ==== Sys2Proof/Machine/Links.lean ====
section
/-! DEFINITION. Requests over the fabric and their responses (R447, R513 to R518), links that go down (R525, R532) and the down list (R523). -/

namespace Sys2Proof.Machine

/-! ## Chunks and descriptors of a stream engine, found by name -/

/-- The descriptors of a queue of an engine. -/
def descsOf (m : Mod) (q queue : Nat) : List SDesc := tblGet [] (cluster m q).dqs queue

/-- A descriptor of a queue, by its sequence number. -/
def descFind (m : Mod) (q queue : Nat) (seq : BitVec 16) : Option SDesc := (descsOf m q queue).find? (fun d => d.seq == seq)

/-- A descriptor changed. -/
def descMod (m : Mod) (q queue : Nat) (seq : BitVec 16) (f : SDesc → SDesc) : Mod :=
  setCluster m q (fun c => { c with dqs := tblMod [] c.dqs queue (modFirst (fun d => d.seq == seq) f) })

/-- A chunk in flight, by its tag. -/
def chunkFind (m : Mod) (q tag : Nat) : Option Chunk := (cluster m q).chunks.find? (fun c => c.tag == tag)

/-- A chunk changed. -/
def chunkMod (m : Mod) (q tag : Nat) (f : Chunk → Chunk) : Mod :=
  setCluster m q (fun c => { c with chunks := modFirst (fun k => k.tag == tag) f c.chunks })

/-- A chunk of a descriptor fails: no further chunk of it issues (R427). -/
def descFails (m : Mod) (q queue : Nat) (seq : BitVec 16) (chunk : Nat) (code : Byte) (a : Word) : Mod :=
  descMod m q queue seq (fun d => { d with stopped := true, fails := d.fails ++ [{ chunk := chunk, code := code, addr := a }] })

/-- A chunk in flight fails with ERROR. -/
def chunkFails (m : Mod) (q tag : Nat) (a : Word) : Mod :=
  match chunkFind m q tag with
  | none => m
  | some c => descFails (chunkMod m q tag (fun c => { c with failed := true })) q c.queue c.seq c.index 3 a

/-! ## Responses -/

/-- A completion record that could not be written (R424): a WRITE_ERROR record with its job address. -/
def recordLost (m : Mod) (d : SDesc) (status : Byte) : Mod :=
  logEvent m { type := 4, detail := status.toNat, domain := 0, unit := d.thread.elim 0 BitVec.toNat, epoch := fld d.job.toNat 16 8, job := fld d.job.toNat 0 16,
               addr := d.words.getD 7 0, w5 := w64 status.toNat }

/-- The job address of a chunk's destination. -/
def chunkAddr (m : Mod) (q tag : Nat) : Word := (chunkFind m q tag).elim 0 (fun c => c.dst)

/-- A response reaches who awaits it (R447, R427, R562). -/
def giveResponse (m : Mod) (o : ReqOwner) (r : Resp) : Mod :=
  match o with
  | .access id => accMod m id (fun a => { a with performed := true, answer := some r })
  | .chunkRead q tag off n ja =>
    if r.status != 0 then chunkFails m q tag ja
    else chunkMod m q tag (fun c =>
      { c with data := c.data.take off ++ (sliceBytes r.data 0 n).map (fun b => (b, r.poison)) ++ c.data.drop (off + n) })
  | .chunkWrite q tag => if r.status != 0 then chunkFails m q tag (chunkAddr m q tag) else m
  | .index q queue seq =>
    match descFind m q queue seq with
    | none => m
    | some d =>
      if r.status != 0 || r.poison then descFails m q queue seq d.nextChunk 3 (d.words.getD 5 0 + w64 (4 * d.row))
      else descMod m q queue seq (fun d => { d with idx := some (BitVec.ofNat 32 (ofBytes (sliceBytes r.data 0 4))) })
  | .completion q queue seq =>
    let m := descMod m q queue seq (fun d => { d with recDone := true })
    match descFind m q queue seq with
    | some d => if r.status != 0 then recordLost m d r.status else m
    | none => m
  | .args rec second off n =>
    setRec m rec (fun x => { x with argParts := x.argParts ++
      [{ second := second, off := off, status := r.status, poison := r.poison, data := sliceBytes r.data 0 n }] })
  | .dropped => m

/-- Nobody awaits the requests that `p` names any more: the response of one that has left is discarded, and one that waits for a tag does not leave (R602). -/
def disown (m : Mod) (p : ReqOwner → Bool) : Mod :=
  { m with fab := { m.fab with
    reqs := m.fab.reqs.map (fun r => if p r.owner then { r with owner := .dropped } else r), waiting := m.fab.waiting.filter (fun x => !p x.1) } }

/-- An error response with a status and no data. -/
def errorResp (status : Byte) : Resp := { status := status, data := [], poison := false, ue := false }

/-- Is a request that this predicate names awaiting its response, or its fabric tag? -/
def asked (m : Mod) (p : ReqOwner → Bool) : Bool := m.fab.reqs.any (fun r => p r.owner) || m.fab.waiting.any (fun x => p x.1)

/-- The first of the next `n` tags of a link router that no request of it holds (R513, R522). -/
def freeFtagFrom (m : Mod) (k : BitVec 3) : Nat → BitVec 12 → Option (BitVec 12)
  | 0, _ => none
  | n + 1, tag => if m.fab.reqs.any (fun q => q.die == k && q.ftag == tag) then freeFtagFrom m k n (tag + 1) else some tag

/-- A free tag of a link router: none while all 4,096 are held. -/
def freeFtag (m : Mod) (k : BitVec 3) : Option (BitVec 12) := freeFtagFrom m k 4096 (tblGet 0 m.fab.nextTag k.toNat)

/-- A request sent with a tag of its link router; UNREACHABLE where no route or link takes it (R513, R524, R525). -/
def sendTagged (m : Mod) (o : ReqOwner) (p : Packet) (tag : BitVec 12) : Mod :=
  match fabSend m { p with ftag := tag } with
  | (m, true) =>
    { m with fab := { m.fab with
      nextTag := tblPut m.fab.nextTag p.k.toNat (tag + 1), reqs := m.fab.reqs ++ [{ die := p.k, ftag := tag, owner := o, at_ := m.now }] } }
  | (m, false) => giveResponse m o (errorResp 3)

/-- The requests of a link router that wait for a tag leave, in order, while it has one (R522). -/
def sendWaiting (m : Mod) (k : BitVec 3) : Nat → Mod
  | 0 => m
  | n + 1 =>
    match m.fab.waiting.find? (fun x => x.2.k == k), freeFtag m k with
    | some x, some tag =>
      sendWaiting (sendTagged { m with fab := { m.fab with waiting := removeFirst (fun x => x.2.k == k) m.fab.waiting } } x.1 x.2 tag) k n
    | _, _ => m

/-- The request with a tag of a link router is over: its response reaches the requester, and the tag is free. A tag that nothing awaits is discarded (R517). -/
def endRequest (m : Mod) (k : BitVec 3) (ftag : BitVec 12) (r : Resp) : Mod :=
  match m.fab.reqs.find? (fun q => q.die == k && q.ftag == ftag) with
  | none => m
  | some q =>
    let m := giveResponse { m with fab := { m.fab with reqs := removeFirst (fun q => q.die == k && q.ftag == ftag) m.fab.reqs } } q.owner r
    sendWaiting m k m.fab.waiting.length

/-- Does a packet type expect a response (R517)? -/
def expectsResponse (ty : Byte) : Bool := ty == 1 || ty == 2 || ty == 3

/-- The response packet to a request (R514, R515): it carries the request's tags, link index and fabric tag. An RDR to a stream engine is of class 4; how its target
knows the requester is open (log 104). -/
def responseTo (p : Packet) (ty status : Byte) (poison : Bool) (data : List Byte) : Packet :=
  { emptyPacket with
    dst := p.src, len := BitVec.ofNat 9 data.length, poison := poison, cls := if ty == 0x11 && Config.ofStream p.src.toNat p.k.toNat p.ftag.toNat then 4 else 3, type := ty,
    status := status, k := p.k, ftag := p.ftag, replay := p.replay, traffic := p.traffic, epoch := p.epoch, job := p.job, data := data }

/-- The type of the response to a request (R514). -/
def responseType (ty : Byte) : Byte := if ty = 1 then 0x10 else if ty = 2 then 0x11 else 0x12

/-- A request answered: status, poison and data sent back to its source. -/
def answerTo (m : Mod) (p : Packet) (status : Byte) (poison : Bool) (data : List Byte) : Mod :=
  (fabSend m (responseTo p (responseType p.type) status poison data)).1

/-- A packet that cannot go on is discarded; a request is answered UNREACHABLE (R525). -/
def answerDown (m : Mod) (p : Packet) : Mod :=
  if !expectsResponse p.type then m
  else if p.src = m.fab.id then endRequest m p.k p.ftag (errorResp 3)
  else answerTo m p 3 false []

/-! ## Requests -/

/-- A request to a peer: sent with a free tag of its link router, or held while that has none or holds earlier ones (R513, R522). -/
def sendRequest (m : Mod) (o : ReqOwner) (p : Packet) : Mod :=
  if m.fab.waiting.any (fun x => x.2.k == p.k) then { m with fab := { m.fab with waiting := m.fab.waiting ++ [(o, p)] } }
  else
    match freeFtag m p.k with
    | some tag => sendTagged m o p tag
    | none => { m with fab := { m.fab with waiting := m.fab.waiting ++ [(o, p)] } }

/-- A write of bytes as a WR packet: one poison bit covers the packet (R514, R518). -/
def wrPacket (peer : BitVec 16) (a : Nat) (d : List (Byte × Bool)) (cls : BitVec 3) (job : BitVec 29) : Packet :=
  tagged { emptyPacket with
    dst := peer, len := BitVec.ofNat 9 d.length, poison := d.any (fun b => b.2), cls := cls, type := 1, k := kOfAddr a, word2 := w64 a,
    data := d.map Prod.fst } job

/-- A read of bytes as an RD packet. -/
def rdPacket (peer : BitVec 16) (a n : Nat) (job : BitVec 29) : Packet :=
  tagged { emptyPacket with dst := peer, len := BitVec.ofNat 9 n, cls := 2, type := 2, k := kOfAddr a, word2 := w64 a } job

/-- Pieces of at most 256 bytes: offset and length. -/
def pieces256 (n : Nat) : List (Nat × Nat) := (List.range (ceilDiv n 256)).map (fun i => (256 * i, min 256 (n - 256 * i)))

/-! ## The down list (R523) -/

/-- An entry of the down list (R539). -/
def downEntry (md b mask : Nat) : Word := w64 (2 ^ 63 + b % 16 * 2 ^ 48 + mask % 256 * 2 ^ 32 + md % 65536)

/-- FAB_DOWNi. -/
def downOf (m : Mod) (i : Nat) : Word := tblGet 0 m.fab.down i

/-- The place of the entry of a module's bundle, if one is valid. -/
def downFind (m : Mod) (md b : Nat) : Option Nat :=
  (List.range 64).find? (fun i => bitOf (downOf m i).toNat 63 && fld (downOf m i).toNat 0 16 == md && fld (downOf m i).toNat 48 4 == b)

/-- The steward notes that links of a module's bundle went down or came up (R523). -/
def noteLinks (m : Mod) (md b mask : Nat) (up : Bool) : Mod :=
  let put (i mask : Nat) : Mod :=
    { m with fab := { m.fab with down := tblPut m.fab.down i (if mask = 0 then 0 else downEntry md b mask) } }
  match downFind m md b with
  | some i =>
    let old := fld (downOf m i).toNat 32 8
    put i (if up then old - (old &&& mask) else old ||| mask)
  | none =>
    if up then m
    else match (List.range 64).find? (fun i => !bitOf (downOf m i).toNat 63) with
      | some i => put i mask
      | none => m

/-! ## Endpoints towards modules out of reach (R360, R368, R532) -/

/-- Does a route to a module start on an up link? -/
def reachable (m : Mod) (p k : Nat) : Bool :=
  match chooseRoute m m.fab.id.toNat p k with
  | none => false
  | some (o, r) =>
    match nextHop m m.fab.id.toNat m.fab.id.toNat p o r with
    | none => false
    | some h => (linkOf m (8 * bundleOf h + k)).state == 2

/-- An endpoint whose peer is out of reach: an open one is broken, an opening one is closed, with status 0x05. -/
def breakEp (e : Endpoint) : Endpoint :=
  if e.state = 1 then { e with state := 0, credit := 0, status := 5 }
  else if e.state = 2 then { e with state := 3, credit := 0, status := 5 }
  else e

/-- The endpoints towards peers that `p` holds of, broken. -/
def breakEndpoints (m : Mod) (p : BitVec 16 → Nat → Bool) : Mod :=
  (allThreads m).foldl (fun m t =>
    setCtx m t (fun x => { x with eps := x.eps.map (fun e =>
      match e.2.chPeer with
      | some q => if p q (e.2.chQueue.toNat / 32768) then (e.1, breakEp e.2) else e
      | none => e) })) m

/-- The endpoints whose route has no link, broken. -/
def breakUnreachable (m : Mod) : Mod := breakEndpoints m (fun p k => !reachable m p.toNat k)

/-! ## A link goes down (R508, R525, R532) -/

/-- The link layer as it stands after training or before it (log 59, DESIGN CHOICE). -/
def Link.fresh (k : Link) (state : BitVec 3) : Link :=
  { k with state := state, txSeq := 0, window := [], ackAt := 0, rxNext := 0, discarding := false, replays := 0,
           credits := [], txq := [], ctl := [], rxBytes := [], t1 := none, uceMs := 0 }

/-- A link after its reset: every field of FAB_LSTAT at its reset value but the state, which is `state` (R12, R538, R605). What has been received still waits, and the
counts of telemetry run on (R638). -/
def Link.afterReset (k : Link) (state : BitVec 3) : Link :=
  { ({} : Link) with state := state, downAt := k.downAt, lastValid := k.lastValid, rxq := k.rxq, telReplays := k.telReplays, telUce := k.telUce }

/-- A link that was UP runs no more: what waits at its port is discarded, and LINKSTATE is flooded (R525, R532). -/
def lowerLink (m : Mod) (l : Nat) (state : BitVec 3) : Mod :=
  let q := (linkOf m l).txq
  let m := setLink m l (fun k => { k.fresh state with downAt := m.now })
  let m := q.foldl (fun m x => answerDown { m with fab := { m.fab with discard := satAdd 16 m.fab.discard 1 } } x.1) m
  let m := noteLinks m m.fab.id.toNat (l / 8) (2 ^ (l % 8)) false
  breakUnreachable (flood m 0x23 false (2 ^ (l % 8)) (l / 8) m.fab.id.toNat 0 0 0)

/-- A link goes DOWN, and is reset to retrain (R532, R604). -/
def linkDown (m : Mod) (l : Nat) : Mod :=
  if (linkOf m l).state = 0 ∨ (linkOf m l).state = 3 then m else startReset (lowerLink m l 0) (.link (BitVec.ofNat 7 l)) false false

/-- May a link train: links are enabled, its bundle is connected and its dimension has more than one module (R497, R536, R680)? -/
def mayTrain (m : Mod) (l : Nat) : Bool :=
  m.fab.en && !disabled m 4 && decide (l < 96) && !m.pins.absent.contains (BitVec.ofNat 4 (l / 8)) && decide (1 < dimSize m (l / 16))

end Sys2Proof.Machine
end

