-- ==== Sys2Proof/Machine/Issue.lean ====
section
/-! DEFINITION. The issue of a bundle (R64 to R80, R86 to R93, R172 to R178): what a slot instruction is to the core, and the one order in which a bundle's faults, waits and effects are decided. -/

namespace Sys2Proof.Machine

/-! ## What the core sees of a slot -/

/-- The module and the context as a bundle finds them in its issue cycle, with the words its windows popped (R64, R67). -/
structure Iss where
  m : Mod
  th : Nat
  cyc : Nat
  pc : Word
  x : Ctx
  pops : List (Slot × Nat × List Word)

/-- An H instruction as the core issues it (R62, R320): what it read, and what it starts with a step. -/
structure HoldDef where
  kind : Iss → HoldKind
  start : Iss → Nat → Mod → Mod

/-- A slot instruction as the core issues it. -/
structure SlotDef where
  slot : Slot
  guard : Guard
  /-- The detail of an ILLEGAL that decode settles (R91). -/
  illegal : Option Nat := none
  /-- PRIV, from the context's mode (R60, R91). -/
  priv : Ctx → Bool := fun _ => false
  /-- Scalar, vector and tile registers read or written, for the pending bits (R68). -/
  sregs : List Nat := []
  vregs : List Nat := []
  tregs : List Nat := []
  /-- The queue windows named, in field order, with the words each read pops (R93, R370). -/
  wins : List (Nat × Nat) := []
  /-- The long stall of a W condition, or of a credit or tag, by its code in cr.waitdog.why; 0 for none (R68, R349). -/
  stall : Iss → Nat := fun _ => 0
  /-- The array cycles of an MMA, for the engine wait (R230). -/
  array : Option (Iss → Nat) := none
  /-- A fault that values decide (R91). -/
  fault : Iss → Option Flt := fun _ => none
  /-- What the slot writes although it raises its fault: the status of an endpoint (R365, R367). -/
  onFault : Iss → Mod → Mod := fun _ m => m
  /-- The effect, once the bundle issues. -/
  eff : Iss → Mod → Mod := fun _ m => m
  /-- The target of a taken branch, or the bundle after a loop of count 0 (R80, R172). -/
  redirect : Iss → Option Word := fun _ => none
  /-- A branch or call, which an EXIT of the bundle suppresses (R103). -/
  branch : Bool := false
  /-- RTE governs the next bundle by itself (R177). -/
  rte : Bool := false
  /-- Does it end its thread (R332)? -/
  ends : Bool := false
  /-- Does it suppress the back edge of its bundle (R181)? -/
  deact : Iss → Bool := fun _ => false
  /-- The loop level whose count a CRW writes: its value replaces the result of the bundle's back edge (R180). -/
  lpcWrite : Option Nat := none
  /-- An H instruction: its effect from a step on (R62, R320). -/
  hold : Option HoldDef := none
  /-- Main-file reads, and the tiles read through the operand cache (R219, R222). -/
  fileReads : Nat := 0
  tiles : List Nat := []
  /-- An LDS or STS, which waits while a double-fault frame takes the own periods of SDM (R383). -/
  sdm : Bool := false
  /-- LM units counted: cycle offset and bank (R379). -/
  banks : Iss → List (Nat × Nat) := fun _ => []

/-- A synchronous fault of a slot (R303). -/
def syncFault (slot : Slot) (code : BitVec 8) (detail : Nat) (addr : Word) : Flt :=
  { level := 3, code := code, slot := slotNum slot, detail := BitVec.ofNat 16 detail, addr := addr }

/-- A scalar source: a register, or the word popped from a queue window (R92, R370). -/
def Iss.s (k : Iss) (slot : Slot) (r : Spec) : Word :=
  if r.toNat < 32 then k.x.sreg r.toNat
  else ((k.pops.find? (fun p => p.1 == slot && p.2.1 == r.toNat - 32)).map (fun p => p.2.2.getD 0 0)).getD 0

/-- A vector source: a register, or the eight words popped (R370). -/
def Iss.v (k : Iss) (r : Spec) : Vec :=
  if r.toNat < 32 then k.x.vreg r.toNat
  else ((k.pops.find? (fun p => p.1 == .v && p.2.1 == r.toNat - 32)).map (fun p => vecOf (p.2.2.flatMap wordBytes))).getD 0

/-- The registers among a slot's fields. -/
def regsOf (l : List Spec) : List Nat := (l.map BitVec.toNat).filter (fun r => decide (r < 32))

/-- The windows among a slot's fields, each once, with the words each read pops (R93). -/
def winsOf (l : List (Spec × Nat)) : List (Nat × Nat) :=
  l.foldl (fun acc p =>
    let w := p.1.toNat - 32
    if 32 ≤ p.1.toNat ∧ !(acc.any (fun a => a.1 == w)) then acc ++ [(w, p.2)] else acc) []

/-- Is a source field of the S or V slot a specifier that R92 allows? -/
def srcOk (r : Spec) : Bool := decide (r.toNat < 48)
/-- Is any other s or v field allowed (R92)? -/
def regOk (r : Spec) : Bool := decide (r.toNat < 32)

/-- ILLEGAL 0x2 where a source or another field is not allowed. -/
def specCheck (srcs dsts : List Spec) : Option Nat := if srcs.all srcOk && dsts.all regOk then none else some 2

/-- The first of two decode faults: the spec does not order the faults of one slot among themselves (log 81, DESIGN CHOICE). -/
def orElse (a b : Option Nat) : Option Nat := match a with | some x => some x | none => b

/-- Is the guard true (R90)? -/
def guardOn (g : Guard) (x : Ctx) : Bool := x.pred g.pred.toNat != g.inv

/-! ## Decode faults (R91, R93, R309) -/

/-- The fault of one slot that decode settles: an ILLEGAL before PRIV, where both apply (log 81, DESIGN CHOICE). -/
def slotDecode (x : Ctx) (d : SlotDef) : Option Flt :=
  match d.illegal with
  | some k => some (syncFault d.slot 0x21 k 0)
  | none => if d.priv x then some (syncFault d.slot 0x20 0 0) else none

/-- One queue window named in both S and V (R93). -/
def windowClash (defs : List SlotDef) : Bool :=
  let of_ (w : Slot) := (defs.filter (fun d => d.slot == w)).flatMap (fun d => d.wins.map Prod.fst)
  (of_ .s).any (fun w => (of_ .v).contains w)

/-- The fault of the bundle that decode settles: the earliest slot (R309) (log 71, DEDUCED). -/
def decodeFault (x : Ctx) (bad : List (Slot × Nat)) (defs : List SlotDef) : Option Flt :=
  let clash := windowClash defs
  [Slot.s, .v, .m, .l, .t, .y].findSome? (fun w =>
    match bad.find? (fun b => b.1 == w) with
    | some b => some (syncFault w 0x21 b.2 0)
    | none =>
      match defs.find? (fun d => d.slot == w) with
      | some d =>
        match slotDecode x d with
        | some f => some f
        | none => if w == .s && clash then some (syncFault .s 0x21 3 0) else none
      | none => none)

/-! ## Waits (R68, R78, R230) -/

/-- Is a register of the slot pending? -/
def pendingReg (x : Ctx) (d : SlotDef) : Bool :=
  d.sregs.any (fun r => x.pendS.getLsbD r) || d.vregs.any (fun r => x.pendV.getLsbD r) || d.tregs.any (fun r => x.pendT.getLsbD r)

/-- The queue bound to a window. -/
def boundQueue (x : Ctx) (th w : Nat) : Option Nat := (tblFind x.windows w).map (fun q => 128 * (th / 4) + q.toNat)

/-- The words that the windows of the active slots need, by queue. -/
def windowNeeds (x : Ctx) (th : Nat) (act : List SlotDef) : List (Nat × Nat) :=
  (act.flatMap (fun d => d.wins)).filterMap (fun w => (boundQueue x th w.1).map (fun q => (q, w.2)))

/-- Does a queue hold too few words for the bundle (R93)? A queue that another thread reads, or that has closed, holds none for this one (R352): a window can be bound to such a
queue after RESTORE, or by a QSEL that lands once its queue has closed (log 95, DEDUCED). -/
def windowsEmpty (m : Mod) (th : Nat) (needs : List (Nat × Nat)) : Bool :=
  needs.any (fun n => !readsQueue m th n.1 || decide (wordsIn (queueAt m n.1) < ((needs.filter (fun k => k.1 == n.1)).map Prod.snd).foldl (· + ·) 0))

/-- The long stall of the bundle, by its code; 0 for none (R68, R349). -/
def bundleStall (k : Iss) (act : List SlotDef) : Nat :=
  if act.any (pendingReg k.x) then 1
  else if windowsEmpty k.m k.th (windowNeeds k.x k.th act) then 2
  else ((act.map (fun d => d.stall k)).find? (fun s => s != 0)).getD 0

/-- May an MMA of `n` array cycles issue in cycle `t` (R230)? -/
def engineFree (c : Core) (t : Nat) : Bool :=
  c.mmas.all (fun r => decide (r.t + r.n ≤ t)) && decide ((c.mmas.filter (fun r => decide (t < r.t + r.n + 6))).length ≤ 1)

/-- A window that is read is unbound (R372). -/
def unboundFault (k : Iss) (act : List SlotDef) : Option Flt :=
  act.findSome? (fun d => if d.wins.any (fun w => (tblFind k.x.windows w.1).isNone) then some (syncFault d.slot 0x21 7 0) else none)

/-- The target of a taken branch of an H bundle must be fetchable (R70), unless an EXIT of the bundle suppresses the branch (R103) (log 82, DEDUCED). -/
def holdTargetFault (k : Iss) (act : List SlotDef) : Option Flt :=
  if act.any (fun d => d.hold.isSome) && !act.any (fun d => d.ends) then
    act.findSome? (fun d => match d.redirect k with
      | some a => if fld a.toNat 47 17 != 0 then some (syncFault d.slot 0x26 2 a) else none
      | none => none)
  else none

/-- The fault of the bundle that values decide: the earliest slot (R309). -/
def valueFault (k : Iss) (act : List SlotDef) : Option Flt :=
  act.findSome? (fun d =>
    match unboundFault k [d] with
    | some f => some f
    | none => match d.fault k with
      | some f => some f
      | none => if d.branch then holdTargetFault k act else none)

/-! ## The back edge (R173 to R177) -/

/-- The back edge at a bundle, from level `k` - 1 down: the next bundle, and what lands a cycle later. -/
def backEdge (x : Ctx) (pc : Word) : Nat → Word × List Write
  | 0 => (pc + 32, [])
  | k + 1 =>
    if tblGet 0 x.lpe k != pc then (pc + 32, [])
    else
      let n := tblGet 0 x.lpc k
      if n != 0 then (tblGet 0 x.lps k, [.lpc k (n - 1) false])
      else match backEdge x pc k with
        | (next, ws) => (next, .lpe k 0 :: ws)

/-- A list of loop results put in flight. -/
def landLoop (m : Mod) (th cyc : Nat) (pc : Word) (ws : List Write) : Mod := ws.foldl (fun m w => land m th cyc 1 .s pc w) m

/-! ## Issue -/

/-- The windows of the active slots popped: S before V, fields in order (R93). -/
def popAll (k : Iss) (act : List SlotDef) : Mod × List (Slot × Nat × List Word) :=
  act.foldl (fun p d =>
    d.wins.foldl (fun p w =>
      match boundQueue k.x k.th w.1 with
      | none => p
      | some q => match popWords p.1 q k.th d.slot k.pc w.2 with
        | (m, l) => (m, p.2 ++ [(d.slot, w.1, l)])) p) (k.m, [])

/-- The mesh periods by which a cycle with read demand `r` and write demand `w` is extended (R221). -/
def portStretch (r w : Nat) : Nat := max (r - 2) (w - 1)

/-- A tile read through the operand cache: true where the file had to be read (R222). -/
def readTile (m : Mod) (c ctxn tile : Nat) : Mod × Bool :=
  let co := core m c
  let key := (ctxn, tile, tblGet 0 co.tgen (8 * ctxn + tile))
  if co.opcache.contains key then
    (count (setCore m c (fun k => { k with opcache := removeFirst (· == key) k.opcache ++ [key] })) c 24 1, false)
  else
    (setCore m c (fun k => { k with opcache := (if k.opcache.length < 4 then k.opcache else k.opcache.drop 1) ++ [key] }), true)

/-- The tile-file reads of a bundle: TILE_RD, the operand cache, and the extension of the cycle (R219, R221, R222). Of the two sources of an MMA the cache
looks up and fills tA first: the spec gives no order (log 83, DESIGN CHOICE). -/
def countTiles (m : Mod) (th cyc : Nat) (act : List SlotDef) : Mod :=
  let c := th / 4
  let step := act.foldl (fun p d => d.tiles.foldl (fun (p : Mod × Nat) t =>
    match readTile p.1 c (th % 4) t with
    | (m, true) => (m, p.2 + 1)
    | (m, false) => (m, p.2)) (p.1, p.2 + d.fileReads)) (m, 0)
  let r := step.2
  let w := ((core m c).tileWrites.filter (· == cyc)).length
  let m := setCore step.1 c (fun k => { k with tileReads := (cyc, r) })
  count (count m c 23 r) c 26 (portStretch r w - portStretch 0 w)

/-- The LM units that a bundle counts (R379). -/
def countBanks (m : Mod) (k : Iss) (act : List SlotDef) : Mod :=
  let l := act.flatMap (fun d => (d.banks k).map (fun p => (k.cyc + p.1, p.2)))
  if l.isEmpty then m else setCore m (k.th / 4) (fun c => { c with lmUse := c.lmUse ++ l })

/-- The quantum in bundles (R339): none when quantum expiry is off. -/
def quantumOf (c : Core) : Option Nat := if c.quantum = 0 then none else some (max 256 c.quantum.toNat)

/-- The next instruction-cache line requested ahead (R394). -/
def prefetchCode (m : Mod) (th : Nat) (pc : Word) : Mod :=
  let c := th / 4
  if !ipfOn m c || !bitOf pc.toNat 5 then m
  else
    match xlate m c (ctx m th).xbase (pc + 32) with
    | (m, .here a) =>
      if bitOf (pc + 32).toNat 63 || (icFind m c a).isSome || (core m c).iprefetch.contains a then m
      else setCore m c (fun k => { k with iprefetch := k.iprefetch ++ [a] })
    | (m, _) => m

/-- What every issue of a bundle counts and moves: the bundle counters, the quantum, the clock (R63, R80, R339, R635). -/
def afterIssue (m : Mod) (th cyc : Nat) (bubble : Bool) : Mod :=
  let c := th / 4
  let m := count (count m c 1 1) c (2 + th % 4) 1
  let m := if bubble then count m c 12 2 else m
  let m := setCtx m th (fun x => { x with qcount := x.qcount + 1 })
  let due := match quantumOf (core m c) with
    | some q => decide (q ≤ (ctx m th).qcount)
    | none => false
  setCore m c (fun k =>
    { k with nextIssue := cyc + (if bubble then 3 else 1), switchAt := cyc + 1, lastIssue := cyc, wdFrom := cyc, expired := k.expired || due })

/-- The thread goes on after the bundle at `pc`: to a redirect, or by R173, as the bundle's first issue decided or, on a resumption, as the loop registers now
stand (R178, R180, R320) (log 84, DEDUCED). -/
def goOn (m : Mod) (t : Nat) (pc : Word) (redirect : Option Word) (edge : Option (Word × List Write)) : Mod :=
  let x := ctx m t
  let cyc := (core m (t / 4)).cycle
  match redirect with
  | some a => setCtx m t (fun x => { x with hold := none, pc := a, notBefore := max x.notBefore (cyc + 3) })
  | none =>
    match edge.getD (backEdge x pc x.depth) with
    | (next, ws) => landLoop (setCtx m t (fun x => { x with hold := none, pc := next })) t cyc pc ws

/-- The H instruction of a thread has finished. -/
def finishHold (m : Mod) (t : Nat) : Mod :=
  match (ctx m t).hold with
  | none => m
  | some h => goOn m t h.bundle h.redirect h.edge

/-- An H instruction holds its thread from a step on (R62, R320). -/
def startHold (k : Iss) (h : HoldDef) (step : Nat) (redirect : Option Word) (edge : Option (Word × List Write)) (byCrw : Bool) (m : Mod) : Mod :=
  h.start k step (setCtx m k.th (fun x =>
    { x with hold := some { kind := h.kind k, bundle := k.pc, steps := step, redirect := redirect, edge := edge, byCrw := byCrw, got := [], failed := none, wroteAt := none } }))

/-- A thread that an H instruction still holds is in a long stall (R68). -/
def leaveHeld (m : Mod) (th : Nat) : Mod := if (ctx m th).hold.isSome then leaveTurn m th else m

/-- Is the result the count of one of the loop levels? -/
def isLpc (ks : List Nat) : Write → Bool
  | .lpc k _ _ => ks.contains k
  | _ => false

/-- What follows a bundle that no branch redirects: the bundle itself while its RTE has not returned, the next in address order where a CRW deactivates the
level, else the back edge (R173, R177, R181). -/
def edgeOf (k : Iss) (live : List SlotDef) : Word × List Write :=
  if live.any (fun d => d.rte) then (k.pc, [])
  else if live.any (fun d => d.deact k) then (k.pc + 32, [])
  else backEdge k.x k.pc k.x.depth

/-- The edge that an H bundle takes once its H instruction finishes: a count that a CRW of the bundle has written replaces that of the back edge (R178, R180). -/
def heldEdge (k : Iss) (live : List SlotDef) : Word × List Write :=
  let e := edgeOf k live
  (e.1, e.2.filter (fun w => !isLpc (live.filterMap (fun d => d.lpcWrite)) w))

/-- Has a CRW of the bundle a part in its edge: it deactivates the level, or writes a count that the back edge would (R180, R181)? -/
def edgeByCrw (k : Iss) (live : List SlotDef) : Bool := live.any (fun d => d.deact k || d.lpcWrite.isSome)

/-- The effects of a bundle that issues whole in cycle `k.cyc` (R64, R68, R70, R74, R177). A loop of count 0 in an H bundle redirects it as a taken branch does, and its
target is kept with the H instruction and in cr.tprog (log 91, DESIGN CHOICE). -/
def issueWhole (k : Iss) (act : List SlotDef) : Mod :=
  let th := k.th
  let ends := act.any (fun d => d.ends)
  let live := if ends then act.filter (fun d => !d.branch) else act
  match popAll k act with
  | (m, pops) =>
    let k := { k with pops := pops }
    let redirect := live.findSome? (fun d => d.redirect k)
    let held := act.any (fun d => d.hold.isSome)
    let m := setCtx m th (fun x => { x with waiting := none, stall := 0, resume := none })
    let m := countTiles (countBanks m k act) th k.cyc act
    let edge := edgeOf k live
    let m := if held || redirect.isSome then m else landLoop m th k.cyc k.pc edge.2
    let m := live.foldl (fun m d => match d.hold with
      | some h => startHold k h 0 redirect (some (heldEdge k live)) (edgeByCrw k live) (d.eff k m)
      | none => d.eff k m) m
    let m := prefetchCode m th k.pc
    let m := afterIssue m th k.cyc redirect.isSome
    let m := if held then m else setCtx m th (fun x => { x with pc := redirect.getD edge.1 })
    let m := if live.any (fun d => d.rte) then leaveTurn m th else m
    let m := if held then leaveHeld m th else m
    if ends then endThread m th .exit 0 else m

/-- The edge kept for the bundle at which a thread resumes, the last kept first (R180, R181). -/
def edgeAt (x : Ctx) (pc : Word) : Option (Word × List Write) := (x.edges.find? (fun e => e.bundle == pc)).map (fun e => (e.next, e.writes))

/-- The edges kept below the one that a resumption at a bundle takes: those kept after it belong to bundles to which no handler returns any more. -/
def edgesBelow (x : Ctx) (pc : Word) : List KeptEdge := if (edgeAt x pc).isSome then (x.edges.dropWhile (fun e => e.bundle != pc)).drop 1 else x.edges

/-- The resumption of an H bundle (R320): only its H instruction continues; where none remains, the thread goes on at once. -/
def issueResumed (k : Iss) (tp : Word) (act : List SlotDef) : Mod :=
  let th := k.th
  let redirect : Option Word := if bitOf tp.toNat 62 then some (w64 (fld tp.toNat 16 42 * 32)) else none
  let edge := edgeAt k.x k.pc
  let m := setCtx k.m th (fun x => { x with waiting := none, stall := 0, resume := none, edges := edgesBelow x k.pc })
  match act.findSome? (fun d => d.hold) with
  | some h =>
    leaveHeld (startHold k h (fld tp.toNat 0 16) redirect edge edge.isSome (afterIssue (countTiles (countBanks m k act) th k.cyc act) th k.cyc false)) th
  | none => goOn m th k.pc redirect edge

/-- May the thread issue a bundle: nothing is there to take in the cycle of its boundary (R308, R335, R602)? -/
def canIssue (m : Mod) (th : Nat) : Bool :=
  let x := ctx m th
  let c := core m (th / 4)
  x.live && !x.halted && x.hold.isNone && x.entry.isNone && x.rteAt.isNone && x.stepFault.isNone &&
  c.cur == th % 4 && !c.idle && !c.expired && !c.inReset && !threadFenced m th && !mustEnter (ctx (toBoundary m th) th)

/-- The bundle waits in a long stall: a switch point, after whose cycle another bundle issues at the earliest (R68, R335, R338). -/
def waitBundle (m : Mod) (th : Nat) (b : Bundle) (code : Nat) : Mod :=
  setCore (leaveTurn (setCtx m th (fun x => { x with waiting := some b, stall := BitVec.ofNat 4 code })) th) (th / 4)
    (fun c => { c with nextIssue := max c.nextIssue (c.cycle + 1) })

/-- May every MMA of a bundle issue in a cycle: the engine takes it, and the matrix issue cap lets it (R230, R653)? -/
def arrayFree (k : Iss) (act : List SlotDef) : Bool :=
  act.all (fun d => match d.array with
    | some n => engineFree (core k.m (k.th / 4)) k.cyc && capAllows (issueCap k.m.pwr) (core k.m (k.th / 4)).arrayRuns k.cyc (n k)
    | none => true)

/-- The bundle of a thread tried in the core's cycle, its faults decided with the words its windows would pop, none of which a fault pops (R72, R92, R93), and in later ones while it waits for QUIET or the engine (R68, R78, R231, R309). What its slots are may depend on the cycle (R195). -/
def tryIssue (th : Nat) (b : Bundle) (bad : List (Slot × Nat)) (defs : Nat → List SlotDef) : Nat → Mod → Mod
  | 0, m => m
  | n + 1, m =>
    let c := th / 4
    let x := ctx m th
    let cyc := (core m c).cycle
    let k : Iss := { m := m, th := th, cyc := cyc, pc := x.pc, x := x, pops := [] }
    let ds := defs cyc
    let on := ds.filter (fun d => guardOn d.guard x)
    let act := match x.resume with
      | some _ => on.filter (fun d => d.hold.isSome)
      | none => on
    if mustEnter x then m
    else
      match decodeFault x bad ds with
      | some f => takeException m th f
      | none =>
        let code := bundleStall k act
        if code != 0 then waitBundle m th b code
        else if b.quiet && inFlight x cyc then tryIssue th b bad defs n (advance (count m c 11 1) c (cyc + 1))
        else if !arrayFree k act then tryIssue th b bad defs n (advance (count m c 31 1) c (cyc + 1))
        else if act.any (fun d => d.sdm) && decide (cyc < (core m c).sdmBusy) then tryIssue th b bad defs n (advance m c (cyc + 1))
        else
          let kp := { k with pops := (popAll k act).2 }
          match valueFault kp act with
          | some f => takeException (act.foldl (fun m d => if slotNum d.slot = f.slot ∧ (unboundFault kp [d]).isNone then d.onFault kp m else m) m) th f
          | none =>
            match x.resume with
            | some tp => issueResumed k tp act
            | none => issueWhole k act

/-- A bundle of a thread issues as soon as it can (R68). A thread that may not issue is left as it is. -/
def issueBundle (m : Mod) (th : Nat) (b : Bundle) (bad : List (Slot × Nat)) (defs : Nat → List SlotDef) : Mod :=
  if !canIssue m th then m
  else
    let c := core m (th / 4)
    tryIssue th b bad defs 256 (advance m (th / 4) (max (max c.cycle c.nextIssue) (ctx m th).notBefore))

/-- A slot command: the thread issues a bundle that holds only this slot at its next bundle address (log 10, DESIGN CHOICE). -/
def issueSlot (s : State) (i : Issue) (c : Instr) (d : SlotDef) : Host.Outcome State Fault Refusal :=
  .next { s with mod := issueBundle s.mod i.thread.toNat { quiet := false, slots := [.ok c] } [] (fun _ => [d]) }

end Sys2Proof.Machine
end

