-- ==== Sys2Proof/Machine/Float.lean ====
section
/-! DEFINITION. Binary floating point (R252 to R254, R280 to R293): unpacking, exact arithmetic on dyadic numbers, one rounding. -/

namespace Sys2Proof.Machine

/-- A binary format: exponent bits and trailing significand bits (R252). -/
structure FFmt where
  eb : Nat
  mb : Nat
  deriving DecidableEq, Repr

def fp64 : FFmt := { eb := 11, mb := 52 }
def fp32 : FFmt := { eb := 8, mb := 23 }
def fp16 : FFmt := { eb := 5, mb := 10 }
def bf16 : FFmt := { eb := 8, mb := 7 }

/-- The bias of the exponent. -/
def FFmt.bias (f : FFmt) : Nat := 2 ^ (f.eb - 1) - 1
/-- The width of an encoding. -/
def FFmt.width (f : FFmt) : Nat := 1 + f.eb + f.mb
/-- The exponent of the smallest normal. -/
def FFmt.emin (f : FFmt) : Int := 1 - (f.bias : Int)
/-- The exponent of the largest finite number. -/
def FFmt.emax (f : FFmt) : Int := f.bias
/-- The sign bit in place. -/
def FFmt.signBit (f : FFmt) (s : Bool) : Nat := b1 s * 2 ^ (f.eb + f.mb)
/-- The encoding of infinity without sign. -/
def FFmt.infBits (f : FFmt) : Nat := (2 ^ f.eb - 1) * 2 ^ f.mb
/-- The canonical quiet NaN (R253). -/
def FFmt.qnan (f : FFmt) : Nat := f.infBits + 2 ^ (f.mb - 1)
/-- The largest finite magnitude. -/
def FFmt.maxBits (f : FFmt) : Nat := f.infBits - 1

/-- A number taken out of its encoding: a NaN by its sign and trailing significand, an infinity, or (-1)^s * m * 2^e. -/
inductive FVal where
  | nan (s : Bool) (frac : Nat)
  | inf (s : Bool)
  | num (s : Bool) (m : Nat) (e : Int)
  deriving DecidableEq, Repr

/-- The value of an encoding (R252). -/
def unpack (f : FFmt) (x : Nat) : FVal :=
  let s := bitOf x (f.eb + f.mb)
  let ex := fld x f.mb f.eb
  let fr := fld x 0 f.mb
  if ex = 2 ^ f.eb - 1 then (if fr = 0 then .inf s else .nan s fr)
  else if ex = 0 then .num s fr (f.emin - f.mb)
  else .num s (2 ^ f.mb + fr) ((ex : Int) - f.bias - f.mb)

/-- Is the encoding subnormal? -/
def isSubnormal (f : FFmt) (x : Nat) : Bool := fld x f.mb f.eb == 0 && fld x 0 f.mb != 0

/-- A source as the arithmetic mode reads it: FAST reads a subnormal as zero of its own sign (R282). -/
def readF (strict : Bool) (f : FFmt) (x : Nat) : FVal :=
  if !strict && isSubnormal f x then .num (bitOf x (f.eb + f.mb)) 0 0 else unpack f (x % 2 ^ f.width)

/-- A rounding mode (R94, R283). -/
inductive Rnd where
  | near | zero | stoch
  deriving DecidableEq, Repr

/-- The mode of cr.arith.rnd (R57). -/
def rndOf (r : BitVec 2) : Rnd := if r = 1 then .zero else if r = 2 then .stoch else .near

/-- The mode of a 2-bit rounding code, where 0 is the thread's default (R94). -/
def rndCode (code : BitVec 2) (dflt : BitVec 2) : Rnd :=
  if code = 0 then rndOf dflt else if code = 1 then .near else if code = 2 then .zero else .stoch

/-- The sticky flags nv, dz, of, uf, nx, as bits 4 to 0 (R57). -/
abbrev Flags := BitVec 5
def flNv : Flags := 16
def flDz : Flags := 8
def flOf : Flags := 4
def flUf : Flags := 2
def flNx : Flags := 1

/-- A result: its encoding and the flags of R281. -/
structure FRes where
  bits : Nat
  fl : Flags := 0
  deriving DecidableEq, Repr

/-- The choice between T and U (R284). The magnitude is T + rem / 2^d in units of the spacing, and a little more where `sticky`; r is the draw. -/
def roundUp (mode : Rnd) (r t rem d : Nat) (sticky : Bool) : Bool :=
  match mode with
  | .near => decide (2 * rem > 2 ^ d) || (2 * rem == 2 ^ d && (sticky || t % 2 == 1))
  | .zero => false
  | .stoch => decide (r < rem * 65536 / 2 ^ d)

/-- m * 2^e cut at 2^q: the quotient, the remainder and the number of bits of the remainder. -/
def cutAt (m : Nat) (e q : Int) : Nat × Nat × Nat :=
  if q ≤ e then (m * 2 ^ (e - q).toNat, 0, 0)
  else
    let d := (q - e).toNat
    (m / 2 ^ d, m % 2 ^ d, d)

/-- m * 2^e rounded to a multiple of 2^q: the multiple, and whether it is inexact. -/
def roundAt (mode : Rnd) (r m : Nat) (e q : Int) (sticky : Bool) : Nat × Bool :=
  match cutAt m e q with
  | (t, rem, d) => (t + b1 (roundUp mode r t rem d sticky), rem != 0 || sticky)

/-- The encoding of the magnitude n * 2^q, which the format holds exactly and which is normal, subnormal or zero. -/
def packMag (f : FFmt) (n : Nat) (q : Int) : Nat :=
  if n = 0 then 0
  else
    let l : Int := (flog2 n : Int) + q
    if l < f.emin then (cutAt n q (f.emin - f.mb)).1
    else (l + f.bias).toNat * 2 ^ f.mb + ((cutAt n q (l - f.mb)).1 - 2 ^ f.mb)

/-- Is n * 2^q at least 2^k? -/
def magGe (n : Nat) (q k : Int) : Bool := n != 0 && decide ((flog2 n : Int) + q ≥ k)

/-- A finite value (-1)^s * (m + a little where sticky) * 2^e rounded into a format (R281, R282, R284). -/
def roundF (strict : Bool) (mode : Rnd) (r : Nat) (f : FFmt) (s : Bool) (m : Nat) (e : Int) (sticky : Bool) : FRes :=
  if m = 0 then { bits := f.signBit s }
  else
    let l : Int := (flog2 m : Int) + e
    let qu := l - f.mb
    let (nu, ixu) := roundAt mode r m e qu sticky
    let tiny := !magGe nu qu f.emin
    if !strict && tiny then { bits := f.signBit s }
    else
      let q := if strict then max qu (f.emin - f.mb) else qu
      let (n, ix) := if q = qu then (nu, ixu) else roundAt mode r m e q sticky
      let huge := decide (l ≥ f.emax + 1)
      let beyond := huge || magGe n q (f.emax + 1)
      if beyond then
        let bits := if huge && mode == .zero then f.maxBits else f.infBits
        { bits := f.signBit s + bits, fl := flOf ||| flNx }
      else
        let above := decide (l ≥ f.emax) && ix && decide ((cutAt m e q).1 = 2 ^ (f.mb + 1) - 1)
        { bits := f.signBit s + packMag f n q,
          fl := (if above then flOf else 0) ||| (if ix && tiny then flUf else 0) ||| (if ix then flNx else 0) }

/-- The NaN result where operand `x` is the first NaN operand (R290, R282): quieted, its payload kept in STRICT mode. -/
def nanOf (strict : Bool) (f : FFmt) (s : Bool) (frac : Nat) : Nat :=
  if strict then f.signBit s + f.infBits + (if frac / 2 ^ (f.mb - 1) % 2 = 1 then frac else frac + 2 ^ (f.mb - 1)) else f.qnan

/-- Is the value a signalling NaN (R253)? -/
def isSnan (f : FFmt) : FVal → Bool
  | .nan _ fr => fr / 2 ^ (f.mb - 1) % 2 == 0
  | _ => false

/-- Is the value a NaN? -/
def isNan : FVal → Bool
  | .nan _ _ => true
  | _ => false

/-- The first NaN among operands, as a result. -/
def firstNan (strict : Bool) (f : FFmt) : List FVal → Option Nat
  | [] => none
  | .nan s fr :: _ => some (nanOf strict f s fr)
  | _ :: t => firstNan strict f t

/-- nv where an operand signals. -/
def snanFl (f : FFmt) (l : List FVal) : Flags := if l.any (isSnan f) then flNv else 0

/-- A value with its sign changed; a NaN keeps its own (R290). -/
def negV : FVal → FVal
  | .nan s fr => .nan s fr
  | .inf s => .inf (!s)
  | .num s m e => .num (!s) m e

/-- The sign and magnitude of an integer times 2^e; an exact sum of zero is +0 unless both terms are -0 (R293). -/
def addNum (s : Bool) (m : Nat) (e : Int) (s' : Bool) (m' : Nat) (e' : Int) : Bool × Nat × Int :=
  if m = 0 ∧ m' = 0 then (s && s', 0, 0)
  else
    let lo := if m = 0 then e' else if m' = 0 then e else min e e'
    let a : Int := (if s then -1 else 1) * (m : Int) * 2 ^ (e - lo).toNat
    let b : Int := (if s' then -1 else 1) * (m' : Int) * 2 ^ (e' - lo).toNat
    let x := a + b
    (decide (x < 0), x.natAbs, lo)

/-- a * b + c with one rounding (R130, R290 to R293). `np` negates the product, `nc` the addend (R99). -/
def fmaV (strict : Bool) (mode : Rnd) (r : Nat) (f : FFmt) (np nc : Bool) (a b c : FVal) : FRes :=
  let sn := snanFl f [a, b, c]
  let c' := if nc then negV c else c
  let inv0 := match a, b with
    | .inf _, .num _ m _ => m == 0
    | .num _ m _, .inf _ => m == 0
    | _, _ => false
  match firstNan strict f [a, b, c] with
  | some n => { bits := n, fl := sn ||| (if inv0 then flNv else 0) }
  | none =>
    if inv0 then { bits := f.qnan, fl := flNv }
    else
      let prod : FVal := match a, b with
        | .inf s, .inf s' => .inf (s != s')
        | .inf s, .num s' _ _ => .inf (s != s')
        | .num s _ _, .inf s' => .inf (s != s')
        | .num s m e, .num s' m' e' => .num (s != s') (m * m') (e + e')
        | x, _ => x
      let p := if np then negV prod else prod
      match p, c' with
      | .inf s, .inf s' => if s = s' then { bits := f.signBit s + f.infBits } else { bits := f.qnan, fl := flNv }
      | .inf s, _ => { bits := f.signBit s + f.infBits }
      | _, .inf s => { bits := f.signBit s + f.infBits }
      | .num s m e, .num s' m' e' =>
        match addNum s m e s' m' e' with
        | (sg, n, q) => roundF strict mode r f sg n q false
      | _, _ => { bits := f.qnan }

/-- +1 and -0, by which an addition and a multiplication are fused multiply-adds. -/
def fOne : FVal := .num false 1 0
def fNegZero : FVal := .num true 0 0

def fAdd (strict : Bool) (mode : Rnd) (r : Nat) (f : FFmt) (neg : Bool) (a b : Nat) : FRes :=
  fmaV strict mode r f false neg (readF strict f a) fOne (readF strict f b)

def fMul (strict : Bool) (mode : Rnd) (r : Nat) (f : FFmt) (neg : Bool) (a b : Nat) : FRes :=
  fmaV strict mode r f neg false (readF strict f a) (readF strict f b) fNegZero

def fFma (strict : Bool) (mode : Rnd) (r : Nat) (f : FFmt) (np nc : Bool) (a b c : Nat) : FRes :=
  fmaV strict mode r f np nc (readF strict f a) (readF strict f b) (readF strict f c)

/-- The quotient (R131, R292). Enough quotient bits are formed that the rest only decides stickiness. -/
def fDiv (strict : Bool) (mode : Rnd) (r : Nat) (f : FFmt) (xa xb : Nat) : FRes :=
  let a := readF strict f xa
  let b := readF strict f xb
  match firstNan strict f [a, b] with
  | some n => { bits := n, fl := snanFl f [a, b] }
  | none =>
    match a, b with
    | .inf _, .inf _ => { bits := f.qnan, fl := flNv }
    | .inf s, .num s' _ _ => { bits := f.signBit (s != s') + f.infBits }
    | .num s _ _, .inf s' => { bits := f.signBit (s != s') }
    | .num s m e, .num s' m' e' =>
      let sg := s != s'
      if m' = 0 then
        if m = 0 then { bits := f.qnan, fl := flNv } else { bits := f.signBit sg + f.infBits, fl := flDz }
      else if m = 0 then { bits := f.signBit sg }
      else
        let k := 2 * f.mb + 80
        roundF strict mode r f sg (m * 2 ^ k / m') (e - e' - k) (m * 2 ^ k % m' != 0)
    | _, _ => { bits := f.qnan }

/-- The integer square root, by bisection on bits from `k` down. -/
def isqrt (n : Nat) : Nat → Nat → Nat
  | 0, acc => acc
  | k + 1, acc =>
    let t := acc + 2 ^ k
    isqrt n k (if t * t ≤ n then t else acc)

/-- The square root (R131). -/
def fSqrt (strict : Bool) (mode : Rnd) (r : Nat) (f : FFmt) (xa : Nat) : FRes :=
  let a := readF strict f xa
  match a with
  | .nan s fr => { bits := nanOf strict f s fr, fl := snanFl f [a] }
  | .inf s => if s then { bits := f.qnan, fl := flNv } else { bits := f.infBits }
  | .num s m e =>
    if m = 0 then { bits := f.signBit s }
    else if s then { bits := f.qnan, fl := flNv }
    else
      let k : Nat := 2 * f.mb + 60
      let odd := (e % 2).toNat
      let n := m * 2 ^ (odd + 2 * k)
      let q := isqrt n (flog2 n / 2 + 1) 0
      roundF strict mode r f false q ((e - odd) / 2 - k) (q * q != n)

/-- The comparison of two numbers that are no NaN: -1, 0 or 1. -0 equals +0 (R133). -/
def cmpV : FVal → FVal → Int
  | .inf s, .inf s' => if s = s' then 0 else if s then -1 else 1
  | .inf s, _ => if s then -1 else 1
  | _, .inf s => if s then 1 else -1
  | .num s m e, .num s' m' e' =>
    match addNum s m e (!s') m' e' with
    | (sg, n, _) => if n = 0 then 0 else if sg then -1 else 1
  | _, _ => 0

/-- The sign of a value. -/
def signV : FVal → Bool
  | .nan s _ => s
  | .inf s => s
  | .num s _ _ => s

/-- The encoding of a source as it was read. -/
def readBits (strict : Bool) (f : FFmt) (x : Nat) : Nat :=
  if !strict && isSubnormal f x then f.signBit (bitOf x (f.eb + f.mb)) else x % 2 ^ f.width

/-- FMIN and FMAX (R132). -/
def fMinMax (strict isMax : Bool) (f : FFmt) (xa xb : Nat) : FRes :=
  let a := readF strict f xa
  let b := readF strict f xb
  match firstNan strict f [a, b] with
  | some n => { bits := n, fl := snanFl f [a, b] }
  | none =>
    let c := cmpV a b
    let takeA := if c = 0 then (if isMax then !signV a else signV a) else if isMax then decide (c > 0) else decide (c < 0)
    { bits := readBits strict f (if takeA then xa else xb) }

/-- FCMP with condition 0 EQ, 1 LT, 2 LE, 3 UNORD (R99, R133). -/
def fCmp (strict : Bool) (f : FFmt) (cond : Nat) (xa xb : Nat) : Bool × Flags :=
  let a := readF strict f xa
  let b := readF strict f xb
  if isNan a || isNan b then
    (cond == 3, if cond == 1 || cond == 2 then flNv else snanFl f [a, b])
  else
    let c := cmpV a b
    (match cond with
      | 0 => c == 0
      | 1 => decide (c < 0)
      | 2 => decide (c ≤ 0)
      | _ => false, 0)

/-- A conversion between formats (R134, R290): a NaN keeps the high bits of its payload in STRICT mode. -/
def fCvt (strict : Bool) (mode : Rnd) (r : Nat) (src dst : FFmt) (x : Nat) : FRes :=
  let a := readF strict src x
  match a with
  | .nan s fr =>
    let p := if src.mb ≤ dst.mb then fr * 2 ^ (dst.mb - src.mb) else fr / 2 ^ (src.mb - dst.mb)
    { bits := nanOf strict dst s p, fl := snanFl src [a] }
  | .inf s => { bits := dst.signBit s + dst.infBits }
  | .num s m e => roundF strict mode r dst s m e false

/-- An integer into a format (R134). -/
def fromInt (strict : Bool) (mode : Rnd) (r : Nat) (f : FFmt) (x : Int) : FRes :=
  roundF strict mode r f (decide (x < 0)) x.natAbs 0 false

/-- A value into an integer of `n` bits (R135). -/
def toInt (strict : Bool) (mode : Rnd) (r : Nat) (src : FFmt) (signed : Bool) (n : Nat) (x : Nat) : FRes :=
  let hi : Int := if signed then 2 ^ (n - 1) - 1 else 2 ^ n - 1
  let lo : Int := if signed then -(2 ^ (n - 1)) else 0
  let enc (y : Int) : Nat := (y % 2 ^ n).toNat
  match readF strict src x with
  | .nan _ _ => { bits := enc hi, fl := flNv }
  | .inf s => { bits := enc (if s then lo else hi), fl := flNv }
  | .num s m e =>
    if magGe m e 70 then { bits := enc (if s then lo else hi), fl := flNv }
    else
      let (q, ix) := roundAt mode r m e 0 false
      let y : Int := if s then -(q : Int) else q
      if y > hi then { bits := enc hi, fl := flNv }
      else if y < lo then { bits := enc lo, fl := flNv }
      else { bits := enc y, fl := if ix then flNx else 0 }

/-- One draw of the stochastic-rounding generator: the two words after it, and the 16 bits (R286). -/
def srDraw (s0 s1 : Word) : Word × Word × Nat :=
  let a := if s0 = 0 ∧ s1 = 0 then 1 else s0
  let b := s1
  let a := a ^^^ (a <<< 23)
  let n := a ^^^ b ^^^ (a >>> 17) ^^^ (b >>> 26)
  (b, n, ((n + b) >>> 48).toNat)

end Sys2Proof.Machine
end

