-- ==== Sys2Proof/Machine/Formats.lean ====
section
/-! DEFINITION. The number formats of tiles (R251 to R279), block scaling, the logarithmic formats, and conversion into each (R262, R284, R298, R299). -/

namespace Sys2Proof.Machine

/-! ## The log-to-linear tables (R268, R269) -/

/-- Entries 0 to 31 of T16 (R268). -/
def t16Part0 : List Nat :=
  [8388608, 8411352, 8434157, 8457025, 8479954, 8502945, 8525999, 8549116,
   8572295, 8595536, 8618841, 8642209, 8665641, 8689136, 8712694, 8736317,
   8760003, 8783754, 8807569, 8831449, 8855394, 8879403, 8903477, 8927617,
   8951823, 8976093, 9000430, 9024833, 9049301, 9073837, 9098438, 9123107]

/-- Entries 32 to 63 of T16 (R268). -/
def t16Part1 : List Nat :=
  [9147842, 9172644, 9197514, 9222451, 9247455, 9272528, 9297668, 9322877,
   9348154, 9373499, 9398913, 9424396, 9449948, 9475570, 9501261, 9527021,
   9552851, 9578752, 9604722, 9630764, 9656875, 9683058, 9709311, 9735636,
   9762032, 9788499, 9815039, 9841650, 9868333, 9895089, 9921917, 9948818]

/-- Entries 64 to 95 of T16 (R268). -/
def t16Part2 : List Nat :=
  [9975792, 10002839, 10029960, 10057154, 10084422, 10111763, 10139179, 10166669,
   10194234, 10221873, 10249587, 10277377, 10305242, 10333182, 10361198, 10389290,
   10417458, 10445703, 10474024, 10502422, 10530897, 10559449, 10588079, 10616786,
   10645571, 10674434, 10703375, 10732395, 10761494, 10790671, 10819928, 10849263]

/-- Entries 96 to 127 of T16 (R268). -/
def t16Part3 : List Nat :=
  [10878679, 10908174, 10937749, 10967404, 10997140, 11026956, 11056853, 11086831,
   11116891, 11147032, 11177254, 11207559, 11237946, 11268415, 11298967, 11329601,
   11360319, 11391120, 11422004, 11452973, 11484025, 11515161, 11546382, 11577687,
   11609078, 11640553, 11672114, 11703760, 11735492, 11767310, 11799215, 11831206]

/-- Entries 128 to 159 of T16 (R268). -/
def t16Part4 : List Nat :=
  [11863283, 11895448, 11927700, 11960039, 11992466, 12024981, 12057584, 12090275,
   12123055, 12155924, 12188882, 12221930, 12255067, 12288294, 12321610, 12355018,
   12388516, 12422104, 12455784, 12489555, 12523418, 12557372, 12591419, 12625557,
   12659789, 12694113, 12728530, 12763041, 12797645, 12832343, 12867135, 12902021]

/-- Entries 160 to 191 of T16 (R268). -/
def t16Part5 : List Nat :=
  [12937002, 12972078, 13007249, 13042515, 13077877, 13113335, 13148888, 13184539,
   13220286, 13256129, 13292070, 13328109, 13364245, 13400479, 13436812, 13473242,
   13509772, 13546401, 13583129, 13619956, 13656884, 13693911, 13731039, 13768268,
   13805598, 13843028, 13880561, 13918195, 13955931, 13993769, 14031710, 14069754]

/-- Entries 192 to 223 of T16 (R268). -/
def t16Part6 : List Nat :=
  [14107901, 14146151, 14184505, 14222963, 14261526, 14300193, 14338964, 14377841,
   14416824, 14455912, 14495106, 14534406, 14573813, 14613326, 14652947, 14692675,
   14732511, 14772455, 14812507, 14852668, 14892937, 14933316, 14973805, 15014403,
   15055111, 15095929, 15136859, 15177899, 15219050, 15260313, 15301688, 15343175]

/-- Entries 224 to 255 of T16 (R268). -/
def t16Part7 : List Nat :=
  [15384775, 15426487, 15468313, 15510252, 15552304, 15594471, 15636752, 15679147,
   15721658, 15764283, 15807025, 15849882, 15892855, 15935945, 15979152, 16022476,
   16065917, 16109476, 16153153, 16196949, 16240863, 16284897, 16329050, 16373322,
   16417715, 16462228, 16506861, 16551616, 16596492, 16641490, 16686609, 16731851]

/-- T16[f] (R268). -/
def t16 (f : Nat) : Nat :=
  let part := match f / 32 with
    | 0 => t16Part0
    | 1 => t16Part1
    | 2 => t16Part2
    | 3 => t16Part3
    | 4 => t16Part4
    | 5 => t16Part5
    | 6 => t16Part6
    | _ => t16Part7
  part.getD (f % 32) 0

/-- T8[f] = T16[32f] (R269). -/
def t8 (f : Nat) : Nat := t16 (32 * f)

/-! ## Formats (R96, R201, R258) -/

/-- A tile format (R96). -/
inductive Fmt where
  | fp64 | fp32 | bf16 | fp16 | lns16 | int8 | e4m3 | e5m2 | e3m2 | e2m3 | e2m1 | mxint8 | blns8
  deriving DecidableEq, Repr

/-- The format of a format code; none for the reserved codes (R96). -/
def fmtOf (c : BitVec 4) : Option Fmt :=
  match c.toNat with
  | 0 => some .fp64
  | 1 => some .fp32
  | 2 => some .bf16
  | 3 => some .fp16
  | 4 => some .lns16
  | 5 => some .int8
  | 6 => some .e4m3
  | 7 => some .e5m2
  | 8 => some .e3m2
  | 9 => some .e2m3
  | 10 => some .e2m1
  | 11 => some .mxint8
  | 12 => some .blns8
  | _ => none

/-- The bits of an element (R201). -/
def Fmt.bits : Fmt → Nat
  | .fp64 => 64
  | .fp32 => 32
  | .bf16 | .fp16 | .lns16 => 16
  | .int8 | .e4m3 | .e5m2 | .mxint8 | .blns8 => 8
  | .e3m2 | .e2m3 => 6
  | .e2m1 => 4

/-- Is the format block-scaled (R201)? -/
def Fmt.block : Fmt → Bool
  | .e4m3 | .e5m2 | .e3m2 | .e2m3 | .e2m1 | .mxint8 | .blns8 => true
  | _ => false

/-- The bytes of a block of 32 elements (R201). -/
def Fmt.blockBytes (f : Fmt) : Nat := 4 * f.bits

/-- The IEEE format of a tile format, for the four that are one. -/
def Fmt.ieee : Fmt → Option FFmt
  | .fp64 => some Machine.fp64
  | .fp32 => some Machine.fp32
  | .bf16 => some Machine.bf16
  | .fp16 => some Machine.fp16
  | _ => none

/-- Are the row bytes valid for the format (R201)? -/
def Fmt.validBytes (f : Fmt) (rb : Nat) : Bool :=
  decide (1 ≤ rb ∧ rb ≤ 64) && (if f.block then rb % f.blockBytes == 0 else rb % (f.bits / 8) == 0)

/-- The scale bytes that the row bytes require (R201). -/
def Fmt.scaleFor (f : Fmt) (rb : Nat) : Nat := if f.block then rb / f.blockBytes else 0

/-- K, the elements of a row of `rb` bytes (R201). -/
def Fmt.elems (f : Fmt) (rb : Nat) : Nat := 8 * rb / f.bits

/-- Exponent bits, fraction bits and bias of an MX floating element (R258). -/
def Fmt.mx : Fmt → Option (Nat × Nat × Nat)
  | .e4m3 => some (4, 3, 7)
  | .e5m2 => some (5, 2, 15)
  | .e3m2 => some (3, 2, 3)
  | .e2m3 => some (2, 3, 1)
  | .e2m1 => some (2, 1, 1)
  | _ => none

/-- emax of R258, and 7 for BLNS8 (R262). -/
def Fmt.blockEmax : Fmt → Int
  | .e4m3 => 8
  | .e5m2 => 15
  | .e3m2 => 4
  | .e2m3 => 2
  | .e2m1 => 2
  | .blns8 => 7
  | _ => 0

/-- The largest finite code of an MX element without sign (R258). -/
def Fmt.maxCode : Fmt → Nat
  | .e4m3 => 0x7E
  | .e5m2 => 0x7B
  | .e3m2 => 0x1F
  | .e2m3 => 0x1F
  | .e2m1 => 0x7
  | .mxint8 => 127
  | .blns8 => 127
  | _ => 0

/-! ## Elements -/

/-- Element `j` of a row's data bytes, as a number (R203, R260). -/
def elemOf (f : Fmt) (row : Nat) (j : Nat) : Nat := fld row (f.bits * j) f.bits

/-- The value of an MX floating element without its scale (R258). -/
def mxValue (f : Fmt) (x : Nat) : FVal :=
  match f.mx with
  | none => .num false 0 0
  | some (eb, mb, bias) =>
    let s := bitOf x (eb + mb)
    let ex := fld x mb eb
    let fr := fld x 0 mb
    if f = .e4m3 ∧ x % 128 = 127 then .nan s fr
    else if f = .e5m2 ∧ ex = 31 then (if fr = 0 then .inf s else .nan s fr)
    else if ex = 0 then .num s fr (1 - (bias : Int) - mb)
    else .num s (2 ^ mb + fr) ((ex : Int) - bias - mb)

/-- A value multiplied by 2^k. -/
def scaleV (v : FVal) (k : Int) : FVal :=
  match v with
  | .num s m e => .num s m (e + k)
  | x => x

/-- The linear value of an LNS16 code (R265, R270, R271). -/
def lnsValue (x : Nat) : FVal :=
  let s := bitOf x 15
  let l := x % 32768
  if l = 0 then (if s then .nan false 0 else .num false 0 0)
  else if l = 32767 then .inf s
  else .num s (t16 (l % 256)) ((l / 256 : Nat) - 64 - 23)

/-- The linear value of a BLNS8 code without its scale (R275, R276). -/
def blnsValue (x : Nat) : FVal :=
  let s := bitOf x 7
  let l := x % 128
  if l = 0 then (if s then .nan false 0 else .num false 0 0)
  else .num s (t8 (l % 8)) ((l / 8 : Nat) - 8 - 23)

/-- The value of an element under its block's scale byte (R257, R259, R261); FAST reads an IEEE subnormal as zero (R282). -/
def elemValue (strict : Bool) (f : Fmt) (x scale : Nat) : FVal :=
  if f.block && scale == 255 then .nan false 0
  else
    let k : Int := (scale : Int) - 127
    match f with
    | .fp64 => readF strict Machine.fp64 x
    | .fp32 => readF strict Machine.fp32 x
    | .bf16 => readF strict Machine.bf16 x
    | .fp16 => readF strict Machine.fp16 x
    | .lns16 => lnsValue x
    | .int8 => .num (decide (sInt 8 x < 0)) (sInt 8 x).natAbs 0
    | .mxint8 => .num (decide (sInt 8 x < 0)) (sInt 8 x).natAbs (k - 6)
    | .blns8 => scaleV (blnsValue x) k
    | _ => scaleV (mxValue f x) k

/-! ## Rounding in the log domain (R298, R299) -/

/-- lin(L) of R298 in units of 2^-87, for L from 0 to 0x7FFF. -/
def lin16 (l : Nat) : Nat := if l = 0 then 0 else t16 (l % 256) * 2 ^ (l / 256)

/-- lin8(L) of R299 in units of 2^-31. -/
def lin8 (l : Nat) : Nat := if l = 0 then 0 else t8 (l % 8) * 2 ^ (l / 8)

/-- Does m * 2^e reach n * 2^q? -/
def geDyad (m : Nat) (e : Int) (n : Nat) (q : Int) : Bool :=
  let lo := min e q
  decide (m * 2 ^ (e - lo).toNat ≥ n * 2 ^ (q - lo).toNat)

/-- The largest L below `hi` whose linear value is at most m * 2^e, found bit by bit (R298). -/
def logFind (lin : Nat → Nat) (q : Int) (hi m : Nat) (e : Int) : Nat → Nat → Nat
  | 0, acc => acc
  | k + 1, acc =>
    let t := acc + 2 ^ k
    logFind lin q hi m e k (if decide (t < hi) && geDyad m e (lin t) q then t else acc)

/-- floor(65536 * (|v| - lin(L)) / (lin(L + 1) - lin(L))). -/
def logDraw (m : Nat) (e : Int) (a b : Nat) (q : Int) : Nat :=
  let lo := min e q
  let v := m * 2 ^ (e - lo).toNat
  let u := 2 ^ (q - lo).toNat
  65536 * (v - a * u) / ((b - a) * u)

/-- The log midpoint test m * 2^e > 2^(num / den) as m^den * 2^(e * den) > 2^num (R300). -/
def aboveMid (m : Nat) (e : Int) (num : Int) (den : Nat) : Bool :=
  let k := num - e * den
  if k < 0 then m != 0 else decide (m ^ den > 2 ^ k.toNat)

/-- The LNS16 code of a finite nonzero (-1)^s * m * 2^e (R298). -/
def toLns (mode : Rnd) (r : Nat) (s : Bool) (m : Nat) (e : Int) : Nat :=
  let sg := b1 s * 32768
  if geDyad m e (lin16 0x7FFF) (-87) then (if mode == .zero then sg + 0x7FFE else sg + 0x7FFF)
  else
    let l := logFind lin16 (-87) 0x7FFF m e 15 0
    let up := match mode with
      | .zero => false
      | .near => aboveMid m e (2 * (l : Int) + 1 - 32768) 512
      | .stoch => decide (r < logDraw m e (lin16 l) (lin16 (l + 1)) (-87))
    let c := l + b1 up
    if c = 0 then 0 else sg + c

/-- The BLNS8 code of a finite nonzero quotient (R299). -/
def toBlns (mode : Rnd) (r : Nat) (s : Bool) (m : Nat) (e : Int) : Nat :=
  let sg := b1 s * 128
  if geDyad m e (lin8 127) (-31) then sg + 127
  else
    let l := logFind lin8 (-31) 127 m e 7 0
    let up := match mode with
      | .zero => false
      | .near => aboveMid m e (2 * (l : Int) + 1 - 128) 16
      | .stoch => decide (r < logDraw m e (lin8 l) (lin8 (l + 1)) (-31))
    let c := l + b1 up
    if c = 0 then 0 else sg + c

/-! ## Conversion of an element -/

/-- A value encoded in a format that has no block (R244, R272, R284, R291): an IEEE format or LNS16. -/
def encodeElem (strict : Bool) (mode : Rnd) (r : Nat) (f : Fmt) (v : FVal) : Nat :=
  match f.ieee with
  | some g =>
    match v with
    | .nan _ _ => g.qnan
    | .inf s => g.signBit s + g.infBits
    | .num s m e => (roundF strict mode r g s m e false).bits
  | none =>
    match v with
    | .nan _ _ => 0x8000
    | .inf s => 0x7FFF + b1 s * 32768
    | .num s m e => if m = 0 then 0 else toLns mode r s m e

/-- The code of a quotient in a block-scaled format, saturated (R262). -/
def encodeBlockElem (mode : Rnd) (r : Nat) (f : Fmt) (s : Bool) (m : Nat) (e : Int) : Nat :=
  match f with
  | .mxint8 =>
    let n := min 127 (roundAt mode r m (e + 6) 0 false).1
    if s then (256 - n) % 256 else n
  | .blns8 => if m = 0 then 0 else toBlns mode r s m e
  | _ =>
    match f.mx with
    | none => 0
    | some (eb, mb, bias) =>
      let sg := b1 s * 2 ^ (eb + mb)
      if m = 0 then sg
      else
        let emin : Int := 1 - bias
        let l : Int := (flog2 m : Int) + e
        let q := max (l - mb) (emin - mb)
        let n := (roundAt mode r m e q false).1
        let g : FFmt := { eb := eb, mb := mb }
        let mag :=
          if n = 0 then 0
          else
            let l' : Int := (flog2 n : Int) + q
            if l' < emin then (cutAt n q (emin - mb)).1
            else (l' + bias).toNat * 2 ^ g.mb + ((cutAt n q (l' - mb)).1 - 2 ^ g.mb)
        sg + min mag f.maxCode

/-- The exponent of the largest magnitude of a block: none where all are zero. -/
def blockLog : List FVal → Option Int
  | [] => none
  | v :: t =>
    let x := match v with
      | .num _ m e => if m = 0 then none else some ((flog2 m : Int) + e)
      | _ => none
    match x, blockLog t with
    | none, y => y
    | x, none => x
    | some a, some b => some (max a b)

/-- A block of values in a block-scaled format: its codes and its scale byte (R262). `rs` holds one draw for each element. -/
def encodeBlock (mode : Rnd) (rs : List Nat) (f : Fmt) (vs : List FVal) : List Nat × Nat :=
  if vs.any (fun v => match v with | .num _ _ _ => false | _ => true) then (vs.map (fun _ => 0), 255)
  else
    match blockLog vs with
    | none => (vs.map (fun v => match f.mx with | some (eb, mb, _) => b1 (signV v) * 2 ^ (eb + mb) | none => 0), 0)
    | some l =>
      let x := min (max (l - f.blockEmax) (-127)) 127
      ((vs.zip rs).map (fun p => match p.1 with
        | .num s m e => encodeBlockElem mode p.2 f s m (e - x)
        | _ => 0), (x + 127).toNat)

end Sys2Proof.Machine
end

