-- ==== Sys2Proof/Machine/Mma.lean ====
section
/-! DEFINITION. The arithmetic of the matrix engine (R225 to R240, R277 to R279, R294 to R297): products, steps, cells, readout and tile conversion, on plain numbers. -/

namespace Sys2Proof.Machine

/-! ## Cycle counts and depths -/

/-- The depth k of a format: the elements of a step (R226). -/
def Fmt.depth : Fmt → Nat
  | .fp64 | .fp32 => 1
  | .bf16 | .fp16 | .lns16 => 4
  | .e2m1 => 16
  | _ => 8

/-- The cycle count n of an MMA (R228). -/
def mmaCycles (f : Fmt) (k : Nat) (strict : Bool) : Nat :=
  match f with
  | .fp64 => (if strict then 8 else 4) * k
  | .fp32 => (if strict then 2 else 1) * k
  | _ => ceilDiv k f.depth

/-- The type an MMA's accumulator must have (R213). -/
def Fmt.accTy : Fmt → AccTy
  | .fp64 => .fp64
  | .int8 | .mxint8 => .int32
  | _ => .fp32

/-! ## Products -/

/-- The product of two values: NaN for 0 times infinity, exact otherwise (R235, R295). -/
def prodV : FVal → FVal → FVal
  | .nan _ _, _ => .nan false 0
  | _, .nan _ _ => .nan false 0
  | .inf s, .inf s' => .inf (s != s')
  | .inf s, .num s' m _ => if m = 0 then .nan false 0 else .inf (s != s')
  | .num s m _, .inf s' => if m = 0 then .nan false 0 else .inf (s != s')
  | .num s m e, .num s' m' e' => .num (s != s') (m * m') (e + e')

/-- The product of two LNS16 codes (R277, R279). -/
def prodLns (a b : Nat) : FVal :=
  let la := a % 32768
  let lb := b % 32768
  let sg := bitOf a 15 != bitOf b 15
  match lnsValue a, lnsValue b with
  | .num _ ma _, .num _ mb _ =>
    if ma = 0 ∨ mb = 0 then .num false 0 0
    else .num sg (t16 ((la + lb) % 256)) (((la + lb) / 256 : Nat) - 128 - 23)
  | x, y => prodV x y

/-- The product of two BLNS8 codes with their block scales (R278, R279). -/
def prodBlns (a sa b sb : Nat) : FVal :=
  if sa = 255 ∨ sb = 255 then .nan false 0
  else
    match blnsValue a, blnsValue b with
    | .num _ ma _, .num _ mb _ =>
      let l := a % 128 + b % 128
      if ma = 0 ∨ mb = 0 then .num false 0 0
      else .num (bitOf a 7 != bitOf b 7) (t8 (l % 8)) (((l / 8 + sa + sb : Nat) : Int) - 16 - 254 - 23)
    | _, _ => .nan false 0

/-- A row of a tile: its 64 data bytes and its 4 scale bytes, as numbers. -/
structure TRow where
  data : Nat
  scale : Nat
  deriving DecidableEq, Repr

/-- The scale byte of the block that holds element `k` (R203). -/
def TRow.scaleOf (r : TRow) (k : Nat) : Nat := fld r.scale (8 * (k / 32)) 8

/-- Product `k` of a row of A and a row of B, in a floating or logarithmic format (R235, R236). -/
def prodAt (strict : Bool) (f : Fmt) (a b : TRow) (k : Nat) : FVal :=
  let x := elemOf f a.data k
  let y := elemOf f b.data k
  match f with
  | .lns16 => prodLns x y
  | .blns8 => prodBlns x (a.scaleOf k) y (b.scaleOf k)
  | _ => prodV (elemValue strict f x (a.scaleOf k)) (elemValue strict f y (b.scaleOf k))

/-! ## Steps of a dot product -/

/-- The exponent of a finite nonzero term. -/
def termLog : FVal → Option Int
  | .num _ m e => if m = 0 then none else some ((flog2 m : Int) + e)
  | _ => none

/-- Emax of R294 over the terms. -/
def termMax (l : List FVal) : Option Int := l.foldl (fun acc v => match acc, termLog v with
  | none, y => y
  | x, none => x
  | some a, some b => some (max a b)) none

/-- A term truncated toward zero to a multiple of 2^q, in units of 2^q (R294). -/
def termAt (q : Int) : FVal → Int
  | .num s m e => (if s then -1 else 1) * ((cutAt m e q).1 : Int)
  | _ => 0

/-- Is the value a zero of sign 1? -/
def isNegZero : FVal → Bool
  | .num s m _ => s && m == 0
  | _ => false

/-- One step of R227: the running value and the products of a group, as FP32 bits (R294 to R296). -/
def mmaStep (strict : Bool) (acc : Nat) (prods : List FVal) : Nat :=
  let add := readF strict Machine.fp32 acc
  let all := add :: prods
  if all.any isNan then Machine.fp32.qnan
  else if all.any (fun v => v == .inf false) && all.any (fun v => v == .inf true) then Machine.fp32.qnan
  else if all.any (fun v => v == .inf false) then Machine.fp32.infBits
  else if all.any (fun v => v == .inf true) then Machine.fp32.signBit true + Machine.fp32.infBits
  else
    let z := Machine.fp32.signBit (strict && isNegZero add && prods.all isNegZero)
    match termMax all with
    | none => z
    | some l =>
      let q := l - 60
      let x := (all.map (termAt q)).foldl (· + ·) 0
      if x = 0 then z
      else (roundF strict .near 0 Machine.fp32 (decide (x < 0)) x.natAbs q false).bits

/-- Element `i` of a list taken out. -/
def takeOut (i : Nat) : List FVal → Option FVal × List FVal
  | [] => (none, [])
  | x :: t => match i with
    | 0 => (some x, t)
    | j + 1 => match takeOut j t with
      | (y, u) => (y, x :: u)

/-- `n` elements taken out of a list in an unspecified choice. -/
def takeSome (seed : Nat) : Nat → Nat → List FVal → List FVal × List FVal
  | 0, _, l => ([], l)
  | n + 1, at_, l =>
    match takeOut (Config.fastPick seed at_ % l.length) l with
    | (none, u) => ([], u)
    | (some x, u) => match takeSome seed n (at_ + 1) u with
      | (g, v) => (x :: g, v)

/-- The steps of FAST: groups of any size in any order (R227, R282), as many as there are products at most. -/
def fastSteps (seed : Nat) : Nat → Nat → Nat → List FVal → Nat
  | 0, _, acc, _ => acc
  | n + 1, at_, acc, l =>
    if l.isEmpty then acc
    else
      let g := 1 + Config.fastPick seed at_ % l.length
      match takeSome seed g (at_ + 1) l with
      | (grp, rest) => fastSteps seed n (at_ + 1 + g) (mmaStep false acc grp) rest

/-- The steps of STRICT: groups of `d` in ascending order (R227). -/
def strictSteps (d : Nat) : Nat → Nat → List FVal → Nat
  | 0, acc, _ => acc
  | n + 1, acc, l => if l.isEmpty then acc else strictSteps d n (mmaStep true acc (l.take d)) (l.drop d)

/-- Is the exact sum of two values zero? -/
def zeroSum : FVal → FVal → Bool
  | .num s m e, .num s' m' e' => (addNum s m e s' m' e').2.1 == 0
  | _, _ => false

/-- One rounded addition of the FAST form of MMA.FP32 and MMA.FP64 (R237, R297); an exact zero is +0 (R282). -/
def fastAdd (f : FFmt) (a b : FVal) : FVal :=
  if zeroSum a b then .num false 0 0
  else readF false f (fmaV false .near 0 f false false a fOne b).bits

/-- FAST sum of the exact products and the addend: any two are added until one is left (R237). -/
def fastTree (f : FFmt) (seed : Nat) : Nat → Nat → List FVal → FVal
  | 0, _, l => l.headD (.num false 0 0)
  | n + 1, at_, l =>
    match takeSome seed 2 at_ l with
    | ([a, b], rest) => fastTree f seed n (at_ + 2) (fastAdd f a b :: rest)
    | (a :: _, _) => a
    | ([], _) => .num false 0 0

/-- The encoding of a value a format holds exactly; a zero takes its sign. -/
def packV (f : FFmt) : FVal → Nat
  | .nan _ _ => f.qnan
  | .inf s => f.signBit s + f.infBits
  | .num s m e => (roundF true .near 0 f s m e false).bits

/-- A cell of MMA.FP32 or MMA.FP64 (R237). -/
def cellWide (strict : Bool) (g : FFmt) (f : Fmt) (seed k acc : Nat) (a b : TRow) : Nat :=
  if strict then
    (List.range k).foldl (fun c i =>
      let r := fmaV true .near 0 g false false (unpack g (elemOf f a.data i)) (unpack g (elemOf f b.data i)) (unpack g c)
      if isNan (unpack g r.bits) then g.qnan else r.bits) acc
  else
    packV g (fastTree g seed k 0 (readF false g acc :: (List.range k).map (prodAt false f a b)))

/-- The sum of the signed products of a group of MMA.INT8 and MMA.MXINT8. -/
def intDot (a b : TRow) (from_ n : Nat) : Int :=
  (List.range n).foldl (fun x i => x + sInt 8 (fld a.data (8 * (from_ + i)) 8) * sInt 8 (fld b.data (8 * (from_ + i)) 8)) 0

/-- What a group of MMA.MXINT8 adds (R239, R240). -/
def mxGroup (a b : TRow) (from_ n : Nat) : Int :=
  let sa := a.scaleOf from_
  let sb := b.scaleOf from_
  if sa = 255 ∨ sb = 255 then 0
  else
    let p := intDot a b from_ n
    let e : Int := (sa : Int) + sb - 254
    if e ≥ 0 then (if e ≥ 32 then 0 else p * 2 ^ e.toNat) else p / 2 ^ (-e).toNat

/-- The new bits of a cell (R227, R237 to R239): 64 bits for FP64, else 32. -/
def mmaCell (strict : Bool) (f : Fmt) (seed k acc : Nat) (a b : TRow) : Nat :=
  match f with
  | .fp64 => cellWide strict Machine.fp64 f seed k acc a b
  | .fp32 => cellWide strict Machine.fp32 f seed k acc a b
  | .int8 => (BitVec.ofInt 32 ((acc : Int) + intDot a b 0 k)).toNat
  | .mxint8 => (BitVec.ofInt 32 ((List.range (ceilDiv k 8)).foldl (fun x g => x + mxGroup a b (8 * g) 8) (acc : Int))).toNat
  | _ =>
    let ps := (List.range k).map (prodAt strict f a b)
    if strict then strictSteps f.depth (ceilDiv k f.depth) acc ps else fastSteps seed k 0 acc ps

/-- The cells of an MMA: for every row i of A and row j of B, its index 16i + j and its new bits (R204). -/
def mmaCells (strict : Bool) (f : Fmt) (seed k : Nat) (as bs : List TRow) (acc : Nat → Nat) : List (Nat × Nat) :=
  ((List.range as.length).zip as).flatMap (fun pa =>
    ((List.range bs.length).zip bs).map (fun pb =>
      let c := 16 * pa.1 + pb.1
      (c, mmaCell strict f (seed * 256 + c) k (acc c) pa.2 pb.2)))

/-- The blocks of a row with scale 0xFF (R240). -/
def nanBlocks (f : Fmt) (rb : Nat) (rows : List TRow) : Nat :=
  if f.block then
    (rows.map (fun r => ((List.range (rb / f.blockBytes)).filter (fun b => fld r.scale (8 * b) 8 == 255)).length)).foldl (· + ·) 0
  else 0

/-! ## Readout (R214 to R216) -/

/-- How an accumulator is read out: first column, columns, element bits, row bytes, and whether it rounds (R214, R287). None: TILE_SHAPE. -/
structure Readout where
  col : Nat
  cols : Nat
  bits : Nat
  rowBytes : Nat
  rounds : Bool
  deriving DecidableEq, Repr

def readoutOf (ty : AccTy) (f : Fmt) (half : Bool) : Option Readout :=
  match ty, f with
  | .fp32, .fp32 => some { col := 0, cols := 16, bits := 32, rowBytes := 64, rounds := false }
  | .fp32, .bf16 | .fp32, .fp16 | .fp32, .lns16 => some { col := 0, cols := 16, bits := 16, rowBytes := 32, rounds := true }
  | .int32, .fp32 => some { col := 0, cols := 16, bits := 32, rowBytes := 64, rounds := false }
  | .int32, .int8 => some { col := 0, cols := 16, bits := 8, rowBytes := 16, rounds := false }
  | .fp64, .fp64 => some { col := 8 * b1 half, cols := 8, bits := 64, rowBytes := 64, rounds := false }
  | .fp64, .fp32 => some { col := 8 * b1 half, cols := 8, bits := 32, rowBytes := 32, rounds := true }
  | _, _ => none

/-- One element read out of an accumulator (R214): FAST reads a subnormal source as zero (R282), every NaN becomes canonical (R291). -/
def readoutElem (strict : Bool) (mode : Rnd) (r : Nat) (ty : AccTy) (f : Fmt) (x : Nat) : Nat :=
  match ty with
  | .int32 =>
    match f with
    | .int8 => (BitVec.ofInt 8 (max (-128) (min 127 (sInt 32 x)))).toNat
    | _ => x
  | .fp32 => encodeElem strict mode r f (readF strict Machine.fp32 x)
  | .fp64 => encodeElem strict mode r f (readF strict Machine.fp64 x)

/-- `n` draws of the generator, in order, and its words after them (R286, R288). -/
def drawN : Nat → Word → Word → List Nat × Word × Word
  | 0, s0, s1 => ([], s0, s1)
  | n + 1, s0, s1 =>
    match srDraw s0 s1 with
    | (a, b, r) => match drawN n a b with
      | (l, x, y) => (r :: l, x, y)

/-- The 16 rows of a readout, as data of `rowBytes` bytes each; `rs` holds one draw for each element, rows ascending (R288). -/
def readoutRows (strict : Bool) (mode : Rnd) (rs : List Nat) (ty : AccTy) (f : Fmt) (o : Readout) (cell : Nat → Nat) : List Nat :=
  (List.range 16).map (fun i =>
    ofLanes o.bits ((List.range o.cols).map (fun j =>
      readoutElem strict mode (rs.getD (o.cols * i + j) 0) ty f (cell (16 * i + o.col + j)))))

/-! ## TCVT and TTR (R243 to R246) -/

/-- The row bytes that `k` elements need in a format. -/
def Fmt.bytesFor (f : Fmt) (k : Nat) : Nat := ceilDiv (k * f.bits) 8

/-- One row of TCVT: the values of its `k` elements encoded in `g`; `rs` holds one draw for each. -/
def cvtRow (strict : Bool) (mode : Rnd) (rs : List Nat) (f g : Fmt) (k : Nat) (row : TRow) : TRow :=
  let vs := (List.range k).map (fun j => elemValue strict f (elemOf f row.data j) (row.scaleOf j))
  if g.block then
    let blocks := (List.range (ceilDiv k 32)).map (fun b =>
      encodeBlock mode ((rs.drop (32 * b)).take 32) g ((vs.drop (32 * b)).take 32))
    { data := ofLanes g.bits (blocks.flatMap (fun b => b.1)), scale := ofLanes 8 (blocks.map (fun b => b.2)) }
  else
    { data := ofLanes g.bits ((vs.zip rs).map (fun p => encodeElem strict mode p.2 g p.1)), scale := 0 }

/-- The rows of TCVT, with the draws taken rows ascending (R288). -/
def cvtRows (strict : Bool) (mode : Rnd) (f g : Fmt) (k : Nat) : List Nat → List TRow → List TRow
  | _, [] => []
  | rs, r :: t => cvtRow strict mode (rs.take k) f g k r :: cvtRows strict mode f g k (rs.drop k) t

/-- The transpose of the first `m` rows of `k` elements (R246). -/
def transRows (f : Fmt) (k m : Nat) (rows : List TRow) : List TRow :=
  (List.range k).map (fun j =>
    { data := ofLanes f.bits ((rows.take m).map (fun r => elemOf f r.data j)), scale := 0 })

end Sys2Proof.Machine
end

