-- ==== Sys2Proof/Machine/Operands.lean ====
section
/-! DEFINITION. What the instructions compute, as functions of their operands: integers and bit fields (R120 to R129), atomics (R145, R146), lanes, masks, reductions and permutes (R147 to R163). -/

namespace Sys2Proof.Machine

/-! ## Scalar integers (R120 to R123) -/

/-- The shift count b[5:0] (R121). -/
def shiftCount (b : Word) : Nat := b.toNat % 64

def opShl (a b : Word) : Word := a <<< shiftCount b
def opShr (a b : Word) : Word := a >>> shiftCount b
def opSra (a b : Word) : Word := a.sshiftRight (shiftCount b)

/-- The high half of the product (R120). -/
def opMulh (unsigned : Bool) (a b : Word) : Word :=
  if unsigned then w64 (a.toNat * b.toNat / 2 ^ 64) else wInt (a.toInt * b.toInt / 2 ^ 64)

/-- DIV and DIVU, with the cases of the table (R122). -/
def opDiv (unsigned : Bool) (a b : Word) : Word :=
  if b = 0 then 0xFFFFFFFFFFFFFFFF
  else if unsigned then w64 (a.toNat / b.toNat)
  else wInt (a.toInt.tdiv b.toInt)

/-- REM and REMU (R122). -/
def opRem (unsigned : Bool) (a b : Word) : Word :=
  if b = 0 then a
  else if unsigned then w64 (a.toNat % b.toNat)
  else wInt (a.toInt.tmod b.toInt)

/-- BFX (R126). -/
def opBfx (a : Word) (pos len : Nat) (signed : Bool) : Word :=
  let f := fld a.toNat pos len
  if signed then signExt len f else w64 f

/-- BFI (R127). -/
def opBfi (d a : Word) (pos len : Nat) : Word := setFld d pos len (fld a.toNat 0 len)

/-- CLZ (R128). -/
def opClz (a : Word) : Word := w64 (if a = 0 then 64 else 63 - flog2 a.toNat)

/-- A byte of BPERM (R129). -/
def bpermByte (src : List Byte) (sel : Nat) : Byte :=
  let b := src.getD (sel % 16) 0
  if bitOf sel 7 then 0 else if bitOf sel 6 then (if bitOf b.toNat 7 then 0xFF else 0) else b

/-- BPERM (R129). -/
def opBperm (a b c : Word) : Word :=
  wordOf ((wordBytes c).map (fun s => bpermByte (wordBytes a ++ wordBytes b) s.toNat))

/-- MOVK: quarter `h` of d replaced (R98, R124). -/
def opMovk (d : Word) (h : Nat) (imm : BitVec 16) : Word := setFld d (16 * h) 16 imm.toNat

/-- The value of a load form, extended (R98, R136). -/
def extendLoad (f : LoadForm) (x : Nat) : Word :=
  match f with
  | .b => signExt 8 x
  | .bu => w64 (x % 2 ^ 8)
  | .h => signExt 16 x
  | .hu => w64 (x % 2 ^ 16)
  | .w => signExt 32 x
  | .wu => w64 (x % 2 ^ 32)
  | .d => w64 x

/-- The access size of a load form. -/
def loadSize : LoadForm → Nat
  | .b | .bu => 1
  | .h | .hu => 2
  | .w | .wu => 4
  | .d => 8

/-- The access size of a store form. -/
def storeSize : StoreForm → Nat
  | .b => 1
  | .h => 2
  | .w => 4
  | .d => 8

/-- The access size of an AMO form (R101). -/
def amoSize : AmoForm → Nat
  | .d => 8
  | .w => 4
  | .h => 2

/-- FADD of an atomic (R146): nearest even, subnormals kept, a canonical NaN. -/
def amoFadd (size x b : Nat) : Nat :=
  let f := if size = 8 then fp64 else if size = 4 then fp32 else bf16
  let r := fAdd true .near 0 f false x b
  if isNan (unpack f r.bits) then f.qnan else r.bits

/-- The new memory value of an atomic on `size` bytes (R101, R145); an operation the spec reserves stores nothing new. -/
def amoNew (op : Nat) (size : Nat) (x b c : Nat) : Nat :=
  let n := 8 * size
  let b := b % 2 ^ n
  let c := c % 2 ^ n
  match op with
  | 0 => (x + b) % 2 ^ n
  | 1 => x &&& b
  | 2 => x ||| b
  | 3 => x ^^^ b
  | 4 => b
  | 5 => if x = c then b else x
  | 6 => if sInt n x ≤ sInt n b then x else b
  | 7 => if sInt n x ≥ sInt n b then x else b
  | 8 => min x b
  | 9 => max x b
  | 10 => amoFadd size x b
  | _ => x

/-! ## Element types and lanes (R95, R118) -/

/-- The lane width of an element type; none where it is reserved (R95). -/
def laneWidth (t : Nat) : Option Nat :=
  match t with
  | 0 => some 16
  | 1 => some 32
  | 2 => some 64
  | 4 => some 32
  | 5 => some 64
  | 6 => some 16
  | _ => none

/-- Is the element type I16, I32 or I64? -/
def isIntType (t : Nat) : Bool := decide (t ≤ 2)

/-- The floating format of an element type. -/
def floatType (t : Nat) : Option FFmt :=
  match t with
  | 4 => some fp32
  | 5 => some fp64
  | 6 => some bf16
  | _ => none

/-- The floating format of a lane type (R105). -/
def fpFmt : FpFmt → FFmt
  | .d => fp64
  | .s => fp32
  | .bf => bf16

/-- The lanes of a vector at a width. -/
def lanes (w : Nat) (v : Vec) : List Nat := (List.range (512 / w)).map (lane w v)

/-- The lanes of a vector result under a lane mask (R104): data, and which bits are written; `zero` writes inactive lanes as zero. -/
def maskVec (vm : BitVec 32) (zero : Bool) (w : Nat) (l : List Nat) (n : Nat) : Vec × Vec :=
  let on := laneMask w (fun i => decide (i < n) && vm.getLsbD i)
  let v := lanesVec w l
  if zero then (v &&& on, ~~~(0 : Vec)) else (v, on)

/-- A mask result of `n` lanes under a lane mask (R148): bits, and which are written; bits at or above `n` are written as zero. -/
def maskBits (vm : BitVec 32) (zero : Bool) (n : Nat) (f : Nat → Bool) : BitVec 32 × BitVec 32 :=
  let bits := (List.range n).foldl (fun b i => if vm.getLsbD i && f i then b + 2 ^ i else b) 0
  let on := (List.range 32).foldl (fun b i => if n ≤ i ∨ vm.getLsbD i ∨ zero then b + 2 ^ i else b) 0
  (BitVec.ofNat 32 bits, BitVec.ofNat 32 on)

/-- The two's-complement integer of a lane. -/
def laneInt (w x : Nat) : Int := sInt w x

/-- The shift count of a lane: the low log2(w) bits (R150). -/
def laneShift (w b : Nat) : Nat := b % w

def laneShl (w a b : Nat) : Nat := a * 2 ^ laneShift w b % 2 ^ w
def laneShr (w a b : Nat) : Nat := a / 2 ^ laneShift w b
def laneSra (w a b : Nat) : Nat := (laneInt w a / 2 ^ laneShift w b % 2 ^ w).toNat

/-- The lane operation of opcodes 0x01 to 0x08 (R105, R150). -/
def laneInt2 (op w a b : Nat) : Nat :=
  match op with
  | 1 => (a + b) % 2 ^ w
  | 2 => (a + 2 ^ w - b) % 2 ^ w
  | 3 => a &&& b
  | 4 => a ||| b
  | 5 => a ^^^ b
  | 6 => laneShl w a b
  | 7 => laneShr w a b
  | _ => laneSra w a b

/-- The lane compare of opcodes 0x0B to 0x0D (R105, R150). -/
def laneCmp (op w a b : Nat) : Bool :=
  match op with
  | 0x0B => a == b
  | 0x0C => decide (laneInt w a < laneInt w b)
  | _ => decide (a < b)

/-- The operation of VMOP (R105, R149). -/
def opVmop (op : Nat) (a b : BitVec 32) : BitVec 32 :=
  match op with
  | 0 => a &&& b
  | 1 => a ||| b
  | 2 => a ^^^ b
  | 3 => a &&& ~~~b
  | _ => ~~~a

/-! ## Permutes and reductions (R157 to R161) -/

/-- VPERM at a lane width (R161). -/
def permLanes (w : Nat) (a b : Vec) : List Nat :=
  let n := 512 / w
  (lanes w b).map (fun j => if bitOf j (flog2 n) then 0 else lane w a (j % n))

/-- The pairs of adjacent elements of a list combined (R158). -/
def pairUp {α : Type} (f : α → α → α) : List α → List α
  | x :: y :: t => f x y :: pairUp f t
  | l => l

/-- The binary tree of R158, level by level, over 2^n leaves. -/
def treeFold {α : Type} (f : α → α → α) : Nat → List α → List α
  | 0, l => l
  | n + 1, l => treeFold f n (pairUp f l)

/-- The value of an inactive lane in an integer reduction, and of one with no active lane (R159). -/
def redIdentity (op w : Nat) : Nat :=
  match op with
  | 1 => 2 ^ (w - 1) - 1
  | 2 => 2 ^ (w - 1)
  | 3 => 2 ^ w - 1
  | _ => 0

/-- An integer reduction step (R157). -/
def redInt (op w a b : Nat) : Nat :=
  match op with
  | 0 => (a + b) % 2 ^ w
  | 1 => if laneInt w a ≤ laneInt w b then a else b
  | 2 => if laneInt w a ≥ laneInt w b then a else b
  | 3 => a &&& b
  | 4 => a ||| b
  | _ => a ^^^ b

/-- A floating reduction with the flags it sets and the generator's words (R158): each step a result, its flags and the state of the draws. -/
structure RedState where
  fl : Flags
  s0 : Word
  s1 : Word
  deriving DecidableEq, Repr

/-- One level of a floating sum: pairs in order, each with its draw (R158, R287, R288). -/
def sumLevel (strict : Bool) (mode : Rnd) (f : FFmt) : RedState → List Nat → List Nat × RedState
  | st, x :: y :: t =>
    match (if mode = .stoch then srDraw st.s0 st.s1 else (st.s0, st.s1, 0)) with
    | (s0, s1, r) =>
      let v := fAdd strict mode r f false x y
      match sumLevel strict mode f { fl := st.fl ||| v.fl, s0 := s0, s1 := s1 } t with
      | (l, st) => (v.bits :: l, st)
  | st, l => (l, st)

/-- The tree of a floating sum. -/
def sumTree (strict : Bool) (mode : Rnd) (f : FFmt) : Nat → RedState → List Nat → List Nat × RedState
  | 0, st, l => (l, st)
  | n + 1, st, l => match sumLevel strict mode f st l with
    | (l, st) => sumTree strict mode f n st l

/-- One level of a floating MIN or MAX, with its flags. -/
def minLevel (strict isMax : Bool) (f : FFmt) : Flags → List Nat → List Nat × Flags
  | fl, x :: y :: t =>
    let v := fMinMax strict isMax f x y
    match minLevel strict isMax f (fl ||| v.fl) t with
    | (l, fl) => (v.bits :: l, fl)
  | fl, l => (l, fl)

/-- The tree of a floating MIN or MAX. -/
def minTree (strict isMax : Bool) (f : FFmt) : Nat → Flags → List Nat → List Nat × Flags
  | 0, fl, l => (l, fl)
  | n + 1, fl, l => match minLevel strict isMax f fl l with
    | (l, fl) => minTree strict isMax f n fl l

/-! ## Lanes that round (R152 to R154, R288) -/

/-- One draw of the generator where `on` holds. -/
def stepDraw (on : Bool) (st : RedState) : Nat × RedState :=
  if on then
    match srDraw st.s0 st.s1 with
    | (a, b, r) => (r, { st with s0 := a, s1 := b })
  else (0, st)

/-- Lanes `i` to `i + n - 1` computed in ascending order: an inactive lane computes nothing, raises no flag and draws nothing (R147, R287, R288). -/
def runLanes (act : Nat → Bool) (draws : Bool) (f : Nat → Nat → FRes) : Nat → Nat → RedState → List Nat × RedState
  | 0, _, st => ([], st)
  | n + 1, i, st =>
    if act i then
      match stepDraw draws st with
      | (r, st) =>
        let v := f i r
        match runLanes act draws f n (i + 1) { st with fl := st.fl ||| v.fl } with
        | (l, st) => (v.bits :: l, st)
    else
      match runLanes act draws f n (i + 1) st with
      | (l, st) => (0 :: l, st)

/-- A floating lane operation (R105, R152): 0 VFADD, 1 VFMUL, 2 VFMA, 3 VMIN, 4 VMAX. -/
def laneFp (op : Nat) (strict : Bool) (mode : Rnd) (f : FFmt) (neg : Bool) (a b c r : Nat) : FRes :=
  match op with
  | 0 => fAdd strict mode r f neg a b
  | 1 => fMul strict mode r f false a b
  | 2 => fFma strict mode r f false false a b c
  | 3 => fMinMax strict false f a b
  | _ => fMinMax strict true f a b

/-- The active lanes of a floating operation. -/
def fpLanes (op : Nat) (strict : Bool) (mode : Rnd) (f : FFmt) (neg : Bool) (act : Nat → Bool) (a b c : Vec) (st : RedState) : List Nat × RedState :=
  let w := f.width
  runLanes act (decide (op ≤ 2 ∧ mode = .stoch)) (fun i r => laneFp op strict mode f neg (lane w a i) (lane w b i) (lane w c i) r) (512 / w) 0 st

/-- The lanes of VFCMP with the flags of the active ones (R133, R152). -/
def cmpLanes (strict : Bool) (f : FFmt) (cond : Nat) (act : Nat → Bool) (a b : Vec) (st : RedState) : List Bool × RedState :=
  let w := f.width
  match runLanes act false (fun i _ =>
      let v := fCmp strict f cond (lane w a i) (lane w b i)
      { bits := b1 v.1, fl := v.2 }) (512 / w) 0 st with
  | (l, st) => (l.map (fun x => x == 1), st)

/-! ## Conversions (R100, R134, R135, R155) -/

/-- FCVT by its code: the result and its width in bits (R100). -/
def opFcvt (strict : Bool) (mode : Rnd) (r code : Nat) (a : Word) : FRes :=
  match code with
  | 0 => fCvt strict mode r fp32 fp64 (a.toNat % 2 ^ 32)
  | 1 => fCvt strict mode r fp64 fp32 a.toNat
  | 2 => fromInt strict mode r fp64 a.toInt
  | 3 => fromInt strict mode r fp64 a.toNat
  | 4 => fromInt strict mode r fp32 a.toInt
  | 5 => toInt strict mode r fp64 true 64 a.toNat
  | 6 => toInt strict mode r fp64 false 64 a.toNat
  | _ => toInt strict mode r fp32 true 64 (a.toNat % 2 ^ 32)

/-- Does a pair of VCVT types round, and so draw under stochastic rounding (R155, R287)? -/
def cvtRounds (src dst : Nat) : Bool := src != dst && !(isIntType src && isIntType dst)

/-- One lane of VCVT (R155). -/
def cvtLane (strict : Bool) (mode : Rnd) (r src dst x : Nat) : FRes :=
  let ws := (laneWidth src).getD 64
  let wd := (laneWidth dst).getD 64
  if src = dst then { bits := x }
  else
    match floatType src, floatType dst with
    | none, none => { bits := (laneInt ws x % 2 ^ wd).toNat }
    | none, some g => fromInt strict mode r g (laneInt ws x)
    | some f, none => toInt strict mode r f true wd x
    | some f, some g => fCvt strict mode r f g x

/-- The lanes that VCVT converts (R156). -/
def cvtCount (src dst : Nat) : Nat := min (512 / (laneWidth src).getD 64) (512 / (laneWidth dst).getD 64)

/-- The lanes of VCVT (R155, R156). -/
def cvtLanes (strict : Bool) (mode : Rnd) (src dst : Nat) (act : Nat → Bool) (a : Vec) (st : RedState) : List Nat × RedState :=
  runLanes act (cvtRounds src dst && decide (mode = .stoch))
    (fun i r => cvtLane strict mode r src dst (lane ((laneWidth src).getD 64) a i)) (cvtCount src dst) 0 st

/-! ## VRED (R157 to R160) -/

/-- The value of a floating reduction of `op` (0 SUM, 1 MIN, 2 MAX) over the active lanes (R158, R159). A SUM with no active lane adds nothing and takes no draw
(R287) (log 89, DESIGN CHOICE). -/
def redFloat (op : Nat) (strict : Bool) (mode : Rnd) (f : FFmt) (act : Nat → Bool) (a : Vec) (st : RedState) : Nat × RedState :=
  let w := f.width
  let n := 512 / w
  let depth := flog2 n
  if (List.range n).any act then
    if op = 0 then
      match sumTree strict mode f depth st ((List.range n).map (fun i => if act i then lane w a i else f.signBit true)) with
      | (l, st) => (l.getD 0 0, st)
    else
      let idle := if op = 1 then f.infBits else f.infBits + f.signBit true
      match minTree strict (decide (op = 2)) f depth st.fl ((List.range n).map (fun i => if act i then lane w a i else idle)) with
      | (l, fl) => (l.getD 0 0, { st with fl := fl })
  else (if op = 0 then 0 else if op = 1 then f.infBits else f.infBits + f.signBit true, st)

/-- The value of an integer reduction over the active lanes (R157, R159). -/
def redLanes (op w : Nat) (act : Nat → Bool) (a : Vec) : Nat :=
  (List.range (512 / w)).foldl (fun x i => if act i then redInt op w x (lane w a i) else x) (redIdentity op w)

end Sys2Proof.Machine
end

