-- ==== Sys2Proof/Machine/Scalar.lean ====
section
/-! DEFINITION. The arithmetic of the S slot (R97 to R100, R117 to R135): each instruction as the core issues it, and its command. -/

namespace Sys2Proof.Machine

/-! ## Shapes -/

/-- A slot of the S slot with its sources and destinations (R92, R97). -/
def sSlot (i : Issue) (srcs dsts : List Spec) : SlotDef :=
  { slot := .s, guard := i.guard, illegal := specCheck srcs dsts, sregs := regsOf (srcs ++ dsts), wins := winsOf (srcs.map (fun r => (r, 1))) }

/-- The registers of a last operand. -/
def regImmRegs : RegImm → List Spec
  | .reg b => [b]
  | .imm _ => []

/-- The value of a last operand (R98): the immediate is sign-extended. -/
def regImmVal (b : RegImm) (k : Iss) : Word :=
  match b with
  | .reg r => k.s .s r
  | .imm v => imm16 v

/-- A scalar result that lands `n` cycles after issue. -/
def landS (k : Iss) (m : Mod) (n : Nat) (d : Spec) (v : Word) : Mod := land m k.th k.cyc n .s k.pc (.s d.toNat v)

/-- A predicate result; bits [2:0] of the field name it (R123). -/
def landP (k : Iss) (m : Mod) (n : Nat) (d : Spec) (v : Bool) : Mod := land m k.th k.cyc n .s k.pc (.p (d.toNat % 8) v)

/-- The flags of a result under STRICT mode (R58). The spec gives no cycle in which they become visible in cr.arith: they land with the result (log 110, DESIGN CHOICE). -/
def landFl (k : Iss) (m : Mod) (n : Nat) (slot : Slot) (fl : Flags) : Mod :=
  if k.x.strict && fl != 0 then land m k.th k.cyc n slot k.pc (.flags fl) else m

/-- A draw of the thread's generator where the mode is stochastic (R286 to R288) (log 14, DEDUCED). -/
def drawOne (m : Mod) (th : Nat) (mode : Rnd) : Mod × Nat :=
  if mode = .stoch then
    match srDraw (ctx m th).sr0 (ctx m th).sr1 with
    | (a, b, r) => (setCtx m th (fun x => { x with sr0 := a, sr1 := b }), r)
  else (m, 0)

/-- A two-operand integer instruction of latency `n`. -/
def intDef (i : Issue) (d a : Spec) (b : RegImm) (n : Nat) (f : Word → Word → Word) : SlotDef :=
  { sSlot i (a :: regImmRegs b) [d] with eff := fun k m => landS k m n d (f (k.s .s a) (regImmVal b k)) }

/-- A compare into a predicate (R123). -/
def cmpDef (i : Issue) (d a : Spec) (b : RegImm) (f : Word → Word → Bool) : SlotDef :=
  { sSlot i (a :: regImmRegs b) [] with eff := fun k m => landP k m 1 d (f (k.s .s a) (regImmVal b k)) }

/-- The format of a scalar floating-point instruction. -/
def dblFmt (dbl : Bool) : FFmt := if dbl then fp64 else fp32

/-- The operand of a scalar floating-point instruction: FP32 ignores bits [63:32] (R117). -/
def fpBits (dbl : Bool) (x : Word) : Nat := if dbl then x.toNat else x.toNat % 2 ^ 32

/-- A rounded floating-point result into a scalar register (R117, R130). -/
def fpDef (i : Issue) (d : Spec) (srcs : List Spec) (m : BitVec 4) (n : Nat) (f : Bool → Rnd → Nat → Iss → FRes) : SlotDef :=
  { sSlot i srcs [d] with
    eff := fun k md =>
      let mode := rndCode (BitVec.ofNat 2 (m.toNat / 4)) k.x.rnd
      match drawOne md k.th mode with
      | (md, r) =>
        let v := f k.x.strict mode r k
        landFl k (landS k md n d (w64 v.bits)) n .s v.fl }

/-! ## NOP -/

def defNop (i : Issue) (slot : Slot) : SlotDef := { slot := slot, guard := i.guard }
/-- NOP (R88). -/
def execNop (i : Issue) (slot : Slot) (s : State) := issueSlot s i (.nop i slot) (defNop i slot)

/-! ## Integer arithmetic (R120, R121) -/

def defAdd (i : Issue) (d a : Spec) (b : RegImm) : SlotDef := intDef i d a b 1 (fun x y => x + y)
/-- ADD, ADDI. -/
def execAdd (i : Issue) (d a : Spec) (b : RegImm) (s : State) := issueSlot s i (.add i d a b) (defAdd i d a b)
def defSub (i : Issue) (d a b : Spec) : SlotDef := intDef i d a (.reg b) 1 (fun x y => x - y)
/-- SUB. -/
def execSub (i : Issue) (d a b : Spec) (s : State) := issueSlot s i (.sub i d a b) (defSub i d a b)
def defAnd (i : Issue) (d a : Spec) (b : RegImm) : SlotDef := intDef i d a b 1 (fun x y => x &&& y)
/-- AND, ANDI. -/
def execAnd (i : Issue) (d a : Spec) (b : RegImm) (s : State) := issueSlot s i (.and i d a b) (defAnd i d a b)
def defOr (i : Issue) (d a : Spec) (b : RegImm) : SlotDef := intDef i d a b 1 (fun x y => x ||| y)
/-- OR, ORI. -/
def execOr (i : Issue) (d a : Spec) (b : RegImm) (s : State) := issueSlot s i (.or i d a b) (defOr i d a b)
def defXor (i : Issue) (d a : Spec) (b : RegImm) : SlotDef := intDef i d a b 1 (fun x y => x ^^^ y)
/-- XOR, XORI. -/
def execXor (i : Issue) (d a : Spec) (b : RegImm) (s : State) := issueSlot s i (.xor i d a b) (defXor i d a b)
def defShl (i : Issue) (d a : Spec) (b : RegImm) : SlotDef := intDef i d a b 1 opShl
/-- SHL, SHLI. -/
def execShl (i : Issue) (d a : Spec) (b : RegImm) (s : State) := issueSlot s i (.shl i d a b) (defShl i d a b)
def defShr (i : Issue) (d a : Spec) (b : RegImm) : SlotDef := intDef i d a b 1 opShr
/-- SHR, SHRI. -/
def execShr (i : Issue) (d a : Spec) (b : RegImm) (s : State) := issueSlot s i (.shr i d a b) (defShr i d a b)
def defSra (i : Issue) (d a : Spec) (b : RegImm) : SlotDef := intDef i d a b 1 opSra
/-- SRA, SRAI. -/
def execSra (i : Issue) (d a : Spec) (b : RegImm) (s : State) := issueSlot s i (.sra i d a b) (defSra i d a b)
def defMul (i : Issue) (d a b : Spec) : SlotDef := intDef i d a (.reg b) 3 (fun x y => x * y)
/-- MUL. -/
def execMul (i : Issue) (d a b : Spec) (s : State) := issueSlot s i (.mul i d a b) (defMul i d a b)
def defMulh (i : Issue) (u : Bool) (d a b : Spec) : SlotDef := intDef i d a (.reg b) 3 (opMulh u)
/-- MULH, MULHU. -/
def execMulh (i : Issue) (u : Bool) (d a b : Spec) (s : State) := issueSlot s i (.mulh i u d a b) (defMulh i u d a b)
def defDiv (i : Issue) (u : Bool) (d a b : Spec) : SlotDef := intDef i d a (.reg b) 20 (opDiv u)
/-- DIV, DIVU (R122). -/
def execDiv (i : Issue) (u : Bool) (d a b : Spec) (s : State) := issueSlot s i (.div i u d a b) (defDiv i u d a b)
def defRem (i : Issue) (u : Bool) (d a b : Spec) : SlotDef := intDef i d a (.reg b) 20 (opRem u)
/-- REM, REMU (R122). -/
def execRem (i : Issue) (u : Bool) (d a b : Spec) (s : State) := issueSlot s i (.rem i u d a b) (defRem i u d a b)

/-! ## Moves (R98, R124) -/

def defMov (i : Issue) (d : Spec) (src : MovSrc) : SlotDef :=
  match src with
  | .reg a => { sSlot i [a] [d] with eff := fun k m => landS k m 1 d (k.s .s a) }
  | .imm v => { sSlot i [] [d] with eff := fun k m => landS k m 1 d (v.signExtend 64) }
/-- MOV, MOVI. -/
def execMov (i : Issue) (d : Spec) (src : MovSrc) (s : State) := issueSlot s i (.mov i d src) (defMov i d src)
def defMovk (i : Issue) (d h : Spec) (imm : BitVec 16) : SlotDef :=
  { sSlot i [] [d] with eff := fun k m => landS k m 1 d (opMovk (k.x.sreg d.toNat) (h.toNat % 4) imm) }
/-- MOVK; the quarter is h[1:0]. -/
def execMovk (i : Issue) (d h : Spec) (imm : BitVec 16) (s : State) := issueSlot s i (.movk i d h imm) (defMovk i d h imm)
def defSel (i : Issue) (d a b : Spec) (m : BitVec 4) : SlotDef :=
  { sSlot i [a, b] [d] with eff := fun k md => landS k md 1 d (if k.x.pred (m.toNat % 8) then k.s .s a else k.s .s b) }
/-- SEL (R123). -/
def execSel (i : Issue) (d a b : Spec) (m : BitVec 4) (s : State) := issueSlot s i (.sel i d a b m) (defSel i d a b m)

/-! ## Compares (R123) -/

def defCmpeq (i : Issue) (d a : Spec) (b : RegImm) : SlotDef := cmpDef i d a b (fun x y => x == y)
/-- CMPEQ, CMPEQI. -/
def execCmpeq (i : Issue) (d a : Spec) (b : RegImm) (s : State) := issueSlot s i (.cmpeq i d a b) (defCmpeq i d a b)
def defCmpne (i : Issue) (d a b : Spec) : SlotDef := cmpDef i d a (.reg b) (fun x y => x != y)
/-- CMPNE. -/
def execCmpne (i : Issue) (d a b : Spec) (s : State) := issueSlot s i (.cmpne i d a b) (defCmpne i d a b)
def defCmplt (i : Issue) (d a : Spec) (b : RegImm) : SlotDef := cmpDef i d a b (fun x y => x.slt y)
/-- CMPLT, CMPLTI. -/
def execCmplt (i : Issue) (d a : Spec) (b : RegImm) (s : State) := issueSlot s i (.cmplt i d a b) (defCmplt i d a b)
def defCmpltu (i : Issue) (d a : Spec) (b : RegImm) : SlotDef := cmpDef i d a b (fun x y => x.ult y)
/-- CMPLTU, CMPLTUI. -/
def execCmpltu (i : Issue) (d a : Spec) (b : RegImm) (s : State) := issueSlot s i (.cmpltu i d a b) (defCmpltu i d a b)
def defCmple (i : Issue) (d a b : Spec) : SlotDef := cmpDef i d a (.reg b) (fun x y => x.sle y)
/-- CMPLE. -/
def execCmple (i : Issue) (d a b : Spec) (s : State) := issueSlot s i (.cmple i d a b) (defCmple i d a b)
def defCmpleu (i : Issue) (d a b : Spec) : SlotDef := cmpDef i d a (.reg b) (fun x y => x.ule y)
/-- CMPLEU. -/
def execCmpleu (i : Issue) (d a b : Spec) (s : State) := issueSlot s i (.cmpleu i d a b) (defCmpleu i d a b)

/-! ## Bit fields (R125 to R129) -/

/-- A pos + len above 64 is reserved (R125). -/
def fieldCheck (pos len1 : Spec) : Option Nat := if 64 < pos.toNat + len1.toNat + 1 then some 1 else none

def defBfx (i : Issue) (d a pos len1 : Spec) (m : BitVec 4) : SlotDef :=
  { sSlot i [a] [d] with
    illegal := orElse (specCheck [a] [d]) (fieldCheck pos len1)
    eff := fun k md => landS k md 1 d (opBfx (k.s .s a) pos.toNat (len1.toNat + 1) (bitOf m.toNat 0)) }
/-- BFX. -/
def execBfx (i : Issue) (d a pos len1 : Spec) (m : BitVec 4) (s : State) := issueSlot s i (.bfx i d a pos len1 m) (defBfx i d a pos len1 m)
def defBfi (i : Issue) (d a pos len1 : Spec) (_m : BitVec 4) : SlotDef :=
  { sSlot i [a] [d] with
    illegal := orElse (specCheck [a] [d]) (fieldCheck pos len1)
    eff := fun k md => landS k md 1 d (opBfi (k.x.sreg d.toNat) (k.s .s a) pos.toNat (len1.toNat + 1)) }
/-- BFI; all of m is reserved. -/
def execBfi (i : Issue) (d a pos len1 : Spec) (m : BitVec 4) (s : State) := issueSlot s i (.bfi i d a pos len1 m) (defBfi i d a pos len1 m)
def defClz (i : Issue) (d a : Spec) : SlotDef := { sSlot i [a] [d] with eff := fun k m => landS k m 1 d (opClz (k.s .s a)) }
/-- CLZ. -/
def execClz (i : Issue) (d a : Spec) (s : State) := issueSlot s i (.clz i d a) (defClz i d a)
def defBperm (i : Issue) (d a b c : Spec) : SlotDef :=
  { sSlot i [a, b, c] [d] with eff := fun k m => landS k m 1 d (opBperm (k.s .s a) (k.s .s b) (k.s .s c)) }
/-- BPERM. -/
def execBperm (i : Issue) (d a b c : Spec) (s : State) := issueSlot s i (.bperm i d a b c) (defBperm i d a b c)

/-! ## Floating point (R99, R130 to R135) -/

def defFadd (i : Issue) (dbl : Bool) (d a b : Spec) (m : BitVec 4) : SlotDef :=
  fpDef i d [a, b] m 4 (fun strict mode r k => fAdd strict mode r (dblFmt dbl) (bitOf m.toNat 0) (fpBits dbl (k.s .s a)) (fpBits dbl (k.s .s b)))
/-- FADD; m[0] negates b. -/
def execFadd (i : Issue) (dbl : Bool) (d a b : Spec) (m : BitVec 4) (s : State) := issueSlot s i (.fadd i dbl d a b m) (defFadd i dbl d a b m)
def defFmul (i : Issue) (dbl : Bool) (d a b : Spec) (m : BitVec 4) : SlotDef :=
  fpDef i d [a, b] m 4 (fun strict mode r k => fMul strict mode r (dblFmt dbl) (bitOf m.toNat 1) (fpBits dbl (k.s .s a)) (fpBits dbl (k.s .s b)))
/-- FMUL; m[1] negates the product. -/
def execFmul (i : Issue) (dbl : Bool) (d a b : Spec) (m : BitVec 4) (s : State) := issueSlot s i (.fmul i dbl d a b m) (defFmul i dbl d a b m)
def defFma (i : Issue) (dbl : Bool) (d a b c : Spec) (m : BitVec 4) : SlotDef :=
  fpDef i d [a, b, c] m 4 (fun strict mode r k =>
    fFma strict mode r (dblFmt dbl) (bitOf m.toNat 1) (bitOf m.toNat 0) (fpBits dbl (k.s .s a)) (fpBits dbl (k.s .s b)) (fpBits dbl (k.s .s c)))
/-- FMA; m[1] negates the product, m[0] the addend. -/
def execFma (i : Issue) (dbl : Bool) (d a b c : Spec) (m : BitVec 4) (s : State) := issueSlot s i (.fma i dbl d a b c m) (defFma i dbl d a b c m)
def defFdiv (i : Issue) (dbl : Bool) (d a b : Spec) (m : BitVec 4) : SlotDef :=
  fpDef i d [a, b] m (if dbl then 28 else 16) (fun strict mode r k =>
    Machine.fDiv strict mode r (dblFmt dbl) (fpBits dbl (k.s .s a)) (fpBits dbl (k.s .s b)))
/-- FDIV. -/
def execFdiv (i : Issue) (dbl : Bool) (d a b : Spec) (m : BitVec 4) (s : State) := issueSlot s i (.fdiv i dbl d a b m) (defFdiv i dbl d a b m)
def defFsqrt (i : Issue) (dbl : Bool) (d a : Spec) (m : BitVec 4) : SlotDef :=
  fpDef i d [a] m (if dbl then 28 else 16) (fun strict mode r k => Machine.fSqrt strict mode r (dblFmt dbl) (fpBits dbl (k.s .s a)))
/-- FSQRT. -/
def execFsqrt (i : Issue) (dbl : Bool) (d a : Spec) (m : BitVec 4) (s : State) := issueSlot s i (.fsqrt i dbl d a m) (defFsqrt i dbl d a m)

/-- FMIN and FMAX (R132): nothing is rounded, so nothing is drawn (R287). -/
def minMaxDef (i : Issue) (dbl isMax : Bool) (d a b : Spec) : SlotDef :=
  { sSlot i [a, b] [d] with
    eff := fun k m =>
      let v := fMinMax k.x.strict isMax (dblFmt dbl) (fpBits dbl (k.s .s a)) (fpBits dbl (k.s .s b))
      landFl k (landS k m 2 d (w64 v.bits)) 2 .s v.fl }

def defFmin (i : Issue) (dbl : Bool) (d a b : Spec) : SlotDef := minMaxDef i dbl false d a b
/-- FMIN. -/
def execFmin (i : Issue) (dbl : Bool) (d a b : Spec) (s : State) := issueSlot s i (.fmin i dbl d a b) (defFmin i dbl d a b)
def defFmax (i : Issue) (dbl : Bool) (d a b : Spec) : SlotDef := minMaxDef i dbl true d a b
/-- FMAX. -/
def execFmax (i : Issue) (dbl : Bool) (d a b : Spec) (s : State) := issueSlot s i (.fmax i dbl d a b) (defFmax i dbl d a b)
def defFcmp (i : Issue) (dbl : Bool) (d a b : Spec) (m : BitVec 4) : SlotDef :=
  { sSlot i [a, b] [] with
    eff := fun k md =>
      let v := fCmp k.x.strict (dblFmt dbl) (m.toNat % 4) (fpBits dbl (k.s .s a)) (fpBits dbl (k.s .s b))
      landFl k (landP k md 2 d v.1) 2 .s v.2 }
/-- FCMP (R133); m[1:0] is the condition. -/
def execFcmp (i : Issue) (dbl : Bool) (d a b : Spec) (m : BitVec 4) (s : State) := issueSlot s i (.fcmp i dbl d a b m) (defFcmp i dbl d a b m)
def defFcvt (i : Issue) (d a c : Spec) (m : BitVec 4) : SlotDef :=
  { fpDef i d [a] m 4 (fun strict mode r k => opFcvt strict mode r (c.toNat % 16) (k.s .s a)) with
    illegal := orElse (specCheck [a] [d]) (if 8 ≤ c.toNat % 16 then some 1 else none) }
/-- FCVT; codes 0x8 to 0xF are reserved (R100). -/
def execFcvt (i : Issue) (d a c : Spec) (m : BitVec 4) (s : State) := issueSlot s i (.fcvt i d a c m) (defFcvt i d a c m)

end Sys2Proof.Machine
end

