-- ==== Sys2Proof/Machine/Vector.lean ====
section
/-! DEFINITION. The V slot (R104, R105, R147 to R164): each instruction as the core issues it, and its command. -/

namespace Sys2Proof.Machine

/-! ## Shapes -/

/-- A slot of the V slot with vector sources and destinations. -/
def vSlot (i : Issue) (srcs dsts : List Spec) : SlotDef :=
  { slot := .v, guard := i.guard, illegal := specCheck srcs dsts, vregs := regsOf (srcs ++ dsts), wins := winsOf (srcs.map (fun r => (r, 8))) }

/-- The lane mask that m names, and whether inactive lanes are zeroed (R104). -/
def vmOf (x : Ctx) (m : BitVec 4) : BitVec 32 := x.vmask (m.toNat / 2)
def zeroing (m : BitVec 4) : Bool := bitOf m.toNat 0

/-- A vector result of latency `n` at lane width `w`, masked; lanes at or above `cnt` count as inactive (R104, R156). -/
def landVec (k : Iss) (md : Mod) (n : Nat) (d : Spec) (m : BitVec 4) (w : Nat) (l : List Nat) (cnt : Nat) : Mod :=
  let r := maskVec (vmOf k.x m) (zeroing m) w l cnt
  land md k.th k.cyc n .v k.pc (.v d.toNat r.1 r.2)

/-- A mask result of latency 2 (R148); bits [2:0] of the field name it. -/
def landMask (k : Iss) (md : Mod) (d : Spec) (m : BitVec 4) (n : Nat) (f : Nat → Bool) : Mod :=
  let r := maskBits (vmOf k.x m) (zeroing m) n f
  land md k.th k.cyc 2 .v k.pc (.vm (d.toNat % 8) r.1 r.2)

/-- The thread's generator and no flags, as an instruction finds them. -/
def redOf (m : Mod) (th : Nat) : RedState := { fl := 0, s0 := (ctx m th).sr0, s1 := (ctx m th).sr1 }

/-- The generator after an instruction's draws. -/
def keepDraws (m : Mod) (th : Nat) (st : RedState) : Mod := setCtx m th (fun x => { x with sr0 := st.s0, sr1 := st.s1 })

/-- The element type of a field c (R95). -/
def elemType (c : Spec) : Nat := c.toNat % 8

/-- ILLEGAL 0x1 where the type is not I16, I32 or I64 (R150). -/
def intTypeCheck (c : Spec) : Option Nat := if isIntType (elemType c) then none else some 1
/-- ILLEGAL 0x1 where the type is reserved (R95). -/
def typeCheck (t : Nat) : Option Nat := if (laneWidth t).isNone then some 1 else none

/-! ## Integers and logic (R150, R151) -/

/-- An integer instruction of opcode `op`. -/
def vintDef (i : Issue) (op : Nat) (o : VR) : SlotDef :=
  { vSlot i [o.a, o.b] [o.d] with
    illegal := orElse (specCheck [o.a, o.b] [o.d]) (intTypeCheck o.c)
    eff := fun k md =>
      let w := (laneWidth (elemType o.c)).getD 64
      landVec k md 2 o.d o.m w ((List.range (512 / w)).map (fun j => laneInt2 op w (lane w (k.v o.a) j) (lane w (k.v o.b) j))) (512 / w) }

def defVadd (i : Issue) (o : VR) : SlotDef := vintDef i 1 o
/-- VADD. -/
def execVadd (i : Issue) (o : VR) (s : State) := issueSlot s i (.vadd i o) (defVadd i o)
def defVsub (i : Issue) (o : VR) : SlotDef := vintDef i 2 o
/-- VSUB. -/
def execVsub (i : Issue) (o : VR) (s : State) := issueSlot s i (.vsub i o) (defVsub i o)
def defVand (i : Issue) (o : VR) : SlotDef := vintDef i 3 o
/-- VAND. -/
def execVand (i : Issue) (o : VR) (s : State) := issueSlot s i (.vand i o) (defVand i o)
def defVor (i : Issue) (o : VR) : SlotDef := vintDef i 4 o
/-- VOR. -/
def execVor (i : Issue) (o : VR) (s : State) := issueSlot s i (.vor i o) (defVor i o)
def defVxor (i : Issue) (o : VR) : SlotDef := vintDef i 5 o
/-- VXOR. -/
def execVxor (i : Issue) (o : VR) (s : State) := issueSlot s i (.vxor i o) (defVxor i o)
def defVshl (i : Issue) (o : VR) : SlotDef := vintDef i 6 o
/-- VSHL. -/
def execVshl (i : Issue) (o : VR) (s : State) := issueSlot s i (.vshl i o) (defVshl i o)
def defVshr (i : Issue) (o : VR) : SlotDef := vintDef i 7 o
/-- VSHR. -/
def execVshr (i : Issue) (o : VR) (s : State) := issueSlot s i (.vshr i o) (defVshr i o)
def defVsra (i : Issue) (o : VR) : SlotDef := vintDef i 8 o
/-- VSRA. -/
def execVsra (i : Issue) (o : VR) (s : State) := issueSlot s i (.vsra i o) (defVsra i o)

def defVmov (i : Issue) (o : VR) : SlotDef :=
  { vSlot i [o.a] [o.d] with eff := fun k md => landVec k md 2 o.d o.m 32 (lanes 32 (k.v o.a)) 16 }
/-- VMOV: masked at 32-bit lanes (R151). -/
def execVmov (i : Issue) (o : VR) (s : State) := issueSlot s i (.vmov i o) (defVmov i o)

def defVbcast (i : Issue) (o : VR) : SlotDef :=
  { vSlot i [] [o.d] with
    illegal := orElse (specCheck [o.a] [o.d]) (typeCheck (elemType o.c))
    sregs := regsOf [o.a]
    wins := winsOf [(o.a, 1)]
    eff := fun k md =>
      let w := (laneWidth (elemType o.c)).getD 64
      landVec k md 2 o.d o.m w (List.replicate (512 / w) ((k.s .v o.a).toNat % 2 ^ w)) (512 / w) }
/-- VBCAST (R151). -/
def execVbcast (i : Issue) (o : VR) (s : State) := issueSlot s i (.vbcast i o) (defVbcast i o)

/-! ## Compares and masks (R148 to R150) -/

/-- An integer compare of opcode `op`. -/
def vcmpDef (i : Issue) (op : Nat) (o : VR) : SlotDef :=
  { vSlot i [o.a, o.b] [] with
    illegal := orElse (specCheck [o.a, o.b] []) (intTypeCheck o.c)
    eff := fun k md =>
      let w := (laneWidth (elemType o.c)).getD 64
      landMask k md o.d o.m (512 / w) (fun j => laneCmp op w (lane w (k.v o.a) j) (lane w (k.v o.b) j)) }

def defVcmpeq (i : Issue) (o : VR) : SlotDef := vcmpDef i 0x0B o
/-- VCMPEQ. -/
def execVcmpeq (i : Issue) (o : VR) (s : State) := issueSlot s i (.vcmpeq i o) (defVcmpeq i o)
def defVcmplt (i : Issue) (o : VR) : SlotDef := vcmpDef i 0x0C o
/-- VCMPLT. -/
def execVcmplt (i : Issue) (o : VR) (s : State) := issueSlot s i (.vcmplt i o) (defVcmplt i o)
def defVcmpltu (i : Issue) (o : VR) : SlotDef := vcmpDef i 0x0D o
/-- VCMPLTU. -/
def execVcmpltu (i : Issue) (o : VR) (s : State) := issueSlot s i (.vcmpltu i o) (defVcmpltu i o)

def defVmop (i : Issue) (o : VR) : SlotDef :=
  { vSlot i [] [] with
    illegal := if 5 ≤ o.c.toNat % 8 then some 1 else none
    eff := fun k md =>
      land md k.th k.cyc 2 .v k.pc
        (.vm (o.d.toNat % 8) (opVmop (o.c.toNat % 8) (k.x.vmask (o.a.toNat % 8)) (k.x.vmask (o.b.toNat % 8))) 0xFFFFFFFF) }
/-- VMOP (R149); operations 5 to 7 are reserved. -/
def execVmop (i : Issue) (o : VR) (s : State) := issueSlot s i (.vmop i o) (defVmop i o)

def defVms (i : Issue) (o : VR) : SlotDef :=
  { vSlot i [] [] with
    illegal := specCheck [o.a] []
    sregs := regsOf [o.a]
    wins := winsOf [(o.a, 1)]
    eff := fun k md => land md k.th k.cyc 2 .v k.pc (.vm (o.d.toNat % 8) ((k.s .v o.a).setWidth 32) 0xFFFFFFFF) }
/-- VMS (R149). -/
def execVms (i : Issue) (o : VR) (s : State) := issueSlot s i (.vms i o) (defVms i o)

def defVsm (i : Issue) (o : VR) : SlotDef :=
  { vSlot i [] [] with
    illegal := specCheck [] [o.d]
    sregs := regsOf [o.d]
    eff := fun k md => land md k.th k.cyc 2 .v k.pc (.s o.d.toNat ((k.x.vmask (o.a.toNat % 8)).setWidth 64)) }
/-- VSM: zero-extended (R149). -/
def execVsm (i : Issue) (o : VR) (s : State) := issueSlot s i (.vsm i o) (defVsm i o)

/-! ## Floating point (R152 to R154) -/

/-- A floating instruction: 0 VFADD, 1 VFMUL, 2 VFMA, 3 VMIN, 4 VMAX, of latency `n`. c[0] of VFADD negates b. -/
def vfpDef (i : Issue) (op n : Nat) (fmt : FpFmt) (o : VR) (srcs : List Spec) : SlotDef :=
  { vSlot i srcs [o.d] with
    eff := fun k md =>
      let f := fpFmt fmt
      let vm := vmOf k.x o.m
      match fpLanes op k.x.strict (rndOf k.x.rnd) f (bitOf o.c.toNat 0) (fun j => vm.getLsbD j) (k.v o.a) (k.v o.b) (k.v o.c) (redOf md k.th) with
      | (l, st) => landFl k (landVec k (keepDraws md k.th st) n o.d o.m f.width l (512 / f.width)) n .v st.fl }

def defVfadd (i : Issue) (fmt : FpFmt) (o : VR) : SlotDef := vfpDef i 0 4 fmt o [o.a, o.b]
/-- VFADD. -/
def execVfadd (i : Issue) (fmt : FpFmt) (o : VR) (s : State) := issueSlot s i (.vfadd i fmt o) (defVfadd i fmt o)
def defVfmul (i : Issue) (fmt : FpFmt) (o : VR) : SlotDef := vfpDef i 1 4 fmt o [o.a, o.b]
/-- VFMUL. -/
def execVfmul (i : Issue) (fmt : FpFmt) (o : VR) (s : State) := issueSlot s i (.vfmul i fmt o) (defVfmul i fmt o)
def defVfma (i : Issue) (fmt : FpFmt) (o : VR) : SlotDef := vfpDef i 2 4 fmt o [o.a, o.b, o.c]
/-- VFMA. -/
def execVfma (i : Issue) (fmt : FpFmt) (o : VR) (s : State) := issueSlot s i (.vfma i fmt o) (defVfma i fmt o)
def defVmin (i : Issue) (fmt : FpFmt) (o : VR) : SlotDef := vfpDef i 3 2 fmt o [o.a, o.b]
/-- VMIN. -/
def execVmin (i : Issue) (fmt : FpFmt) (o : VR) (s : State) := issueSlot s i (.vmin i fmt o) (defVmin i fmt o)
def defVmax (i : Issue) (fmt : FpFmt) (o : VR) : SlotDef := vfpDef i 4 2 fmt o [o.a, o.b]
/-- VMAX. -/
def execVmax (i : Issue) (fmt : FpFmt) (o : VR) (s : State) := issueSlot s i (.vmax i fmt o) (defVmax i fmt o)

def defVfcmp (i : Issue) (fmt : FpFmt) (o : VR) : SlotDef :=
  { vSlot i [o.a, o.b] [] with
    eff := fun k md =>
      let f := fpFmt fmt
      let vm := vmOf k.x o.m
      match cmpLanes k.x.strict f (o.c.toNat % 4) (fun j => vm.getLsbD j) (k.v o.a) (k.v o.b) (redOf md k.th) with
      | (l, st) => landFl k (landMask k md o.d o.m (512 / f.width) (fun j => l.getD j false)) 2 .v st.fl }
/-- VFCMP; c[1:0] is the condition. -/
def execVfcmp (i : Issue) (fmt : FpFmt) (o : VR) (s : State) := issueSlot s i (.vfcmp i fmt o) (defVfcmp i fmt o)

/-! ## Conversions, reductions, permutes (R155 to R161) -/

def defVcvt (i : Issue) (d a : Spec) (src dst : BitVec 3) (rnd : BitVec 2) (m : BitVec 4) : SlotDef :=
  { vSlot i [a] [d] with
    illegal := orElse (specCheck [a] [d]) (orElse (typeCheck src.toNat) (typeCheck dst.toNat))
    eff := fun k md =>
      let vm := vmOf k.x m
      match cvtLanes k.x.strict (rndCode rnd k.x.rnd) src.toNat dst.toNat (fun j => vm.getLsbD j) (k.v a) (redOf md k.th) with
      | (l, st) =>
        landFl k (landVec k (keepDraws md k.th st) 4 d m ((laneWidth dst.toNat).getD 64) l (cvtCount src.toNat dst.toNat)) 4 .v st.fl }
/-- VCVT: the mask applies at the destination's width. -/
def execVcvt (i : Issue) (d a : Spec) (src dst : BitVec 3) (rnd : BitVec 2) (m : BitVec 4) (s : State) :=
  issueSlot s i (.vcvt i d a src dst rnd m) (defVcvt i d a src dst rnd m)

/-- Is the result of VRED a scalar (R160)? -/
def redScalar (o : VR) : Bool := bitOf o.b.toNat 5

/-- ILLEGAL 0x1 of VRED: a reserved type or operation, or a logical operation on a floating type (R105, R157). -/
def redCheck (o : VR) : Option Nat :=
  let t := o.b.toNat % 8
  let op := o.c.toNat % 8
  if (laneWidth t).isNone || decide (6 ≤ op) || (decide (3 ≤ op) && !isIntType t) then some 1 else none

/-- The value of VRED, extended to 64 bits as a scalar result has it (R160). -/
def opVred (k : Iss) (o : VR) (st : RedState) : Word × RedState :=
  let t := o.b.toNat % 8
  let op := o.c.toNat % 8
  let vm := vmOf k.x o.m
  match floatType t with
  | some f => match redFloat op k.x.strict (rndOf k.x.rnd) f (fun j => vm.getLsbD j) (k.v o.a) st with
    | (x, st) => (w64 x, st)
  | none =>
    let w := (laneWidth t).getD 64
    (signExt w (redLanes op w (fun j => vm.getLsbD j) (k.v o.a)), st)

def defVred (i : Issue) (o : VR) : SlotDef :=
  { vSlot i [o.a] [] with
    illegal := orElse (specCheck [o.a] [o.d]) (redCheck o)
    vregs := regsOf (if redScalar o then [o.a] else [o.a, o.d])
    sregs := if redScalar o then regsOf [o.d] else []
    eff := fun k md =>
      match opVred k o (redOf md k.th) with
      | (x, st) =>
        let md := keepDraws md k.th st
        let w := (laneWidth (o.b.toNat % 8)).getD 64
        let r : Write := if redScalar o then .s o.d.toNat x else .v o.d.toNat (lanesVec w [x.toNat]) (~~~(0 : Vec))
        landFl k (land md k.th k.cyc 8 .v k.pc r) 8 .v st.fl }
/-- VRED. -/
def execVred (i : Issue) (o : VR) (s : State) := issueSlot s i (.vred i o) (defVred i o)

def defVperm (i : Issue) (o : VR) : SlotDef :=
  { vSlot i [o.a, o.b] [o.d] with
    illegal := orElse (specCheck [o.a, o.b] [o.d]) (typeCheck (elemType o.c))
    eff := fun k md =>
      let w := (laneWidth (elemType o.c)).getD 64
      landVec k md 2 o.d o.m w (permLanes w (k.v o.a) (k.v o.b)) (512 / w) }
/-- VPERM. -/
def execVperm (i : Issue) (o : VR) (s : State) := issueSlot s i (.vperm i o) (defVperm i o)

/-! ## Rows of tiles (R162 to R164) -/

/-- The physical row c[3:0]. -/
def rowField (c : Spec) : Nat := c.toNat % 16

def defVtr (i : Issue) (o : VR) : SlotDef :=
  { vSlot i [o.a] [] with
    tregs := [o.d.toNat % 8]
    eff := fun k md =>
      let r := maskVec (vmOf k.x o.m) (zeroing o.m) 32 (lanes 32 (k.v o.a)) 16
      land md k.th k.cyc 2 .v k.pc (.tile (o.d.toNat % 8) [{ row := rowField o.c, data := r.1, mask := r.2, scale := none }]) }
/-- VTR: it leaves the scale bytes. -/
def execVtr (i : Issue) (o : VR) (s : State) := issueSlot s i (.vtr i o) (defVtr i o)

/-- The tile reads of an instruction find an uncorrectable error in a tile: zeros, with the machine check SRAM_UE 0x4 (R388). -/
def readTileRow (m : Mod) (k : Iss) (slot : Slot) (t row : Nat) : Mod × Vec :=
  if k.x.tileBad.contains t then (raiseCheck m k.th (machineCheck 0x32 (slotNum slot) 4 k.pc 0), 0) else (m, k.x.tdata t row)

def defTrv (i : Issue) (o : VR) : SlotDef :=
  { vSlot i [] [o.d] with
    tregs := [o.a.toNat % 8]
    fileReads := 1
    eff := fun k md =>
      match readTileRow md k .v (o.a.toNat % 8) (rowField o.c) with
      | (md, v) => landVec k md 2 o.d o.m 32 (lanes 32 v) 16 }
/-- TRV. -/
def execTrv (i : Issue) (o : VR) (s : State) := issueSlot s i (.trv i o) (defTrv i o)

end Sys2Proof.Machine
end

