-- ==== Sys2Proof/Machine/YSlot.lean ====
section
/-! DEFINITION. The Y slot (R114): channels and queues (R364 to R372), FORK, JOIN and EXIT (R329 to R334), barriers (R35 to R39), fences (R456), EVWAIT (R428). -/

namespace Sys2Proof.Machine

/-- A slot of the Y slot with the scalar registers it reads and writes (R92). -/
def ySlot (i : Issue) (regs : List Spec) : SlotDef :=
  { slot := .y, guard := i.guard, illegal := specCheck [] regs, sregs := regsOf regs }

/-! ## SEND, SENDT, COMMIT (R364 to R367) -/

/-- Does the send buffer hold another endpoint's entries, or four entries (R365)? -/
def bufferWrong (x : Ctx) (ch : Nat) : Bool := !x.sendBuf.isEmpty && (x.sendCh.toNat != ch || decide (4 ≤ x.sendBuf.length))

/-- The credit a SEND finds: none on a class-0 endpoint while the Toll queue is full (R527). -/
def creditFound (x : Ctx) (ch : Nat) : Nat := if (x.endp ch).chC0 && tollFull x then 0 else (x.endp ch).credit

/-- The status of R365 for a broken or a closed endpoint. -/
def epStatus (e : Endpoint) : Byte := if e.state = 3 then 3 else 6

/-- Is the endpoint broken or closed? -/
def epBad (e : Endpoint) : Bool := e.state == 3 || e.state == 0

/-- The status written to a broken or closed endpoint. -/
def markEp (m : Mod) (t ch : Nat) : Mod := setEp m t ch (fun e => { e with status := epStatus e })

/-- An entry staged, with the credit it takes (R364). -/
def stageEntry (m : Mod) (t ch : Nat) (a b : Word) : Mod :=
  let e : QEntry := BitVec.ofNat 128 (a.toNat + 2 ^ 64 * b.toNat)
  setEp (setCtx m t (fun x => { x with sendCh := BitVec.ofNat 7 ch, sendBuf := x.sendBuf ++ [e] })) t ch (fun k => { k with credit := k.credit - 1 })

/-- QUEUE_GONE, where the endpoint has the fault enabled (R365, R367). -/
def goneFault (e : Endpoint) (ch : Nat) : Option Flt := if e.gfault then some (syncFault .y 0x27 ch 0) else none

/-- SEND as the core issues it. Where the buffer is wrong and the endpoint is broken or closed too, two rows of R365 apply: ILLEGAL 8 is raised and no status written
(log 117, DESIGN CHOICE). -/
def defSend (i : Issue) (ch : BitVec 7) (a b : Spec) : SlotDef :=
  { ySlot i [a, b] with
    stall := fun k => if !epBad (k.x.endp ch.toNat) && creditFound k.x ch.toNat == 0 then 3 else 0
    fault := fun k =>
      if bufferWrong k.x ch.toNat then some (syncFault .y 0x21 8 0)
      else if epBad (k.x.endp ch.toNat) then goneFault (k.x.endp ch.toNat) ch.toNat
      else none
    onFault := fun k m => if !bufferWrong k.x ch.toNat && epBad (k.x.endp ch.toNat) then markEp m k.th ch.toNat else m
    eff := fun k m =>
      if epBad (k.x.endp ch.toNat) then markEp m k.th ch.toNat else stageEntry m k.th ch.toNat (k.s .y a) (k.s .y b) }
/-- SEND. -/
def execSend (i : Issue) (ch : BitVec 7) (a b : Spec) (s : State) := issueSlot s i (.send i ch a b) (defSend i ch a b)

/-- Does SENDT stage its entry (R366)? -/
def sendtStages (x : Ctx) (ch : Nat) : Bool := (x.endp ch).state == 2 && creditFound x ch != 0 && !bufferWrong x ch

def defSendt (i : Issue) (ch : BitVec 7) (a b : Spec) (p : BitVec 3) : SlotDef :=
  { ySlot i [a, b] with
    eff := fun k m =>
      let ok := sendtStages k.x ch.toNat
      let m := land m k.th k.cyc 1 .y k.pc (.p p.toNat ok)
      if ok then stageEntry m k.th ch.toNat (k.s .y a) (k.s .y b)
      else if epBad (k.x.endp ch.toNat) then markEp m k.th ch.toNat
      else m }
/-- SENDT: it never waits. -/
def execSendt (i : Issue) (ch : BitVec 7) (a b : Spec) (p : BitVec 3) (s : State) := issueSlot s i (.sendt i ch a b p) (defSendt i ch a b p)

/-- The staged entries discarded (R367). -/
def dropStaged (m : Mod) (t : Nat) : Mod := setCtx m t (fun x => { x with sendBuf := [] })

def defCommit (i : Issue) (ch : BitVec 7) : SlotDef :=
  { ySlot i [] with
    fault := fun k =>
      if k.x.sendBuf.isEmpty then none
      else if k.x.sendCh != ch then some (syncFault .y 0x21 8 0)
      else if epBad (k.x.endp ch.toNat) then goneFault (k.x.endp ch.toNat) ch.toNat
      else none
    onFault := fun k m =>
      if k.x.sendCh == ch && !k.x.sendBuf.isEmpty && epBad (k.x.endp ch.toNat) then dropStaged (markEp m k.th ch.toNat) k.th else m
    eff := fun k m =>
      if k.x.sendBuf.isEmpty then m
      else if epBad (k.x.endp ch.toNat) then dropStaged (markEp m k.th ch.toNat) k.th
      else
        let c := epCtl m k.th ch.toNat .msg k.x.sendBuf.length k.x.sendBuf
        leaveCore (dropStaged (count m (k.th / 4) 40 1) k.th) (k.x.endp ch.toNat).chPeer c }
/-- COMMIT: the staged message leaves for its queue. -/
def execCommit (i : Issue) (ch : BitVec 7) (s : State) := issueSlot s i (.commit i ch) (defCommit i ch)

/-! ## QSEL (R372) -/

/-- The queues of a mask that the thread reads and that hold a word. -/
def qselReady (m : Mod) (th : Nat) (a b : Word) : List Nat :=
  (List.range 128).filter (fun q =>
    bitOf (a.toNat + 2 ^ 64 * b.toNat) q && readsQueue m th (128 * (th / 4) + q) && wordsIn (queueAt m (128 * (th / 4) + q)) != 0)

/-- The queue that the policy chooses: the lowest, or the first after the rotation pointer, wrapping. -/
def qselPick (rotation : Bool) (ptr : Nat) (l : List Nat) : Nat :=
  if rotation then ((l.find? (fun q => decide (ptr < q))).getD (l.headD 0)) else l.headD 0

def defQsel (i : Issue) (d a b : Spec) (window : BitVec 4) (rotation : Bool) : SlotDef :=
  { ySlot i [d, a, b] with
    stall := fun k => if (qselReady k.m k.th (k.s .y a) (k.s .y b)).isEmpty then 2 else 0
    eff := fun k m =>
      let q := qselPick rotation k.x.rotPtr.toNat (qselReady k.m k.th (k.s .y a) (k.s .y b))
      let m := if rotation then setCtx m k.th (fun x => { x with rotPtr := BitVec.ofNat 7 q }) else m
      land (land m k.th k.cyc 1 .y k.pc (.s d.toNat (w64 q))) k.th k.cyc 1 .y k.pc (.window window.toNat (BitVec.ofNat 7 q)) }
/-- QSEL. -/
def execQsel (i : Issue) (d a b : Spec) (window : BitVec 4) (rotation : Bool) (s : State) :=
  issueSlot s i (.qsel i d a b window rotation) (defQsel i d a b window rotation)

/-! ## FORK, JOIN, EXIT (R329 to R334) -/

/-- The stack top of a context under its job (R562) (log 55, DEDUCED). -/
def stackTop (m : Mod) (job t : Nat) : Word :=
  match tblFind m.hq.jobs job with
  | some j => j.stackBase + w64 (t + 1) * j.stackBytes
  | none => 0

/-- The join handle of a thread (R329). -/
def joinHandle (t : Nat) (gen : BitVec 16) : Word := w64 (gen.toNat * 2 ^ 32 + t)

def defFork (i : Issue) (d a b : Spec) : SlotDef :=
  { ySlot i [d, a, b] with
    stall := fun k => if (freeContexts k.m (k.th / 4)).isEmpty then 5 else 0
    fault := fun k => if (k.s .y a).toNat % 32 != 0 then some (syncFault .y 0x25 1 0) else none
    eff := fun k m =>
      match freeContexts m (k.th / 4) with
      | [] => m
      | t :: _ =>
        let p := k.x
        let a := k.s .y a
        let b := k.s .y b
        let top := stackTop m (p.job.toNat % 65536) t
        let m := startThread m t (fun x =>
          { x with pc := a, s := tblPut [] 1 b, sup := p.sup, strict := p.strict, rnd := p.rnd, job := p.job, xbase := p.xbase, prio := p.prio,
                   vbase := p.vbase, ssp := top, bypass := p.bypass, launch := p.launch, item := p.item, stdHandler := p.stdHandler, readyAt := k.cyc + 2 })
        land m k.th k.cyc 1 .y k.pc (.s d.toNat (joinHandle t (ctx m t).gen)) }
/-- FORK: the new thread is ready in the second cycle after (R331). -/
def execFork (i : Issue) (d a b : Spec) (s : State) := issueSlot s i (.fork i d a b) (defFork i d a b)

/-- ILLEGAL 0x9 of JOIN: a context of another core, or the issuing thread itself (R334). -/
def joinBad (k : Iss) (a : Word) : Bool :=
  let t := a.toNat % 8192
  t / 4 != k.th / 4 || (t == k.th && fld a.toNat 32 16 == k.x.gen.toNat)

/-- Does the joined thread still run in its context (R334)? -/
def joinWaits (m : Mod) (a : Word) : Bool :=
  let t := a.toNat % 8192
  (ctx m t).gen.toNat == fld a.toNat 32 16 && !isFree m t

def defJoin (i : Issue) (a : Spec) : SlotDef :=
  { ySlot i [a] with
    stall := fun k => if !joinBad k (k.s .y a) && joinWaits k.m (k.s .y a) then 4 else 0
    fault := fun k => if joinBad k (k.s .y a) then some (syncFault .y 0x21 9 0) else none }
/-- JOIN. -/
def execJoin (i : Issue) (a : Spec) (s : State) := issueSlot s i (.join i a) (defJoin i a)

def defExit (i : Issue) : SlotDef := { ySlot i [] with ends := true }
/-- EXIT. -/
def execExit (i : Issue) (s : State) := issueSlot s i (.exit i) (defExit i)

/-! ## Barriers (R36 to R39) -/

/-- Is the context a member of the group (R36)? -/
def isMember (x : Ctx) (g : Nat) : Bool := bitOf (tblGet 0 x.barmem (g / 64)).toNat (g % 64)

/-- ILLEGAL 0xA of a context that is no member (R39). -/
def memberFault (k : Iss) (g : Nat) : Option Flt := if isMember k.x g then none else some (syncFault .y 0x21 0xA 0)

/-- The arrived flag of a context set (R37). -/
def arrive (m : Mod) (t g : Nat) : Mod := setCtx m t (fun x => { x with arrived := if x.arrived.contains g then x.arrived else x.arrived ++ [g] })

def defBarArrive (i : Issue) (group : BitVec 8) : SlotDef :=
  { ySlot i [] with fault := fun k => memberFault k group.toNat, eff := fun k m => arrive m k.th group.toNat }
/-- BAR.ARRIVE (log 57, DESIGN CHOICE). -/
def execBarArrive (i : Issue) (group : BitVec 8) (s : State) := issueSlot s i (.barArrive i group) (defBarArrive i group)

def defBarWait (i : Issue) (group : BitVec 8) : SlotDef :=
  { ySlot i [] with
    stall := fun k => if isMember k.x group.toNat && k.x.arrived.contains group.toNat then 6 else 0
    fault := fun k => memberFault k group.toNat }
/-- BAR.WAIT. -/
def execBarWait (i : Issue) (group : BitVec 8) (s : State) := issueSlot s i (.barWait i group) (defBarWait i group)

/-- The contexts, listed in the state, that are members of a group. -/
def membersOf (m : Mod) (g : Nat) : List Nat := (allThreads m).filter (fun t => isMember (ctx m t) g)

/-- A group completes when it has members and each has arrived: their flags are cleared (R37). -/
def completeGroup (m : Mod) (g : Nat) : Mod :=
  let ms := membersOf m g
  if ms.isEmpty || !ms.all (fun t => (ctx m t).arrived.contains g) then m
  else ms.foldl (fun m t => setCtx m t (fun x => { x with arrived := x.arrived.filter (· != g) })) m

/-- BARRIER_COMPLETE. A group that is not complete stays as it is. -/
def execBarrierComplete (group : BitVec 8) (s : State) : Host.Outcome State Fault Refusal := .next { s with mod := completeGroup s.mod group.toNat }

/-! ## Fences (R456, R457) -/

/-- Which targets a fence covers for writes (R456). -/
inductive FenceScope where
  | c | m | f
  deriving DecidableEq, Repr

/-- Does the fence cover the target of a write? -/
def FenceScope.covers (sc : FenceScope) (q : Nat) (a : Access) : Bool :=
  match sc, a.peer with
  | .f, _ => true
  | .m, p => p.isNone
  | .c, some _ => false
  | .c, none => match regionOf a.addr with
    | .cm k _ => k == q
    | .lm k _ | .sdm k _ => k / 16 == q
    | _ => false

/-- Does an access of the thread hold its fence back? -/
def fenceHeld (m : Mod) (th : Nat) (sc : FenceScope) : Bool :=
  m.accs.any (fun a =>
    a.thread.toNat == th && a.gen == (ctx m th).gen &&
    (a.kind.reads || (sc.covers (th / 64) a && !writeDone a)))

def fenceDef (i : Issue) (sc : FenceScope) : SlotDef := { ySlot i [] with stall := fun k => if fenceHeld k.m k.th sc then 7 else 0 }

def defFenceC (i : Issue) : SlotDef := fenceDef i .c
/-- FENCE.C. -/
def execFenceC (i : Issue) (s : State) := issueSlot s i (.fenceC i) (defFenceC i)
def defFenceM (i : Issue) : SlotDef := fenceDef i .m
/-- FENCE.M. -/
def execFenceM (i : Issue) (s : State) := issueSlot s i (.fenceM i) (defFenceM i)
def defFenceF (i : Issue) : SlotDef := fenceDef i .f
/-- FENCE.F. -/
def execFenceF (i : Issue) (s : State) := issueSlot s i (.fenceF i) (defFenceF i)

/-! ## EVWAIT (R428) -/

/-- An event counter (R570). -/
def evCounter (m : Mod) (n : Nat) : BitVec 32 := tblGet 0 m.hq.evc n

/-- Does a counter satisfy a wait for a value: (counter - value) mod 2^32 below 2^31 (R428, R566)? -/
def reached (c v : BitVec 32) : Bool := decide ((c - v).toNat < 2 ^ 31)

/-- The counter that operand a of EVWAIT names. -/
def waitCounter (m : Mod) (th : Nat) (a : Word) : BitVec 32 :=
  if bitOf a.toNat 63 then evCounter m (a.toNat % 65536) else tblGet 0 (ctx m th).ctrs (a.toNat % 8)

/-- A reserved bit of operand a is set. -/
def waitReserved (a : Word) : Bool := if bitOf a.toNat 63 then fld a.toNat 16 47 != 0 else fld a.toNat 3 60 != 0

/-- A thread held by an EVWAIT whose condition holds goes on. -/
def evCheck (m : Mod) (t : Nat) : Mod :=
  match (ctx m t).hold with
  | some h => match h.kind with
    | .evwait a b => if reached (waitCounter m t a) (b.setWidth 32) then finishHold m t else m
    | _ => m
  | none => m

/-- Every thread that waits for an event, checked. -/
def evCheckAll (m : Mod) : Mod := (allThreads m).foldl evCheck m

def defEvwait (i : Issue) (a b : Spec) : SlotDef :=
  { ySlot i [a, b] with
    fault := fun k => if waitReserved (k.s .y a) then some (syncFault .y 0x21 1 0) else none
    hold := some { kind := fun k => .evwait (k.s .y a) (k.s .y b), start := fun k _ m => evCheck m k.th } }
/-- EVWAIT: it holds its thread until the counter reaches the value. -/
def execEvwait (i : Issue) (a b : Spec) (s : State) := issueSlot s i (.evwait i a b) (defEvwait i a b)

end Sys2Proof.Machine
end

