-- ==== Sys2Proof/Machine/Units.lean ====
section
/-! DEFINITION. The setup registers of the units, each read and written as its map says (R9 to R13): rings and event counters (R545 to R572), debug units (R344, R345, R408), timebase and telemetry (R646, R647), power (R660). A write is given the bits of the accessed half as a mask. -/

namespace Sys2Proof.Machine

/-! ## Fields under a mask -/

/-- The register after a write: the written half from the value, the other as it stands (R13). -/
def masked (old v mask : Word) : Nat := (merge old v mask).toNat

/-- Does the access cover bit `i`? -/
def covers (mask : Word) (i : Nat) : Bool := bitOf mask.toNat i

/-- Is bit `i` written as 1? -/
def wrote (v mask : Word) (i : Nat) : Bool := bitOf v.toNat i && covers mask i

/-! ## The host queue engine's registers (R543 to R548, R570 to R572) -/

/-- A submission ring of a port. -/
def sringOf (m : Mod) (p : Bool) (n : Nat) : SRing := tblGet {} (portOfHost m p).srings n
/-- A completion ring of a port. -/
def cringOf (m : Mod) (p : Bool) (n : Nat) : CRing := tblGet {} (portOfHost m p).crings n
/-- A submission ring changed. -/
def setSring (m : Mod) (p : Bool) (n : Nat) (f : SRing → SRing) : Mod := setPort m p (fun k => { k with srings := tblMod {} k.srings n f })
/-- A completion ring changed. -/
def setCring (m : Mod) (p : Bool) (n : Nat) (f : CRing → CRing) : Mod := setPort m p (fun k => { k with crings := tblMod {} k.crings n f })

/-- HQI_SQCTL (R547). -/
def sqctlRead (r : SRing) : Word :=
  w64 (b1 r.en * 2 ^ 63 + r.prio.toNat * 2 ^ 58 + r.err.toNat * 2 ^ 56 + r.lsize.toNat * 2 ^ 48 + r.tail.toNat * 2 ^ 32 + r.head.toNat)

/-- An error stops a ring (R547). -/
def SRing.stop (r : SRing) (err : BitVec 2) : SRing := { r with err := err, en := false }

/-- A write of HQI_SQCTL: 1 over 0 in en clears head, tail and err, and checks lsize (R547). -/
def sqctlWrite (r : SRing) (v mask : Word) : SRing :=
  let n := masked (sqctlRead r) v mask
  let on := bitOf n 63
  let r1 := { r with en := on, prio := BitVec.ofNat 3 (fld n 58 3), lsize := BitVec.ofNat 5 (fld n 48 5) }
  if on && !r.en then
    let r2 := { r1 with head := 0, tail := 0, err := 0 }
    if r2.lsize = 0 ∨ 16 < r2.lsize.toNat then r2.stop 3 else r2
  else r1

/-- HQI_CQCTL (R548). -/
def cqctlRead (r : CRing) : Word :=
  w64 (b1 r.en * 2 ^ 63 + b1 r.phase * 2 ^ 62 + r.ithresh.toNat * 2 ^ 56 + r.lsize.toNat * 2 ^ 48 + r.tail.toNat * 2 ^ 32 +
    r.itime.toNat * 2 ^ 27 + r.vector.toNat * 2 ^ 16 + r.head.toNat)

/-- A write of HQI_CQCTL: 1 over 0 in en clears head and tail and sets phase (R548). -/
def cqctlWrite (r : CRing) (v mask : Word) : CRing :=
  let n := masked (cqctlRead r) v mask
  let on := bitOf n 63
  let r1 := { r with en := on, ithresh := BitVec.ofNat 6 (fld n 56 6), lsize := BitVec.ofNat 5 (fld n 48 5),
                     itime := BitVec.ofNat 5 (fld n 27 5), vector := BitVec.ofNat 11 (fld n 16 11) }
  if on && !r.en then { r1 with head := 0, tail := 0, phase := true, since := 0, firstAt := none } else r1

/-- An event counter set (R570); every EVWAIT on it is checked. -/
def setEvc (m : Mod) (n : Nat) (x : BitVec 32) : Mod := evCheckAll { m with hq := { m.hq with evc := tblPut m.hq.evc n x } }

/-- An increment added to an event counter (R570). -/
def addEvc (m : Mod) (n : Nat) (x : BitVec 32) : Mod := setEvc m n (evCounter m n + x)

/-- HQI_THINT: the HOST or DEBUG pending bit of a live thread (R571). -/
def thint (m : Mod) (t : Nat) (dbg : Bool) : Mod :=
  if isLive m t then setCtx m t (fun x => { x with pendInt := x.pendInt ||| (if dbg then 0x10 else 0x20) }) else m

/-- The value of an HQI_ register; none at a reserved offset (R545). -/
def hqiRead (m : Mod) (o : Nat) : Option Word :=
  if o < 0x40000 then
    let p := decide (0x20000 ≤ o)
    let n := o % 0x20000 / 0x20
    some (match o % 0x20 / 8 with
      | 0 => (sringOf m p n).base
      | 1 => sqctlRead (sringOf m p n)
      | 2 => (cringOf m p n).base
      | _ => cqctlRead (cringOf m p n))
  else if o = 0x40000 then some m.hq.port0.hwbase
  else if o = 0x40008 then some m.hq.port1.hwbase
  else if o = 0x40010 then some 0
  else if o = 0x40018 then some (w64 (m.hq.evvec1.toNat * 65536 + m.hq.evvec0.toNat))
  else if 0x100000 ≤ o ∧ o < 0x180000 then some (w64 (evCounter m ((o - 0x100000) / 8)).toNat)
  else if 0x180000 ≤ o ∧ o < 0x200000 then some 0
  else none

/-- A base with its reserved bits [n - 1 : 0] zero. -/
def baseFrom (n x : Nat) : Word := w64 (x / 2 ^ n * 2 ^ n)

/-- A write of an HQI_ register (R545 to R548, R570 to R572). -/
def hqiWrite (m : Mod) (o : Nat) (v mask : Word) : Mod :=
  if o < 0x40000 then
    let p := decide (0x20000 ≤ o)
    let n := o % 0x20000 / 0x20
    match o % 0x20 / 8 with
    | 0 => setSring m p n (fun r => { r with base := baseFrom 12 (masked r.base v mask) })
    | 1 => setSring m p n (fun r => sqctlWrite r v mask)
    | 2 => setCring m p n (fun r => { r with base := baseFrom 12 (masked r.base v mask) })
    | _ => setCring m p n (fun r => cqctlWrite r v mask)
  else if o = 0x40000 then setPort m false (fun k => { k with hwbase := baseFrom 43 (masked k.hwbase v mask) })
  else if o = 0x40008 then setPort m true (fun k => { k with hwbase := baseFrom 43 (masked k.hwbase v mask) })
  else if o = 0x40010 then (if covers mask 0 then thint m (v.toNat % 8192) (wrote v mask 63) else m)
  else if o = 0x40018 then
    if covers mask 0 then { m with hq := { m.hq with evvec1 := BitVec.ofNat 11 (fld v.toNat 16 11), evvec0 := BitVec.ofNat 11 (fld v.toNat 0 11) } } else m
  else if 0x100000 ≤ o ∧ o < 0x180000 then (if covers mask 0 then setEvc m ((o - 0x100000) / 8) (BitVec.ofNat 32 v.toNat) else m)
  else if 0x180000 ≤ o ∧ o < 0x200000 then (if covers mask 0 then addEvc m ((o - 0x180000) / 8) (BitVec.ofNat 32 v.toNat) else m)
  else m

/-! ## A core's debug unit and caches (R344 to R346, R317, R402, R403, R408, R409) -/

/-- An operation of DBG_CTXCTL starts, or ends at once with status 0x1 or 0x3 (R344, R346). HALT applies to a live context that is not halted (log 28, DEDUCED). The
confinements take effect as they start, and KILL starts a thread reset (R604); the others take effect as they complete (log 56, DEDUCED). -/
def dbgStart (m : Mod) (c op i : Nat) : Mod :=
  let t := 4 * c + i
  let x := ctx m t
  if (core m c).dbgBusy || op = 0 || 7 < op then m
  else
    let ok : Bool := match op with
      | 1 => x.live && !x.halted
      | 2 | 3 => x.live && x.halted
      | 4 => isFree m t
      | 5 => x.live
      | _ => true
    if op < 6 && !ok then setCore m c (fun k => { k with dbgStatus := 1 })
    else if 6 ≤ op && !(liveThreads m c).isEmpty then setCore m c (fun k => { k with dbgStatus := 3 })
    else
      let m := setCore m c (fun k => { k with dbgBusy := true, dbgOp := some { op := BitVec.ofNat 4 op, ctx := BitVec.ofNat 2 i, starts := x.starts } })
      if op = 5 then killThread m t
      else if op = 6 then setCore m c (fun k => { k with conf := true })
      else if op = 7 then setCore m c (fun k => { k with conf := false })
      else m

/-- DBG_CCTL.unlock: every lock bit of the data cache cleared; a line without data is then gone (R403, R408). -/
def unlockAll (m : Mod) (c : Nat) : Mod :=
  setCore m c (fun k =>
    { k with dcache := (k.dcache.map (fun l => { l with lock := false })).filter (fun l => l.valid) })

/-- DBG_CCTL.icinv: the instruction cache invalidated whole (R396, R408). -/
def icinvAll (m : Mod) (c : Nat) : Mod := setCore m c (fun k => { k with icache := [] })

/-- A locked line whose data are invalidated. -/
def DLine.emptied (l : DLine) : DLine := { l with valid := false, poison := false, prefetched := false, err := [], data := [] }

/-- DBG_CCTL.dcinv: the data of every line invalidated, locks kept (R408). -/
def dcinvAll (m : Mod) (c : Nat) : Mod :=
  setCore m c (fun k => { k with dcache := (k.dcache.filter (fun l => l.lock)).map DLine.emptied })

/-- DBG_CCTL (R408). -/
def cctlRead (m : Mod) (c : Nat) : Word :=
  let k := core m c
  w64 (k.pfdist.toNat * 65536 + b1 (m.pwr.level != 0) * 256 + b1 k.ipfen * 8 + b1 k.dpfen * 4)

/-- A write of DBG_CCTL; the operations take effect at once, within the 2 us of R409 (log 40, DESIGN CHOICE). -/
def cctlWrite (m : Mod) (c : Nat) (v mask : Word) : Mod :=
  if !covers mask 0 then m
  else
    let n := v.toNat
    let m := setCore m c (fun k =>
      { k with pfdist := BitVec.ofNat 4 (fld n 16 4), ipfen := bitOf n 3, dpfen := bitOf n 2, streams := if bitOf n 2 then k.streams else [] })
    let m := if bitOf n 29 then dcinvAll m c else m
    let m := if bitOf n 31 then unlockAll m c else m
    if bitOf n 30 then icinvAll m c else m

/-- DBG_CTXCTL as it reads (R344). -/
def ctxctlRead (m : Mod) (c : Nat) : Word :=
  let k := core m c
  let halted := (List.range 4).foldl (fun s i => s + b1 (isLive m (4 * c + i) && (ctx m (4 * c + i)).halted) * 2 ^ (12 + i)) 0
  w64 (b1 k.dbgBusy * 2 ^ 31 + k.dbgStatus.toNat * 2 ^ 24 + halted)

/-! ## Cluster, core and context registers (R36, R441 to R445, R494, R495) -/

/-- The tags held by the chunks of a queue of an engine. -/
def tagsHeld (m : Mod) (q queue : Nat) : Nat := ((cluster m q).chunks.filter (fun c => c.queue == queue)).length

/-- The value of a register in the block of a cluster; none at a reserved offset (R495). -/
def clusterRead (m : Mod) (q o : Nat) : Option Word :=
  let c := cluster m q
  match o with
  | 0x00 => some (w64 c.mcTimeout.toNat)
  | 0x08 => some (w64 c.ingressAge.toNat)
  | 0x10 => some c.seed0
  | 0x18 => some c.seed1
  | 0x20 => some (w64 (c.ce.toNat * 2 ^ 32 + c.ue.toNat * 2 ^ 16))
  | 0x28 => some (w64 (b1 c.ueValid * 2 ^ 63 + c.ueAddr / 64 * 64 % 2 ^ 35))
  | _ => none

/-- A write of a register in the block of a cluster. -/
def clusterWrite (m : Mod) (q o : Nat) (v mask : Word) : Mod :=
  match o with
  | 0x00 => if covers mask 0 then setCluster m q (fun c => { c with mcTimeout := BitVec.ofNat 32 v.toNat }) else m
  | 0x08 => if covers mask 0 then setCluster m q (fun c => { c with ingressAge := BitVec.ofNat 16 v.toNat }) else m
  | 0x10 => setCluster m q (fun c => { c with seed0 := merge c.seed0 v mask })
  | 0x18 => setCluster m q (fun c => { c with seed1 := merge c.seed1 v mask })
  | 0x28 => if wrote v mask 63 then setCluster m q (fun c => { c with ueValid := false }) else m
  | _ => m

/-- The RC fields of a cluster's register that an access of `mask` clears. -/
def clusterClear (m : Mod) (q o : Nat) (mask : Word) : Mod :=
  if o = 0x20 then
    setCluster m q (fun c => { c with ce := if covers mask 32 then 0 else c.ce, ue := if covers mask 16 then 0 else c.ue })
  else m

/-- The value of a register of a context (R442, R443); the 64-byte STRM_SUBMIT port reads zero (R13). -/
def contextRead (m : Mod) (t o : Nat) : Option Word :=
  let x := ctx m t
  if o < 0x40 then some 0
  else if o = 0x40 then some (w64 (x.seq.toNat * 2 ^ 32 + tagsHeld m (t / 64) (t % 64) * 2 ^ 12 + x.outstanding))
  else if o ≤ 0x60 then
    let k := (o - 0x48) / 8
    some (w64 ((tblGet 0 x.ctrs (2 * k + 1)).toNat * 2 ^ 32 + (tblGet 0 x.ctrs (2 * k)).toNat))
  else none

/-- The value of a register in the block of a core; none at a reserved offset (R495). -/
def coreRead (m : Mod) (c o : Nat) : Option Word :=
  let k := core m c
  if o = 0 then some (ctxctlRead m c)
  else if o = 8 then some k.saveBase
  else if o = 0x10 then some (w64 (k.dfBase.toNat * 256))
  else if o = 0x18 then some (cctlRead m c)
  else if o = 0x20 then some (w64 k.strmCap.toNat)
  else if 0x100 ≤ o ∧ o < 0x500 then contextRead m (4 * c + (o - 0x100) / 0x100) (o % 0x100)
  else if 0x500 ≤ o ∧ o < 0x580 then some (tblGet 0 (ctx m (4 * c + (o - 0x500) / 32)).barmem (o % 32 / 8))
  else none

/-- A write of DBG_BARMEMw of a context (R36). -/
def barmemWrite (m : Mod) (t w : Nat) (v mask : Word) : Mod :=
  setCtx m t (fun x => { x with barmem := tblMod 0 x.barmem w (fun old => merge old v mask) })

/-- A write of a register in the block of a core. DBG_DFSP is written only while the core is held in reset (R317). -/
def coreWrite (m : Mod) (c o : Nat) (v mask : Word) : Mod :=
  if o = 0 then (if covers mask 0 then dbgStart m c (fld v.toNat 0 4) (fld v.toNat 4 2) else m)
  else if o = 8 then setCore m c (fun k => { k with saveBase := w64 (fld (masked k.saveBase v mask) 16 31 * 65536) })
  else if o = 0x10 then
    if ((core m c).inReset || m.sec.stage != 3) && covers mask 0 then setCore m c (fun k => { k with dfBase := BitVec.ofNat 8 (fld v.toNat 8 8) }) else m
  else if o = 0x18 then cctlWrite m c v mask
  else if o = 0x20 then (if covers mask 0 then setCore m c (fun k => { k with strmCap := BitVec.ofNat 9 v.toNat }) else m)
  else if 0x500 ≤ o ∧ o < 0x580 then barmemWrite m (4 * c + (o - 0x500) / 32) (o % 32 / 8) v mask
  else m

/-! ## FAB_ (R534 to R539) -/

/-- FAB_LSTAT (R538). -/
def lstatRead (k : Link) : Word :=
  w64 (k.state.toNat * 2 ^ 61 + k.peer.toNat * 2 ^ 40 + k.pbundle.toNat * 2 ^ 36 + k.lanes.toNat * 2 ^ 32 + k.margin.toNat * 2 ^ 24 +
    k.flight.toNat * 2 ^ 16 + k.retries.toNat * 256 + k.uce.toNat)

/-- FAB_CTL (R536). -/
def fabCtlRead (f : Fabric) : Word :=
  w64 (b1 f.en * 2 ^ 63 + f.txto.toNat * 2 ^ 40 + f.stuck.toNat * 2 ^ 24 + f.uceLimit.toNat * 256 + f.mode.toNat)

/-- FAB_ID (R535). -/
def fabIdRead (f : Fabric) : Word := w64 (f.id.toNat * 2 ^ 48 + f.sizes.toNat)

/-- The value of a FAB_ register; none at a reserved offset (R534). -/
def fabRead (m : Mod) (o : Nat) : Option Word :=
  let f := m.fab
  if o = 0 then some (fabIdRead f)
  else if o = 8 then some (fabCtlRead f)
  else if o = 0x10 then some (w64 (b1 f.root * 2 ^ 63 + f.parent.toNat * 2 ^ 56 + f.offset.toNat))
  else if o = 0x18 then some (w64 (f.detourFail.toNat * 2 ^ 48 + f.discard.toNat * 2 ^ 32 + f.stuckCount.toNat * 65536 + f.floodDrop.toNat))
  else if 0x100 ≤ o ∧ o < 0x400 then some (lstatRead (linkOf m ((o - 0x100) / 8)))
  else if 0x400 ≤ o ∧ o < 0x600 then some (downOf m ((o - 0x400) / 8))
  else none

/-- FAB_ID after a write: ignored when it breaks R519 (R535). -/
def fabIdWrite (m : Mod) (v mask : Word) : Mod :=
  let n := masked (fabIdRead m.fab) v mask
  let sizes : BitVec 48 := BitVec.ofNat 48 n
  if fabIdOk sizes (fld n 48 16) then { m with fab := { m.fab with id := BitVec.ofNat 16 (fld n 48 16), sizes := sizes } } else m

/-- FAB_CTL.en goes to 1: connected links train, the others stay disabled; to 0: those that run go DOWN (R497, R525, R532, R536). -/
def enableLinks (m : Mod) (on : Bool) : Mod :=
  let m := { m with fab := { m.fab with en := on } }
  (List.range 96).foldl (fun m l =>
    if (linkOf m l).state = 2 then lowerLink m l 0
    else setLink m l (fun k => { k.fresh (if !on then 0 else if mayTrain m l then 1 else 3) with downAt := m.now })) m

/-- A write of FAB_CTL (R536). -/
def fabCtlWrite (m : Mod) (v mask : Word) : Mod :=
  let n := masked (fabCtlRead m.fab) v mask
  let on := bitOf n 63
  let was := m.fab.en
  let m := { m with fab := { m.fab with txto := BitVec.ofNat 16 (fld n 40 16), stuck := BitVec.ofNat 16 (fld n 24 16), uceLimit := BitVec.ofNat 16 (fld n 8 16) } }
  if on != was then enableLinks m on else m

/-- A write of a FAB_ register. -/
def fabWrite (m : Mod) (o : Nat) (v mask : Word) : Mod :=
  if o = 0 then fabIdWrite m v mask
  else if o = 8 then fabCtlWrite m v mask
  else if o = 0x10 then
    -- A root counts freely: a slew that is under way ends (R628).
    if covers mask 32 then
      { m with fab := { m.fab with root := bitOf v.toNat 63, parent := BitVec.ofNat 4 (fld v.toNat 56 4) }
               tb := if bitOf v.toNat 63 then { m.tb with slewLeft := 0, slewAt := 0 } else m.tb }
    else m
  else if 0x400 ≤ o ∧ o < 0x600 then
    let i := (o - 0x400) / 8
    let m := { m with fab := { m.fab with down := tblPut m.fab.down i (w64 (masked (downOf m i) v mask) &&& 0x800F00FF0000FFFF) } }
    breakUnreachable m
  else m

/-- The RC fields of a FAB_ register that an access clears. -/
def fabClear (m : Mod) (o : Nat) (mask : Word) : Mod :=
  if o = 0x18 then
    { m with fab := { m.fab with
      detourFail := if covers mask 48 then 0 else m.fab.detourFail, discard := if covers mask 32 then 0 else m.fab.discard,
      stuckCount := if covers mask 16 then 0 else m.fab.stuckCount, floodDrop := if covers mask 0 then 0 else m.fab.floodDrop } }
  else if 0x100 ≤ o ∧ o < 0x400 then
    if covers mask 0 then setLink m ((o - 0x100) / 8) (fun k => { k with retries := 0, uce := 0 }) else m
  else m

/-! ## HBM_PLACE (R484, R485) -/

/-- The ports' regions whose mode a write of HBM_PLACEj changes: cluster q's region 24 q + j. -/
def placeChanges (old new : BitVec 17) : List Nat :=
  (List.range 128).filter (fun q =>
    bitOf old.toNat 16 != bitOf new.toNat 16 || (!bitOf new.toNat 16 && bitOf old.toNat (q / 16) != bitOf new.toNat (q / 16)))

/-- A write of HBM_PLACEj: the contents of every region whose mode changes are unspecified, and not poisoned (R485). In HBM_PLACE23, module and die bit 7 read 0 (R484). -/
def placeWrite (m : Mod) (j : Nat) (v mask : Word) : Mod :=
  let old := placeOf m j
  let n := masked (w64 old.toNat) v mask
  let keep : BitVec 17 := if j = 23 then 0x7F else 0x100FF
  let new := BitVec.ofNat 17 n &&& keep
  let m := { m with place := tblPut m.place j new }
  (placeChanges old new).foldl (fun m q =>
    { m with mem := m.mem.scramble (24 * q + j) }) m

/-! ## TB_ and telemetry (R646, R647) -/

/-- TB_MPCTL (R646). -/
def mpctlRead (p : Milepost) : Word := w64 (b1 p.en * 2 ^ 63 + b1 p.irq * 2 ^ 62 + b1 p.snap * 2 ^ 61 + p.job.toNat)

/-- TB_TRIGCTL (R646). -/
def trigctlRead (p : TrigPin) : Word :=
  w64 (b1 p.en * 2 ^ 63 + b1 p.out * 2 ^ 62 + p.edge.toNat * 2 ^ 60 + p.mp.toNat * 2 ^ 56 + p.width.toNat)

/-- A comparator. -/
def mpOf (m : Mod) (k : Nat) : Milepost := tblGet {} m.tb.mps k
/-- A comparator changed. -/
def setMp (m : Mod) (k : Nat) (f : Milepost → Milepost) : Mod := { m with tb := { m.tb with mps := tblMod {} m.tb.mps k f } }
/-- A trigger pin. -/
def pinOf (m : Mod) (i : Nat) : TrigPin := tblGet {} m.tb.pins i
/-- A trigger pin changed. -/
def setPin (m : Mod) (i : Nat) (f : TrigPin → TrigPin) : Mod := { m with tb := { m.tb with pins := tblMod {} m.tb.pins i f } }

/-- The value of a TB_ register; none at a reserved offset (R646). -/
def tbRead (m : Mod) (o : Nat) : Option Word :=
  if o = 0 then some m.tb.time
  else if o = 8 then some (w64 (m.tb.stepmin.toNat * 2 ^ 32 + b1 m.tb.unsync * 4 + b1 m.tb.locked * 2 + b1 m.tb.slew))
  else if 0x100 ≤ o ∧ o < 0x300 then
    let p := mpOf m ((o - 0x100) / 32)
    some (match o % 32 / 8 with
      | 0 => p.time
      | 1 => mpctlRead p
      | 2 => w64 p.period.toNat
      | _ => w64 (p.fired.toNat * 2 ^ 32 + p.missed.toNat))
  else if 0x400 ≤ o ∧ o < 0x480 then
    let p := pinOf m ((o - 0x400) / 16)
    some (if o % 16 = 0 then trigctlRead p else p.stamp)
  else none

/-- A write of register `r` of comparator `k`: a comparator whose time is past then fires at the next tick (R630). -/
def mpWrite (m : Mod) (k r : Nat) (v mask : Word) : Mod :=
  let m := setMp m k (fun p => { p with armed := m.tb.ticks })
  match r with
  | 0 => setMp m k (fun p => { p with time := merge p.time v mask })
  | 1 => setMp m k (fun p =>
      let n := masked (mpctlRead p) v mask
      { p with en := bitOf n 63, irq := bitOf n 62, snap := bitOf n 61, job := BitVec.ofNat 16 n })
  | 2 => setMp m k (fun p => { p with period := BitVec.ofNat 40 (masked (w64 p.period.toNat) v mask) })
  | _ => m

/-- A write of a TB_ register. One of a comparator's in the tick at which it fires waits for the firing (R631). -/
def tbWrite (m : Mod) (o : Nat) (v mask : Word) : Mod :=
  if o = 8 then
    let n := masked (w64 (m.tb.stepmin.toNat * 2 ^ 32 + b1 m.tb.slew)) v mask
    { m with tb := { m.tb with stepmin := BitVec.ofNat 32 (fld n 32 32), slew := bitOf n 0 } }
  else if 0x100 ≤ o ∧ o < 0x300 then
    let k := (o - 0x100) / 32
    let r := o % 32 / 8
    if 3 ≤ r then m
    else if (mpOf m k).due m.tb then setMp m k (fun p => { p with late := p.late ++ [(r, v, mask)] })
    else mpWrite m k r v mask
  else if 0x400 ≤ o ∧ o < 0x480 then
    if o % 16 = 0 then
      setPin m ((o - 0x400) / 16) (fun p =>
        let n := masked (trigctlRead p) v mask
        { p with en := bitOf n 63, out := bitOf n 62, edge := BitVec.ofNat 2 (fld n 60 2), mp := BitVec.ofNat 4 (fld n 56 4), width := BitVec.ofNat 32 n })
    else m
  else m

/-- The RC fields of a TB_ register that an access clears. -/
def tbClear (m : Mod) (o : Nat) (mask : Word) : Mod :=
  if 0x100 ≤ o ∧ o < 0x300 ∧ o % 32 = 24 then
    if covers mask 0 then setMp m ((o - 0x100) / 32) (fun p => { p with missed := 0 }) else m
  else m

/-- PWR_TELCTL (R647). -/
def telctlRead (t : Timebase) : Word := w64 (b1 t.telEn * 2 ^ 63 + t.telLsize.toNat * 2 ^ 32 + t.telKinds.toNat)

/-! ## PWR_ (R660) -/

/-- PWR_STATE as it reads. -/
def pwrStateRead (p : Power) : Word := w64 (b1 p.refused * 2 ^ 50 + p.state.toNat * 2 ^ 48 + p.idleUs.toNat * 65536 + p.req.toNat)

/-- The core clock in effect, in MHz (R651, R658). -/
def clockMhz (p : Power) : Nat :=
  let shed := if 2 ≤ p.level then 600 else 800
  min shed p.capClk

/-- PWR_CAP as it reads. -/
def pwrCapRead (p : Power) : Word := w64 (b1 p.capEn * 2 ^ 63 + clockMhz p * 2 ^ 32 + issueCap p * 65536 + p.watts.toNat)

/-- The value of a PWR_ register; none at a reserved offset (R647, R660). -/
def pwrRead (m : Mod) (o : Nat) : Option Word :=
  let p := m.pwr
  let t := m.tb
  if o = 0 then some (pwrStateRead p)
  else if o = 8 then some (w64 (p.vin.toNat * 2 ^ 48 + p.entries.toNat * 2 ^ 32 + p.level))
  else if o = 0x10 then some (pwrCapRead p)
  else if 0x100 ≤ o ∧ o < 0x100 + 8 * 23 then
    let r := (o - 0x100) / 8
    some (w64 ((if r = 22 then p.railMv.toNat else 0) * 2 ^ 48 + (tblGet 0 p.railMw r).toNat))
  else if 0x200 ≤ o ∧ o < 0x200 + 8 * 23 then some (w64 (tblGet 0 p.railNj ((o - 0x200) / 8) / 1000))
  else if o = 0x800 then some t.telBase
  else if o = 0x808 then some (telctlRead t)
  else if o = 0x810 then some (w64 t.telHead.toNat)
  else if o = 0x818 then some (w64 (t.telLost.toNat * 2 ^ 48 + t.telTail.toNat))
  else none

/-- The RC fields of a PWR_ register that an access clears. -/
def pwrClear (m : Mod) (o : Nat) (mask : Word) : Mod :=
  if o = 8 then (if covers mask 32 then { m with pwr := { m.pwr with entries := 0 } } else m)
  else if o = 0x818 then (if covers mask 48 then { m with tb := { m.tb with telLost := 0 } } else m)
  else m

/-! ## The steward's bridges (R27) -/

/-- The steward bridge that carries the traffic between the steward and a cluster tile: false the one at cluster 0x00, which serves dies 7, 0, 1 and 2, true the one at
cluster 0x40, which serves dies 3 to 6; the other one when that is down. With both down there is none, and the traffic waits (log 100, DESIGN CHOICE). -/
def bridgeFor (m : Mod) (q : Nat) : Option Bool :=
  let near := decide (3 ≤ q / 16 ∧ q / 16 ≤ 6)
  if !m.bridgeDown.contains near then some near else if !m.bridgeDown.contains (!near) then some (!near) else none

/-- Does the steward's traffic reach a cluster tile? -/
def stewardReaches (m : Mod) (q : Nat) : Bool := (bridgeFor m q).isSome

end Sys2Proof.Machine
end

