-- ==== Sys2Proof/Machine/HostOps.lean ====
section
/-! DEFINITION. Descriptors of the host queue engine below their commands: their fields (R553, R561), completion (R573 to R575, R595, R615), jobs and their abort (R569, R616, R617, R619). -/

namespace Sys2Proof.Machine

/-! ## Fields of a descriptor (R553) -/

/-- Word i of a record's descriptor, as a number. -/
def Rec.w (x : Rec) (i : Nat) : Nat := (x.words.getD i 0).toNat
/-- The opcode. -/
def Rec.op (x : Rec) : Nat := fld (x.w 0) 32 8
/-- The job. -/
def Rec.job (x : Rec) : Nat := fld (x.w 0) 0 16
/-- The epoch in the header. -/
def Rec.ep (x : Rec) : Byte := BitVec.ofNat 8 (fld (x.w 0) 16 8)
/-- The job tags, laid out as cr.job. -/
def Rec.tags (x : Rec) : BitVec 29 := BitVec.ofNat 29 (x.w 0)
/-- The replay class: 0 IDEMPOTENT, 1 CHECKPOINT, 2 ONCE. -/
def Rec.cls (x : Rec) : Nat := fld (x.w 0) 27 2
/-- The completion ring. -/
def Rec.cring (x : Rec) : BitVec 12 := BitVec.ofNat 12 (fld (x.w 0) 48 12)
/-- A completion with status OK writes no entry. -/
def Rec.silent (x : Rec) : Bool := bitOf (x.w 0) 41
/-- Starts only after every earlier descriptor of its ring has completed. -/
def Rec.fence (x : Rec) : Bool := bitOf (x.w 0) 40
/-- The tag. -/
def Rec.tag (x : Rec) : BitVec 32 := BitVec.ofNat 32 (x.w 1)
/-- The deadline in us. -/
def Rec.deadline (x : Rec) : Nat := fld (x.w 1) 32 32
/-- LAUNCH or PAIRED_LAUNCH. -/
def Rec.isLaunch (x : Rec) : Bool := x.op == 1 || x.op == 2
/-- COPY or FILL. -/
def Rec.isMove (x : Rec) : Bool := x.op == 3 || x.op == 4
/-- Has the descriptor started and not completed? -/
def Rec.active (x : Rec) : Bool := x.state == .started || x.state == .running

/-- A record, if it exists. -/
def recFind (m : Mod) (r : Nat) : Option Rec := tblFind m.hq.recs r

/-- The cluster whose engine runs a COPY or FILL (R561). -/
def Rec.cluster (x : Rec) : Nat := fld (x.w 2) 48 7

/-! ## Jobs (R569) -/

/-- An open job. -/
def jobFind (m : Mod) (j : Nat) : Option Job := tblFind m.hq.jobs j

/-- The epoch of an open job. -/
def jobEpoch (m : Mod) (j : Nat) : Option Byte := (jobFind m j).map Job.epoch

/-- Are the tags of work stale: the job is open at another epoch (R16, R517)? -/
def staleTags (m : Mod) (j : Nat) (e : Byte) : Bool :=
  match jobEpoch m j with
  | some k => k != e
  | none => false

/-- The same for tags laid out as cr.job. -/
def staleJob (m : Mod) (job : BitVec 29) : Bool := staleTags m (job.toNat % 65536) (BitVec.ofNat 8 (fld job.toNat 16 8))

/-- The member table of a job as the steward reads it, line by line at its ports in HBM (R24, R569): count two-byte identifiers at a module address in HBM or the SRAM window. -/
def readMembers (m : Mod) (j : Job) : Mod × List Nat :=
  let r := if isHbm j.members then
      (linesOf j.members (2 * j.count)).foldl (fun p l =>
        let x := readLine p.1 l.1
        (x.m, p.2 ++ sliceBytes x.data l.2.1 l.2.2)) (m, ([] : List Byte))
    else (m, m.mem.bytes j.members (2 * j.count))
  (r.1, (List.range j.count).map (fun i => ofBytes (sliceBytes r.2 (2 * i) 2)))

/-- The member table of a job names a module (R617). -/
def isMemberOf (m : Mod) (j : Job) (p : Nat) : Bool := (readMembers m j).2.contains p

/-! ## Completion (R573, R575, R595) -/

/-- The place of a descriptor in an event record: tag, port, ring (R621). -/
def descWord (x : Rec) : Word := w64 (x.tag.toNat * 2 ^ 32 + b1 x.port * 4096 + x.ring.toNat)

/-- A status recorded, and a completion entry owed unless it is a silent OK, or its port took a Function Level Reset (R544, R553, R595). A recorded status never changes. -/
def completePlain (m : Mod) (r : Nat) (status : Byte) (result : Word) : Mod :=
  match recFind m r with
  | none => m
  | some x =>
    if x.state = .done then m
    else
      let m := setRec m r (fun x => { x with state := .done, status := status, result := result })
      if (x.silent && status == 0) || x.flr then m
      else
        let e : CEntry := { port := x.port, cring := x.cring, ring := x.ring, status := status, tag := x.tag, result := result, old := false }
        { m with hq := { m.hq with owed := m.hq.owed ++ [e] } }

/-- Every item of a descriptor is settled: it is not replayed. -/
def settleItems (m : Mod) (r : Nat) : Mod :=
  { m with hq := { m.hq with items := m.hq.items.map (fun e => if e.2.record == r then (e.1, { e.2 with ended := true, running := false }) else e) } }

/-! ## Stream descriptors and the epoch of their job (R424, R427) -/

/-- Word i of a stream descriptor, as a number. -/
def SDesc.w (d : SDesc) (i : Nat) : Nat := (d.words.getD i 0).toNat
/-- The number of rows. -/
def SDesc.rows (d : SDesc) : Nat := fld (d.w 0) 32 16 + 1
/-- The source bytes of a row. -/
def SDesc.rowBytes (d : SDesc) : Nat := fld (d.w 3) 0 32

/-- Has the descriptor chunks to issue? -/
def SDesc.more (m : Mod) (d : SDesc) : Bool :=
  !d.stopped && !d.aborted && !d.invalid && !staleJob m d.job && d.rowBytes != 0 && decide (d.row < d.rows)

/-- Is the index of a descriptor's row on its way? -/
def indexAsked (m : Mod) (q queue : Nat) (seq : BitVec 16) : Bool := asked m (fun o => o == .index q queue seq)

/-- Has a descriptor completed: nothing more to issue, and every issued chunk released (R424)? (log 67, DEDUCED). -/
def descDone (m : Mod) (q queue : Nat) (d : SDesc) : Bool :=
  d.invalid || (!d.more m && !((cluster m q).chunks.any (fun c => c.queue == queue && c.seq == d.seq)) && !indexAsked m q queue d.seq)

/-- Does a descriptor belong to a job? -/
def SDesc.ofJob (d : SDesc) (j : Nat) : Bool := d.job.toNat % 65536 == j

/-- Every descriptor of the engines changed, with its cluster and queue. -/
def mapDescs (m : Mod) (f : Nat → Nat → SDesc → SDesc) : Mod :=
  { m with clusters := m.clusters.map (fun c => (c.1, { c.2 with dqs := c.2.dqs.map (fun q => (q.1, q.2.map (f c.1 q.1))) })) }

/-- The descriptors of a job that have completed keep their status, whatever becomes of the job's epoch before they post (R424, R427). -/
def settleStreams (m : Mod) (j : Nat) : Mod :=
  mapDescs m (fun q queue d => if d.ofJob j && !staleJob m d.job && descDone m q queue d then { d with finished := true } else d)

/-- The stream descriptors of a job at an epoch that have not completed are aborted: their unissued chunks are dropped (R427, R617). -/
def abortStreams (m : Mod) (j : Nat) (e : Byte) : Mod :=
  mapDescs (settleStreams m j) (fun _ _ d =>
    if d.ofJob j && BitVec.ofNat 8 (fld d.job.toNat 16 8) == e && !d.finished then { d with aborted := true, stopped := true } else d)

/-- The lowest of a list of threads; 0 of none. -/
def firstThread (l : List Nat) : Nat := l.foldl (fun a t => min a t) (l.headD 0)

/-- The live threads of a job. -/
def jobThreads (m : Mod) (j : Nat) : List Nat := liveWhere m (fun _ x => x.job.toNat % 65536 == j)

/-- The uncompleted descriptors of a job, `skip` apart. -/
def jobRecs (m : Mod) (j skip : Nat) : List (Nat × Rec) :=
  m.hq.recs.filter (fun e => e.1 != skip && e.2.job == j && e.2.state != .done)

/-- The job's epoch advances by 1 (R569, R616, R617). -/
def advanceEpoch (m : Mod) (j : Nat) : Mod :=
  match jobFind m j with
  | none => m
  | some x => { m with hq := { m.hq with jobs := tblPut m.hq.jobs j { x with epoch := x.epoch + 1 } } }

/-- The descriptor of a COPY or FILL in the host queue of its engine. -/
def moveDescOf (m : Mod) (r : Nat) (x : Rec) : Option SDesc := (descsOf m x.cluster 64).find? (fun d => d.record == some r && d.thread.isNone)

/-- The chunks done of a COPY or FILL that is in no engine, as the journal holds them (R607). -/
def moveDone (m : Mod) (r : Nat) : Nat := (m.hq.items.find? (fun e => e.2.record == r)).elim 0 (fun e => e.2.pos)

/-- An uncompleted descriptor of a job that is aborted. One that runs ends with `status`: a launch once its threads have, with the lowest of them as its result; a COPY or FILL
once its issued chunks are released, with its done count (R424, R425, R565); a WAIT, a launch that reads its argument blocks and the rest now. One not started ends with
`fresh`, but for a JOB_OPEN, which no epoch makes STALE (R555). An ABORT_JOB goes on (R569, R617). -/
def abortRec (m : Mod) (status fresh : Byte) (thread : Nat) (r : Nat) (x : Rec) : Mod :=
  if x.op = 0x0B ∧ x.state != .recorded then m
  else if x.state = .recorded then (if x.op = 9 ∧ fresh = 0xB then m else completePlain m r fresh 0)
  else if x.isLaunch then
    if x.state = .running then
      blame (setRec (settleItems m r) r (fun x => { x with todo := [] })) r status (if status = 7 then 0 else w64 thread)
    else completePlain m r status 0
  else if x.isMove ∧ x.state = .running then
    match moveDescOf m r x with
    | some d => if descDone m x.cluster 64 d then m else blame m r status 0
    | none => completePlain (settleItems m r) r status (w64 (moveDone m r))
  else completePlain (settleItems m r) r status 0

/-- The work of a job is ended: threads by thread reset, streams aborted, descriptors with `status`, those not started with `fresh` (R569, R616, R617). Descriptor `skip`
keeps its own status. -/
def abortWork (m : Mod) (j skip : Nat) (status fresh : Byte) : Mod :=
  match jobFind m j with
  | none => m
  | some x =>
    let ts := jobThreads m j
    let m := (jobRecs m j skip).foldl (fun m e => abortRec m status fresh (firstThread ts) e.1 e.2) m
    let m := abortStreams (settleItems m skip) j x.epoch
    advanceEpoch (resetThreads m ts) j

/-- The steward floods a ROADBLOCK for a shared job at its current epoch, and records it (R616, R529, R621). -/
def sendRoadblock (m : Mod) (j reason : Nat) (desc : Word) : Mod :=
  match jobFind m j with
  | none => m
  | some x =>
    let m := flood m 0x20 false 0 0 m.fab.id.toNat reason j x.epoch.toNat
    logEvent m { type := 8, detail := reason, domain := 6, epoch := x.epoch.toNat, job := j, desc := desc }

/-- Is the job open and shared (R616)? -/
def isShared (m : Mod) (j : Nat) : Bool := (jobFind m j).elim false (fun x => x.count != 0)

/-- A descriptor completes. One of a shared job that ends HUNG, POISONED or ERROR floods a ROADBLOCK, and the rest of the job is aborted (R616). -/
def completeRec (m : Mod) (r : Nat) (status : Byte) (result : Word) : Mod :=
  match recFind m r with
  | none => m
  | some x =>
    if x.state = .done then m
    else
      let m := completePlain m r status result
      if (status == 8 || status == 1 || status == 3) && isShared m x.job && !staleTags m x.job x.ep then
        abortWork (sendRoadblock m x.job 1 (descWord x)) x.job r 7 7
      else m

/-! ## The kinds of thread that end (R593, R608) -/

/-- A job closes: its handles become invalid (R569, R580). -/
def closeJob (m : Mod) (j : Nat) : Mod :=
  { m with hq := { m.hq with
    jobs := tblDel m.hq.jobs j
    handles := m.hq.handles.map (fun h => if j != 0 && h.2.job.toNat == j then (h.1, { h.2 with valid := false }) else h) } }

/-- An empty journal (R597): every job closed, every handle invalid, no record left, and JOURNAL_LOST its first event record. -/
def loseJournal (m : Mod) : Mod :=
  let m := { m with
    hq := { m.hq with recs := [], owed := [], jobs := [], items := [], commits := [], loading := [], journalClosed := false,
                      handles := m.hq.handles.map (fun h => (h.1, { h.2 with valid := false })) }
    rcv := { m.rcv with evHead := 0, evTail := 0 } }
  logEvent m { type := 0xC, domain := 6 }

end Sys2Proof.Machine
end

