-- ==== Sys2Proof/Machine/Keccak.lean ====
section
/-! DEFINITION. SHAKE128 and SHAKE256 of FIPS 202 (R661) (log 76, PRESUMED). The state is one number of 1600 bits: lane (x, y) is bits 64 (5 y + x) and up, so that the bytes
of a message stand in it in their order. -/

namespace Sys2Proof.Machine

/-- Lane `i` of a state. -/
def laneOf (s i : Nat) : Nat := s >>> (64 * i) % 2 ^ 64

/-- A state of `n` lanes. -/
def lanesOf (n : Nat) (f : Nat → Nat) : Nat := (List.range n).foldl (fun s i => s + f i <<< (64 * i)) 0

/-- Rotation of a lane to the left. -/
def laneRot (x n : Nat) : Nat := (x <<< n ||| x >>> (64 - n)) % 2 ^ 64

/-- The rotation offsets of rho by lane 5 y + x. -/
def rhoOffsets : List Nat :=
  [0, 1, 62, 28, 27, 36, 44, 6, 55, 20, 3, 10, 43, 25, 39, 41, 45, 15, 21, 8, 18, 2, 61, 56, 14]

/-- theta: the five column parities, each lane with those of the columns beside its own. -/
def keccakTheta (s : Nat) : Nat :=
  let c := (List.range 5).foldl (fun p y => p ^^^ s >>> (320 * y) % 2 ^ 320) 0
  let d := lanesOf 5 (fun x => laneOf c ((x + 4) % 5) ^^^ laneRot (laneOf c ((x + 1) % 5)) 1)
  (List.range 5).foldl (fun s y => s ^^^ d <<< (320 * y)) s

/-- rho and pi: lane (x, y) of the result is lane (x + 3 y, x), rotated. -/
def keccakRhoPi (s : Nat) : Nat :=
  lanesOf 25 (fun i =>
    let j := 5 * (i % 5) + (i % 5 + 3 * (i / 5)) % 5
    laneRot (laneOf s j) (rhoOffsets.getD j 0))

/-- The lanes of a plane, each with the lane `n` further on in its place. -/
def planeTurn (p n : Nat) : Nat := (p >>> (64 * n) ||| p <<< (320 - 64 * n)) % 2 ^ 320

/-- chi: each lane with the complement of the next one met by the next but one. -/
def keccakChi (s : Nat) : Nat :=
  (List.range 5).foldl (fun r y =>
    let p := s >>> (320 * y) % 2 ^ 320
    let c := planeTurn p 2
    r + (p ^^^ (c ^^^ (planeTurn p 1 &&& c))) <<< (320 * y)) 0

/-- The round constants of iota. -/
def keccakRc : List Nat :=
  [0x0000000000000001, 0x0000000000008082, 0x800000000000808A, 0x8000000080008000, 0x000000000000808B, 0x0000000080000001,
   0x8000000080008081, 0x8000000000008009, 0x000000000000008A, 0x0000000000000088, 0x0000000080008009, 0x000000008000000A] ++
  [0x000000008000808B, 0x800000000000008B, 0x8000000000008089, 0x8000000000008003, 0x8000000000008002, 0x8000000000000080,
   0x000000000000800A, 0x800000008000000A, 0x8000000080008081, 0x8000000000008080, 0x0000000080000001, 0x8000000080008008]

/-- Keccak-f[1600]. -/
def keccakF (s : Nat) : Nat := keccakRc.foldl (fun s rc => keccakChi (keccakRhoPi (keccakTheta s)) ^^^ rc) s

/-- The blocks of a padded message, absorbed one by one. -/
def absorbAll (rate : Nat) : Nat → Nat → List Byte → Nat
  | 0, s, _ => s
  | n + 1, s, d => absorbAll rate n (keccakF (s ^^^ ofBytes (d.take rate))) (d.drop rate)

/-- The padding of SHAKE: 0x1F, zeros, 0x80 in the last byte of a block. -/
def shakePad (rate : Nat) (d : List Byte) : List Byte :=
  let k := rate - d.length % rate
  if k = 1 then d ++ [0x9F] else d ++ [0x1F] ++ List.replicate (k - 2) 0 ++ [0x80]

/-- The state after a message. -/
def sponge (rate : Nat) (d : List Byte) : Nat :=
  let p := shakePad rate d
  absorbAll rate (p.length / rate) 0 p

/-- Some blocks of output. -/
def squeeze (rate : Nat) : Nat → Nat → List Byte
  | 0, _ => []
  | n + 1, s => toBytes rate s ++ (if n = 0 then [] else squeeze rate n (keccakF s))

/-- SHAKE256 with an output of `n` bytes. -/
def shake256 (d : List Byte) (n : Nat) : List Byte := (squeeze 136 ((n + 135) / 136) (sponge 136 d)).take n

/-- The 64-byte digest of R661. -/
def digest (d : List Byte) : List Byte := shake256 d 64

end Sys2Proof.Machine
end

