-- ==== Sys2Proof/Machine/MlDsa.lean ====
section
/-! DEFINITION. ML-DSA-65 of FIPS 204 (R661, R664, R670, R675): key generation, hedged pure signing, verification (log 9, PRESUMED). A polynomial is the list of its 256
coefficients modulo q. The rejection loops are bounded, as FIPS 204 allows: a sampler that had run out would give zeros, and a signature that no round accepts is empty. -/

namespace Sys2Proof.Machine.MlDsa

/-! ## Polynomials -/

/-- The modulus. -/
def q : Nat := 8380417
/-- Dropped bits of t, ranges of the mask and of the low bits, and the bound of the challenge's products. -/
def gamma1 : Nat := 524288
def gamma2 : Nat := 261888
def beta : Nat := 196
/-- Rows and columns of the matrix, weight of the challenge, the most hints. -/
def rows : Nat := 6
def cols : Nat := 5
def tau : Nat := 49
def omega : Nat := 55

abbrev Poly := List Nat

def add (a b : Poly) : Poly := List.zipWith (fun x y => (x + y) % q) a b
def sub (a b : Poly) : Poly := List.zipWith (fun x y => (x + q - y) % q) a b
def mul (a b : Poly) : Poly := List.zipWith (fun x y => x * y % q) a b

/-- The distance of a coefficient from zero. -/
def mag (x : Nat) : Nat := min x (q - x)
/-- The greatest of them. -/
def norm (a : Poly) : Nat := (a.map mag).foldl max 0
/-- A signed number as a coefficient. -/
def ofInt (x : Int) : Nat := (x % (q : Int)).toNat

/-! ## The number-theoretic transform -/

/-- The bits of an 8-bit number reversed. -/
def brv (k : Nat) : Nat := (List.range 8).foldl (fun s i => s + k / 2 ^ i % 2 * 2 ^ (7 - i)) 0

/-- A power modulo q; `n` bits of the exponent. -/
def powMod (x : Nat) : Nat → Nat → Nat
  | 0, _ => 1
  | n + 1, e => (if e % 2 = 1 then x else 1) * powMod (x * x % q) n (e / 2) % q

/-- The root of unity of node `k`, and its inverse: 1753 has order 512. -/
def zeta (k : Nat) : Nat := powMod 1753 9 (brv k)
def zetaInv (k : Nat) : Nat := powMod 1753 9 (512 - brv k)

/-- The transform of the part of a polynomial at node `k`, `n` levels down. -/
def nttFrom : Nat → Nat → Poly → Poly
  | 0, _, l => l
  | n + 1, k, l =>
    let a := l.take (2 ^ n)
    let t := (l.drop (2 ^ n)).map (fun x => zeta k * x % q)
    nttFrom n (2 * k) (add a t) ++ nttFrom n (2 * k + 1) (sub a t)

/-- The inverse, but for the factor 256. -/
def invFrom : Nat → Nat → Poly → Poly
  | 0, _, l => l
  | n + 1, k, l =>
    let a := invFrom n (2 * k) (l.take (2 ^ n))
    let b := invFrom n (2 * k + 1) (l.drop (2 ^ n))
    add a b ++ (sub a b).map (fun x => zetaInv k * x % q)

def ntt (l : Poly) : Poly := nttFrom 8 1 l
def invNtt (l : Poly) : Poly := (invFrom 8 1 l).map (fun x => x * 8347681 % q)

/-- The sum of products of a row of the matrix and a vector. -/
def dot (a v : List Poly) : Poly := (List.zipWith mul a v).foldl add (List.replicate 256 0)

/-! ## Packing -/

/-- Coefficients of `b` bits as 32 b bytes. -/
def pack (b : Nat) (l : List Nat) : List Byte := toBytes (32 * b) (l.foldr (fun x n => x + 2 ^ b * n) 0)
/-- 256 numbers of `b` bits. -/
def unpack (b : Nat) (d : List Byte) : List Nat :=
  let n := ofBytes d
  (List.range 256).map (fun i => n / 2 ^ (b * i) % 2 ^ b)

/-- The pieces of `n` bytes of a string, `k` of them. -/
def chunksOf (n k : Nat) (d : List Byte) : List (List Byte) := (List.range k).map (fun i => sliceBytes d (n * i) n)

/-! ## Sampling -/

/-- `need` coefficients that the blocks of a sponge give, at most `n` blocks. -/
def sampled (rate : Nat) (f : Nat → List Nat) : Nat → Nat → Nat → Poly
  | 0, _, need => List.replicate need 0
  | n + 1, a, need =>
    let l := (f a).take need
    l ++ (if l.length < need then sampled rate f n (keccakF a) (need - l.length) else [])

/-- Coefficients from three bytes each of a block of 168 (RejNTTPoly). -/
def fromTriples (a : Nat) : List Nat :=
  (List.range 56).filterMap (fun i =>
    let z := a >>> (24 * i) % 2 ^ 23
    if z < q then some z else none)

/-- Coefficients from -4 to 4 from the half bytes of a block of 136 (RejBoundedPoly). -/
def fromHalves (a : Nat) : List Nat :=
  (List.range 272).filterMap (fun i =>
    let z := a >>> (4 * i) % 16
    if z < 9 then some ((q + 4 - z) % q) else none)

/-- The matrix, in the transform's domain (ExpandA). -/
def expandA (rho : List Byte) : List (List Poly) :=
  (List.range rows).map (fun r => (List.range cols).map (fun s =>
    sampled 168 fromTriples 64 (sponge 168 (rho ++ [BitVec.ofNat 8 s, BitVec.ofNat 8 r])) 256))

/-- A short polynomial (ExpandS). -/
def short (seed : List Byte) (r : Nat) : Poly := sampled 136 fromHalves 64 (sponge 136 (seed ++ toBytes 2 r)) 256

/-- A polynomial of the mask (ExpandMask). -/
def maskPoly (seed : List Byte) (k : Nat) : Poly := (unpack 20 (shake256 (seed ++ toBytes 2 k) 640)).map (fun x => (q + gamma1 - x) % q)

/-- The positions and signs of a challenge: from position `i` on. -/
def ballFrom (signs : Nat) : List Byte → Nat → Poly → Poly
  | [], _, c => c
  | b :: t, i, c =>
    if 256 ≤ i then c
    else if i < b.toNat then ballFrom signs t i c
    else
      let one := if signs / 2 ^ (i + tau - 256) % 2 = 1 then q - 1 else 1
      ballFrom signs t (i + 1) ((c.set i (c.getD b.toNat 0)).set b.toNat one)

/-- A challenge (SampleInBall). -/
def ball (seed : List Byte) : Poly :=
  let s := shake256 seed 544
  ballFrom (ofBytes (s.take 8)) (s.drop 8) (256 - tau) (List.replicate 256 0)

/-! ## High and low bits, hints -/

/-- Power2Round with d = 13: high and low part. -/
def power2 (r : Nat) : Nat × Nat :=
  let t := r % 8192
  if t ≤ 4096 then (r / 8192, t) else (r / 8192 + 1, q + t - 8192)

/-- Decompose. -/
def decompose (r : Nat) : Nat × Int :=
  let t := r % (2 * gamma2)
  let r0 : Int := if t ≤ gamma2 then t else (t : Int) - 2 * gamma2
  if (r : Int) - r0 = (q : Int) - 1 then (0, r0 - 1) else ((((r : Int) - r0) / (2 * gamma2)).toNat, r0)

def high (a : Poly) : List Nat := a.map (fun r => (decompose r).1)
def low (a : Poly) : Poly := a.map (fun r => ofInt (decompose r).2)

/-- UseHint. -/
def useHint (h : Bool) (r : Nat) : Nat :=
  let d := decompose r
  if !h then d.1 else if 0 < d.2 then (d.1 + 1) % 16 else (d.1 + 15) % 16

/-- MakeHint: does the addition of `z` change the high bits of `r`? -/
def hints (z r : Poly) : List Bool := List.zipWith (fun x y => (decompose y).1 != (decompose ((x + y) % q)).1) z r

/-- HintBitPack. -/
def packHints (l : List (List Bool)) : List Byte :=
  let at_ (h : List Bool) : List Byte := ((List.range 256).filter (fun i => h.getD i false)).map (BitVec.ofNat 8)
  let idx := l.flatMap at_
  let ends := (List.range rows).map (fun i => BitVec.ofNat 8 ((l.take (i + 1)).flatMap at_).length)
  idx ++ List.replicate (omega - idx.length) 0 ++ ends

/-- Do the numbers rise strictly? -/
def rising : List Nat → Bool
  | a :: b :: t => decide (a < b) && rising (b :: t)
  | _ => true

/-- HintBitUnpack; none for a string that packs no hints. -/
def unpackHints (d : List Byte) : Option (List (List Bool)) :=
  let n (i : Nat) : Nat := (d.getD i 0).toNat
  let ends := (List.range rows).map (fun i => n (omega + i))
  let starts := 0 :: ends.take (rows - 1)
  let used := ends.getLastD 0
  let part (p : Nat × Nat) : List Nat := ((List.range omega).filter (fun i => decide (p.1 ≤ i ∧ i < p.2))).map n
  let parts := (starts.zip ends).map part
  if (starts.zip ends).all (fun p => decide (p.1 ≤ p.2 ∧ p.2 ≤ omega)) && parts.all rising && ((List.range omega).filter (fun i => decide (used ≤ i))).all (fun i => n i == 0) then
    some (parts.map (fun l => (List.range 256).map (fun i => l.contains i)))
  else none

/-! ## Keys -/

/-- A key pair: the public seed, the signing seed, the digest of the public key, the short vectors in the transform's domain, the parts of t. -/
structure Key where
  rho : List Byte
  seed : List Byte
  tr : List Byte
  s1 : List Poly
  s2 : List Poly
  t0 : List Poly
  pub : List Byte
  deriving DecidableEq, Repr

/-- The public key: the seed and the high parts of t. -/
def encodePub (rho : List Byte) (t1 : List (List Nat)) : List Byte := rho ++ t1.flatMap (pack 10)

/-- ML-DSA.KeyGen_internal. -/
def keyGen (xi : List Byte) : Key :=
  let h := shake256 (xi ++ [BitVec.ofNat 8 rows, BitVec.ofNat 8 cols]) 128
  let rho := h.take 32
  let s := sliceBytes h 32 64
  let s1 := (List.range cols).map (fun r => ntt (short s r))
  let s2 := (List.range rows).map (fun r => short s (r + cols))
  let t := List.zipWith (fun row e => add (invNtt (dot row s1)) e) (expandA rho) s2
  let pub := encodePub rho (t.map (fun p => p.map (fun r => (power2 r).1)))
  { rho := rho, seed := h.drop 96, tr := digest pub, s1 := s1, s2 := s2.map ntt, t0 := t.map (fun p => ntt (p.map (fun r => (power2 r).2))), pub := pub }

/-! ## Signatures -/

/-- The message representative of pure ML-DSA: the digest of the public key, a zero, the context string with its length, the message. -/
def representative (tr ctx msg : List Byte) : List Byte := digest (tr ++ [0, BitVec.ofNat 8 ctx.length] ++ ctx ++ msg)

/-- The commitment hash, of 48 bytes. -/
def commitment (mu : List Byte) (w1 : List (List Nat)) : List Byte := shake256 (mu ++ w1.flatMap (pack 4)) 48

/-- One round of signing with the mask number `k`: a signature, or none where the round is rejected. -/
def signRound (key : Key) (a : List (List Poly)) (mu seed : List Byte) (k : Nat) : Option (List Byte) :=
  let y := (List.range cols).map (fun r => maskPoly seed (k + r))
  let yHat := y.map ntt
  let w := a.map (fun row => invNtt (dot row yHat))
  let ch := commitment mu (w.map high)
  let c := ntt (ball ch)
  let z := List.zipWith (fun p s => add p (invNtt (mul c s))) y key.s1
  let u := List.zipWith (fun p s => sub p (invNtt (mul c s))) w key.s2
  let v := key.t0.map (fun t => invNtt (mul c t))
  let h := List.zipWith (fun v u => hints (v.map (fun x => (q - x) % q)) (add u v)) v u
  let ones := (h.map (fun l => (l.filter id).length)).foldl (· + ·) 0
  if (z.map norm).all (fun n => decide (n + beta < gamma1)) && (u.map (fun p => norm (low p))).all (fun n => decide (n + beta < gamma2)) &&
      (v.map norm).all (fun n => decide (n < gamma2)) && decide (ones ≤ omega) then
    some (ch ++ z.flatMap (fun p => pack 20 (p.map (fun x => (q + gamma1 - x) % q))) ++ packHints h)
  else none

/-- The rounds of signing, at most `n`. -/
def signLoop (key : Key) (a : List (List Poly)) (mu seed : List Byte) : Nat → Nat → List Byte
  | 0, _ => []
  | n + 1, k => (signRound key a mu seed k).getD (signLoop key a mu seed n (k + cols))

/-- ML-DSA.Sign with 32 random bytes: of a message, with a context string. -/
def sign (key : Key) (ctx msg rnd : List Byte) : List Byte :=
  let mu := representative key.tr ctx msg
  signLoop key (expandA key.rho) mu (shake256 (key.seed ++ rnd ++ mu) 64) 13107 0

/-- ML-DSA.Verify. -/
def verify (pub ctx msg sig : List Byte) : Bool :=
  let mu := representative (digest pub) ctx msg
  let ch := sig.take 48
  let z := (chunksOf 640 cols (sig.drop 48)).map (fun d => (unpack 20 d).map (fun x => (q + gamma1 - x) % q))
  let t1 := (chunksOf 320 rows (pub.drop 32)).map (fun d => ntt ((unpack 10 d).map (fun x => x * 8192 % q)))
  match unpackHints (sig.drop 3248) with
  | none => false
  | some h =>
    let c := ntt (ball ch)
    let zHat := z.map ntt
    let w := List.zipWith (fun row t => invNtt (sub (dot row zHat) (mul c t))) (expandA (pub.take 32)) t1
    let w1 := List.zipWith (fun h p => List.zipWith useHint h p) h w
    decide (pub.length = 1952 ∧ sig.length = 3309) && (z.map norm).all (fun n => decide (n + beta < gamma1)) && ch == commitment mu w1

end Sys2Proof.Machine.MlDsa
end

