-- ==== Sys2Proof/Machine/Sec.lean ====
section
/-! DEFINITION. Boot, firmware signing and attestation (R661 to R677): the boot store, manifests, the boot stages, measurement registers, the SEC_ registers. -/

namespace Sys2Proof.Machine

/-! ## The boot store and manifests (R662 to R664) -/

/-- The bytes of a slot, and of the boot store's control sector before it (R662) (log 73, DESIGN CHOICE). -/
def slotSize : Nat := 0x3000000
def slotBase (s : Nat) : Nat := 0x1000 + s * slotSize

/-- The byte at an offset of the boot store that nothing has written since manufacture, or since a write of its slot broke off (log 20). -/
def storeFree (x : Sec) (i : Nat) : Byte :=
  if i < slotBase 0 then Config.controlByte i
  else
    let s := (i - slotBase 0) / slotSize
    let n := tblGet 0 x.broken s
    if n = 0 then Config.firmwareByte ((i - slotBase 0) % slotSize) else Config.brokenByte s n ((i - slotBase 0) % slotSize)

/-- `n` bytes of the boot store. -/
def storeBytes' (x : Sec) (at_ n : Nat) : List Byte := (List.range n).map (fun i => (tblFind x.store (at_ + i)).getD (storeFree x (at_ + i)))

/-- Bytes written into the boot store. Bit 0 of byte 0 of the control sector is the preferred slot, which `pref` holds (R662, R677) (log 20, DESIGN CHOICE). -/
def storePut (x : Sec) (off : Nat) (d : List Byte) : Sec :=
  { x with store := ((List.range d.length).zip d).foldl (fun t p => tblPut t (off + p.1) p.2) x.store
           pref := if off = 0 then d.headD (BitVec.ofNat 8 (b1 x.pref)) &&& 1 == 1 else x.pref }

/-- A slot whose writing failed or was broken off: what it holds is open (R669) (log 20, DESIGN CHOICE). -/
def breakSlot (x : Sec) (s : Nat) : Sec :=
  { x with store := x.store.filter (fun e => !decide (slotBase s ≤ e.1 ∧ e.1 < slotBase (s + 1))), broken := tblMod 0 x.broken s (· + 1) }

/-- The certificate that the control sector holds (R662, R671). -/
def certificate (x : Sec) : List Byte := Config.certificateOf (storeBytes' x 1 (slotBase 0 - 1))

/-- A component that a manifest lists (R663). -/
structure Component where
  type : Nat
  svn : Nat
  off : Nat
  len : Nat
  digest : List Byte
  deriving DecidableEq, Repr

/-- A manifest, read (R663). -/
structure Manifest where
  keySlot : Nat
  key : List Byte
  comps : List Component
  signed : List Byte
  signature : List Byte
  whole : List Byte
  deriving DecidableEq, Repr

/-- A little-endian number of a byte source. -/
def numAt (get : Nat → Nat → List Byte) (at_ n : Nat) : Nat := ofBytes (get at_ n)

/-- Component i of a manifest. -/
def readComponent (get : Nat → Nat → List Byte) (i : Nat) : Component :=
  let b := 1968 + 80 * i
  { type := numAt get b 2, svn := numAt get (b + 2) 1, off := numAt get (b + 4) 4, len := numAt get (b + 8) 4, digest := get (b + 16) 64 }

/-- A manifest whose layout follows R663; `get` reads bytes of the slot. What is signed ends at byte 1,967 + 80 n - 1, as R663 says. -/
def readManifest (get : Nat → Nat → List Byte) : Option Manifest :=
  let n := numAt get 7 1
  let comps := (List.range n).map (readComponent get)
  let reservedOk := (get 6 1 ++ get 8 8 ++ (List.range n).flatMap (fun i => get (1968 + 80 * i + 3) 1 ++ get (1968 + 80 * i + 12) 4)).all (· == 0)
  let ok := numAt get 0 4 == 0x544E464D && numAt get 4 1 == 1 && decide (numAt get 5 1 < 4) && decide (1 ≤ n ∧ n ≤ 16) && reservedOk &&
    comps.all (fun c => decide (1 ≤ c.type ∧ c.type ≤ 5 ∧ c.svn ≤ 64)) &&
    (comps.filter (fun c => c.type == 1)).length == 1 && (comps.map Component.type).eraseDups.length == n
  if ok then
    some { keySlot := numAt get 5 1, key := get 16 1952, comps := comps, signed := get 0 (1967 + 80 * n), signature := get (1968 + 80 * n) 3309,
           whole := get 0 (5277 + 80 * n) }
  else none

/-- The anti-rollback counter of a component type (R665). -/
def counterOf (type : Nat) : Nat := if type = 1 then 0 else if type = 2 then 1 else 2

/-- Is the manifest accepted, its svn against the counters apart (R664)? -/
def manifestSigned (x : Sec) (mf : Manifest) : Bool :=
  digest mf.key == toBytes 64 (x.keyHash.getD mf.keySlot 0).toNat && !x.revoked.getLsbD mf.keySlot && MlDsa.verify mf.key [] (digest mf.signed) mf.signature &&
  mf.comps.all (fun c => decide (c.off + c.len ≤ slotSize))

/-- Is every svn at least its fuse counter (R664)? -/
def svnOk (x : Sec) (mf : Manifest) : Bool := mf.comps.all (fun c => decide (tblGet 0 x.fuseCtr (counterOf c.type) ≤ c.svn))

/-- Is a component accepted: its bytes digest to the listed value (R664)? -/
def componentOk (get : Nat → Nat → List Byte) (c : Component) : Bool := digest (get c.off c.len) == c.digest

/-- A slot's manifest as the boot store holds it. -/
def slotManifest (x : Sec) (s : Nat) : Option Manifest := readManifest (fun at_ n => storeBytes' x (slotBase s + at_) n)

/-- The component of a type. -/
def Manifest.comp (mf : Manifest) (type : Nat) : Option Component := mf.comps.find? (fun c => c.type == type)

/-! ## Measurement registers (R672) -/

/-- MRn. -/
def mrOf (x : Sec) (n : Nat) : List Byte := tblGet (List.replicate 64 0) x.mrs n

/-- An extend of MRn (R672). -/
def extendMr (x : Sec) (n : Nat) (d : List Byte) : Sec :=
  { x with mrs := tblPut x.mrs n (digest (mrOf x n ++ d)), mrCount := tblMod 0 x.mrCount n (· + 1) }

/-- A debug event extended into MR5 (R672). -/
def debugEvent (m : Mod) (code : Byte) : Mod := { m with sec := extendMr m.sec 5 (code :: List.replicate 63 0) }

/-! ## Boot (R667, R668, R670) -/

/-- The seed of the identity key (R670): the first 32 bytes of SHAKE256 of the fused seed and the label. -/
def identitySeed (x : Sec) : List Byte :=
  shake256 (toBytes 32 x.seed.toNat ++ [0x48, 0x4F, 0x52, 0x4F, 0x56, 0x2D, 0x49, 0x44, 0x45, 0x4E, 0x54, 0x49, 0x54, 0x59]) 32

/-- The identity key (R670): the same for the life of the module, so no field holds it. -/
def identityKey (x : Sec) : MlDsa.Key := MlDsa.keyGen (identitySeed x)

/-- What the ROM finds of a slot: 0 accepted, or the reason of R677 why not. -/
def romCheck (x : Sec) (s : Nat) : Nat :=
  match slotManifest x s with
  | none => 1
  | some mf =>
    if !manifestSigned x mf then 1
    else if !svnOk x mf then 3
    else match mf.comp 1 with
      | none => 1
      | some c => if componentOk (fun at_ n => storeBytes' x (slotBase s + at_) n) c then 0 else 2

/-- FIRMWARE: the other components verified, MR2 to MR4 extended, a component that is not accepted left out (R667, R668) (log 19, DESIGN CHOICE). -/
def bootFirmware (x : Sec) (s : Nat) (mf : Manifest) : Sec :=
  let get := fun at_ n => storeBytes' x (slotBase s + at_) n
  let bad := mf.comps.filter (fun c => c.type != 1 && !componentOk get c)
  let missing := [2, 3, 4, 5].filter (fun t => (mf.comp t).isNone)
  let deg := ((bad.map Component.type) ++ missing).foldl (fun d t => d ||| BitVec.ofNat 8 (2 ^ (t - 1))) (0 : Byte)
  let x := match mf.comp 2 with
    | some c => if componentOk get c then extendMr x 2 c.digest else x
    | none => x
  let x := (mf.comps.filter (fun c => decide (3 ≤ c.type) && componentOk get c)).foldl (fun x c => extendMr x 3 c.digest) x
  let x := extendMr x 4 (digest mf.whole)
  { x with degraded := deg, stage := 2 }

/-- What a module reset keeps: fuses and boot store. An update that it breaks off leaves the other slot open (R669, R677). -/
def Sec.afterReset (x : Sec) : Sec :=
  let y := if x.updBusy then breakSlot x (1 - x.slot.toNat) else x
  { keyHash := x.keyHash, revoked := x.revoked, seed := x.seed, fuseCtr := x.fuseCtr, store := y.store, broken := y.broken, pref := x.pref }

/-- The stage ROM (R667): MR0 extended by the fuses, the first slot used whose manifest and steward firmware are accepted, or FAILED. The reason of FAILED is the preferred
slot's (log 29, DEDUCED). -/
def bootRom (x : Sec) : Sec :=
  let x := extendMr x 0 (digest (wordBytes Config.romVersion ++ Config.fuseBytes x.keyHash.toList x.revoked.toNat ((List.range 4).map (tblGet 0 x.fuseCtr))))
  let first := b1 x.pref
  let s := if romCheck x first = 0 then some first else if romCheck x (1 - first) = 0 then some (1 - first) else none
  match s with
  | none => { x with stage := 15, reason := BitVec.ofNat 8 (romCheck x first) }
  | some k =>
    let x := if k = first then x else extendMr x 5 (3 :: List.replicate 63 0)
    let x := match (slotManifest x k).bind (fun mf => mf.comp 1) with
      | some c => extendMr x 1 c.digest
      | none => x
    { x with slot := BitVec.ofNat 4 k, stage := 1 }

/-- The end of a stage of the boot: ROM, then FIRMWARE. Each lasts until time passes; how long is not modelled (log 19, DESIGN CHOICE). -/
def bootStage (x : Sec) : Sec :=
  if x.stage = 0 then bootRom x
  else if x.stage = 1 then
    match slotManifest x x.slot.toNat with
    | some mf => bootFirmware x x.slot.toNat mf
    | none => { x with stage := 2 }
  else x

/-! ## SEC_COMMIT and SEC_UPDATE (R666, R669) -/

/-- The least svn of the components of a counter's class that run, those left out as not accepted apart (R666, R668). -/
def runningSvn (x : Sec) (mf : Manifest) (ctr : Nat) : Nat :=
  match (mf.comps.filter (fun c => counterOf c.type == ctr && !x.degraded.getLsbD (c.type - 1))).map Component.svn with
  | [] => 0
  | v :: t => t.foldl min v

/-- A counter raised to the running svn, never lowered (R666). -/
def raiseCtr (x : Sec) (mf : Manifest) (c : Nat) : Sec :=
  { x with fuseCtr := tblPut x.fuseCtr c (max (tblGet 0 x.fuseCtr c) (min 64 (runningSvn x mf c))) }

/-- Is a revocation refused: it names the running key slot, or the last one not revoked (R666)? -/
def revokeRefused (x : Sec) (mf : Manifest) (r : BitVec 4) : Bool := r.getLsbD mf.keySlot || (x.revoked ||| r) == 0xF

/-- The manifest that runs; none in ROM and FAILED, where no firmware does. -/
def runningManifest (x : Sec) : Option Manifest := if x.stage = 0 ∨ x.stage = 15 then none else slotManifest x x.slot.toNat

/-- A commit (R666) (log 43, DESIGN CHOICE). -/
def secCommitGo (x : Sec) : Sec :=
  match runningManifest x with
  | none => { x with commitResult := 1 }
  | some mf =>
    let y := ([0, 1, 2].filter (fun c => x.ctrs.getLsbD c)).foldl (fun x c => raiseCtr x mf c) x
    let refused := x.revoke != 0 && revokeRefused x mf x.revoke
    let y := if x.revoke != 0 && !refused then { y with revoked := y.revoked ||| x.revoke } else y
    let changed := [0, 1, 2].any (fun c => tblGet 0 y.fuseCtr c != tblGet 0 x.fuseCtr c)
    { y with commitResult := if refused then 2 else if changed || x.revoke != 0 then 0 else 1 }

/-- The bytes of the staged image, read from HBM; none where a line is poisoned or outside HBM (R669). -/
def stagedGet (m : Mod) (at_ n : Nat) : List Byte := m.mem.bytes (m.sec.updAddr.toNat + at_) n

/-- Is every line of the staged image good? -/
def stagedOk (m : Mod) : Bool :=
  decide (m.sec.updAddr.toNat + slotSize ≤ 0x030000000000) && (List.range (slotSize / 64)).all (fun i => !lineBad m (m.sec.updAddr.toNat + 64 * i))

/-- The staged image accepted (R664, R669). -/
def stagedAccepted (m : Mod) : Bool :=
  stagedOk m &&
  (match readManifest (stagedGet m) with
   | none => false
   | some mf => manifestSigned m.sec mf && svnOk m.sec mf && mf.comps.all (componentOk (stagedGet m)))

/-- The update's end (R669): not accepted, the store failed, or the other slot written and preferred. -/
def secUpdateEnd (m : Mod) (storeFails : Bool) : Mod :=
  let x := m.sec
  if !x.updBusy then m
  else if !stagedAccepted m then { m with sec := { x with updBusy := false, updResult := 1 } }
  else
    let s := 1 - x.slot.toNat
    if storeFails then { m with sec := { breakSlot x s with updBusy := false, updResult := 2 } }
    else { m with sec := { storePut x (slotBase s) (stagedGet m 0 slotSize) with updBusy := false, updResult := 0, pref := s == 1 } }

/-! ## The SEC_ registers (R677) -/

/-- SEC_BOOTSTAT. -/
def bootstatRead (x : Sec) : Word := w64 (x.degraded.toNat * 65536 + x.reason.toNat * 256 + x.slot.toNat * 16 + x.stage.toNat)

/-- SEC_COMMIT as it reads. -/
def secCommitRead (x : Sec) : Word := w64 (b1 x.commitBusy * 2 ^ 62 + x.commitResult.toNat * 2 ^ 56 + x.revoke.toNat * 256 + x.ctrs.toNat)

/-- SEC_UPDATE as it reads. -/
def secUpdateRead (x : Sec) : Word := w64 (b1 x.updBusy * 2 ^ 62 + x.updResult.toNat * 2 ^ 56 + x.updAddr.toNat)

/-- The value of a SEC_ register; none at a reserved offset. -/
def secRead (m : Mod) (o : Nat) : Option Word :=
  let x := m.sec
  if o = 0 then some (bootstatRead x)
  else if o = 8 then some (w64 (b1 x.pref))
  else if o = 0x10 then some (secCommitRead x)
  else if o = 0x18 then some (secUpdateRead x)
  else if 0x40 ≤ o ∧ o < 0x80 then some (tblGet 0 x.mrdata ((o - 0x40) / 8))
  else if o = 0x80 then some (w64 x.mrSel.toNat)
  else if 0x400 ≤ o ∧ o < 0x800 then some (wordOf (sliceBytes (mrOf x ((o - 0x400) / 64)) (o % 64) 8))
  else none

/-- SEC_MREXTCTL.go: SEC_MRDATA extended into MR8 to MR15 (R672). -/
def mrExtendGo (x : Sec) : Sec :=
  if 8 ≤ x.mrSel.toNat then extendMr x x.mrSel.toNat ((List.range 8).flatMap (fun w => wordBytes (tblGet 0 x.mrdata w))) else x

/-- A write of a SEC_ register. -/
def secWrite (m : Mod) (o : Nat) (v mask : Word) : Mod :=
  let x := m.sec
  let lo := bitOf mask.toNat 0
  let go := bitOf v.toNat 63 && bitOf mask.toNat 63
  if o = 8 then (if lo then { m with sec := { x with pref := bitOf v.toNat 0 } } else m)
  else if o = 0x10 then
    let x := if lo then { x with revoke := BitVec.ofNat 4 (fld v.toNat 8 4), ctrs := BitVec.ofNat 3 v.toNat } else x
    { m with sec := if go && !x.commitBusy then secCommitGo x else x }
  else if o = 0x18 then
    if x.updBusy then m
    else { m with sec := { x with updAddr := w64 (fld (merge x.updAddr v mask).toNat 12 35 * 4096), updBusy := go } }
  else if 0x40 ≤ o ∧ o < 0x80 then { m with sec := { x with mrdata := tblMod 0 x.mrdata ((o - 0x40) / 8) (fun old => merge old v mask) } }
  else if o = 0x80 then
    let x := if lo then { x with mrSel := BitVec.ofNat 4 v.toNat } else x
    { m with sec := if go then mrExtendGo x else x }
  else m

end Sys2Proof.Machine
end

