-- ==== Sys2Proof/Machine/Resets.lean ====
section
/-! DEFINITION. What a reset does to the state of its domain (R12, R50, R602 to R606, R610), and the loss of memory contents (R605, R649, R657). -/

namespace Sys2Proof.Machine

/-! ## Domains -/

/-- The code of a domain in DBG_RESET and in event records, and the unit (R621, R624). -/
def domainCode : Domain → Nat
  | .thread _ => 0
  | .core _ => 1
  | .cluster _ => 2
  | .die _ => 3
  | .stack _ => 4
  | .link _ => 5
  | .module => 6

/-- The unit of a domain. -/
def domainUnit : Domain → Nat
  | .thread t => t.toNat
  | .core c => c.toNat
  | .cluster q => q.toNat
  | .die k => k.toNat
  | .stack s => s.toNat
  | .link l => l.toNat
  | .module => 0

/-- The domain that DBG_RESET names; none for an invalid target (R624). -/
def domainFrom (code target : Nat) : Option Domain :=
  match code with
  | 0 => if target < 8192 then some (.thread (BitVec.ofNat 13 target)) else none
  | 1 => if target < 2048 then some (.core (BitVec.ofNat 11 target)) else none
  | 2 => if target < 128 then some (.cluster (BitVec.ofNat 7 target)) else none
  | 3 => if target < 8 then some (.die (BitVec.ofNat 3 target)) else none
  | 4 => if target < 32 then some (.stack (BitVec.ofNat 5 target)) else none
  | 5 => if target < 96 then some (.link (BitVec.ofNat 7 target)) else none
  | 6 => some .module
  | _ => none

/-- The limit of a reset in ns, from the end of its drain (R604). -/
def resetLimit : Domain → Nat
  | .thread _ => 10000
  | .core _ => 20000
  | .cluster _ => 1000000
  | .die _ => 50000000
  | .stack _ => 1500000000
  | .link _ => 3000000000
  | .module => 6000000000

/-- The domain of the reset that an overrun starts (R604). -/
def escalation : Domain → Option Domain
  | .thread t => some (.core (BitVec.ofNat 11 (t.toNat / 4)))
  | .core c => some (.cluster (BitVec.ofNat 7 (c.toNat / 16)))
  | .cluster q => some (.die (BitVec.ofNat 3 (q.toNat / 16)))
  | .die _ => some .module
  | .stack _ => some .module
  | .link _ => none
  | .module => none

/-- The event record of a reset. -/
def resetEvent (m : Mod) (type : Nat) (d : Domain) : Mod := logEvent m { type := type, domain := domainCode d, unit := domainUnit d }

/-! ## Memory contents -/

/-- The LM and the SDM of a core have unspecified contents, unpoisoned (R605). -/
def loseCoreMem (m : Mod) (c : Nat) : Mod :=
  { m with mem := (m.mem.scramble (10000 + c)).scramble (20000 + c) }

/-- The CM of a cluster has unspecified contents, unpoisoned. -/
def loseCm (m : Mod) (q : Nat) : Mod := { m with mem := m.mem.scramble (30000 + q) }

/-- The SRAM of every tile loses its contents: LM, SDM and CM (R605, R649). -/
def loseSram (m : Mod) : Mod :=
  { m with mem := { m.mem with cells := m.mem.cells.filter (fun c => isHbm c.1), granules := [], sramGen := m.mem.sramGen + 1 } }

/-- HBM loses its contents whole (R649). -/
def loseHbm (m : Mod) : Mod :=
  { m with mem := { m.mem with
    cells := m.mem.cells.filter (fun c => !isHbm c.1), check := m.mem.check.filter (fun c => !isHbm c.1), hbmGen := m.mem.hbmGen + 1 } }

/-- HBM but for stack 31 loses its contents (R657): every region that does not lie whole on that stack. -/
def loseHbmBut31 (m : Mod) : Mod :=
  (List.range 3072).foldl (fun m r =>
    if (portOf m (2 ^ 30 * r)).1 = r / 24 ∧ stackOf (r / 24) = 31 then m
    else { m with mem := m.mem.scramble r }) m

/-! ## Threads and cores -/

/-- Is a request that of a queue of an engine: of one of its chunks, of a row's index, of a completion record? -/
def ofQueue (m : Mod) (q queue : Nat) : ReqOwner → Bool
  | .chunkRead k tag _ _ _ | .chunkWrite k tag => k == q && (chunkFind m q tag).any (fun c => c.queue == queue)
  | .index k n _ | .completion k n _ => k == q && n == queue
  | _ => false

/-- The stream descriptors of a queue are dropped without posting, and its chunks; the responses owed to them are discarded (R602, R605). -/
def dropStreams (m : Mod) (q queue : Nat) : Mod :=
  setCluster (disown m (ofQueue m q queue)) q (fun c => { c with dqs := tblDel c.dqs queue, chunks := c.chunks.filter (fun k => k.queue != queue) })

/-- Is the access of a thread that is gone given up: a read, whose value nothing takes any more, or a step of a TSG that has not left and that no EXIT keeps? Writes go on, and so does an
atomic until it has been performed (R333, R602). -/
def Access.givenUp (a : Access) : Bool :=
  (a.kind.reads && !(a.kind == .amo && !a.performed)) || (a.kind == .tsgRow && !a.sent && !a.performed && !a.kept)

/-- The accesses of a thread that is gone (R333, R602). -/
def dropReads (m : Mod) (t : Nat) : Mod := { m with accs := m.accs.filter (fun a => !(a.thread.toNat == t && a.givenUp)) }

/-- The reset of a thread context: the thread ends, and the context takes its reset state, but for what is kept (R12, R36, R37, R605). A KILL leaves the Toll bucket and
queue as an EXIT does (R527). -/
def resetContext (m : Mod) (kill : Bool) (t : Nat) : Mod :=
  let m := advance m (t / 4) (settledAt (ctx m t) (core m (t / 4)).cycle)
  let m := endThread m t .reset 0
  let m := dropReads (dropStreams m (t / 64) (t % 64)) t
  -- The messages of the Toll queue are discarded; the releases that follow them leave with the tokens of the full bucket (R527).
  let rels := (ctx m t).tollQ.filter (fun c => c.kind == .rel)
  let m := setCtx m t (fun x =>
    let y := { Ctx.reset t with gen := x.gen, starts := x.starts, barmem := x.barmem }
    if kill then { y with toll := x.toll, tollAt := x.tollAt, tollQ := x.tollQ } else { y with tollQ := rels })
  let m := (List.range 8).foldl (fun m k => bumpTile m t k) m
  if kill then m else tollDrain m t rels.length

/-- A queue after a reset of its core or of a larger domain: closed, which advances the epoch of one that was open; else its epoch is kept (R355, R357). -/
def Queue.afterReset (k : Queue) : Queue := { epoch := if k.isOpen then k.epoch + 1 else k.epoch }

/-- The reset of a core: its contexts, queues, caches, tables and registers (R12, R185, R396, R403, R605). DBG_DFSP is kept; the clock of the core runs on. -/
def resetCore (m : Mod) (c : Nat) : Mod :=
  let m := (threadsOf c).foldl (fun m t => resetContext m false t) m
  let m := (core m c).queues.foldl (fun m e => if e.2.isOpen then closeQueue m (128 * c + e.1) else m) m
  loseCoreMem (setCore m c (fun k =>
    { ctxs := k.ctxs, cycle := k.cycle, nextIssue := k.cycle, lastIssue := k.cycle, wdFrom := k.cycle, dfBase := k.dfBase, inReset := true,
      queues := k.queues.map (fun e => (e.1, e.2.afterReset)), launches := k.launches })) c

/-- The work item of a COPY or FILL, whose transfer a reset ends, is lost (R593). -/
def loseMove (m : Mod) (r : Nat) : Mod :=
  { m with hq := { m.hq with items := m.hq.items.map (fun e =>
    if e.2.record == r && e.2.running then (e.1, { e.2 with lost := true, running := false }) else e) } }

/-- The COPYs and FILLs of an engine that is reset. -/
def loseMoves (m : Mod) (q : Nat) : Mod := (m.hq.recs.filter (fun e => e.2.isMove && e.2.cluster == q && e.2.state == .running)).foldl (fun m e => loseMove m e.1) m

/-- The cores that a reset of a cluster resets: those listed in the state; LM and SDM of the others lose their contents too. -/
def resetCores (m : Mod) (lo n : Nat) : Mod :=
  (List.range n).foldl (fun m i =>
    if (tblFind m.cores (lo + i)).isSome then resetCore m (lo + i)
    else loseCoreMem (setCore m (lo + i) (fun k => { k with inReset := true })) (lo + i)) m

/-- The reset of a cluster: cores, CM, stream engine, cluster TLB (R605); the port's registers and the counters belong to the die (R25, R636). -/
def resetCluster (m : Mod) (q : Nat) : Mod :=
  let m := resetCores (dropStreams (loseMoves m q) q 64) (16 * q) 16
  loseCm (setCluster m q (fun c =>
    { Cluster.reset q with ce := c.ce, ue := c.ue, ueValid := c.ueValid, ueAddr := c.ueAddr, ueLines := c.ueLines, counters := c.counters, search := c.search,
                           lastSearch := c.lastSearch })) q

/-- The reset of a die: its clusters, their port registers and counters (R605, R636). -/
def resetDie (m : Mod) (k : Nat) : Mod :=
  (List.range 16).foldl (fun m i =>
    setCluster (resetCluster m (16 * k + i)) (16 * k + i) (fun c => { c with ce := 0, ue := 0, ueValid := false, ueAddr := 0, counters := [] })) m

/-! ## The module (R610, R618, R667) -/

/-- The records of a module reset: launches that ran complete with the status of R615 that applies first, ABORTED for the reset itself with a thread of theirs, those not
started INVALID, a WAIT in progress ABORTED; COPY and FILL that ran are lost and replayed; the others stay recorded (R610). -/
def resetRecords (m : Mod) : Mod :=
  m.hq.recs.foldl (fun m e =>
    if e.2.state = .done then m
    else if e.2.isLaunch then
      if e.2.state = .recorded then completePlain m e.1 5 0
      else
        let m := blame m e.1 6 (blameResult (firstThread (recordThreads m e.1)) 0)
        let o := ((recFind m e.1).bind Rec.blame).getD (6, 0)
        completePlain (settleItems m e.1) e.1 o.1 o.2
    else if e.2.op = 5 ∧ e.2.state != .recorded then completePlain m e.1 6 0
    else if e.2.isMove ∧ e.2.state != .recorded then loseMove m e.1
    else if e.2.state = .recorded then m
    else completePlain m e.1 6 0) m

/-- The host queue engine after a module reset: rings and registers at reset, the completion entries it owes kept, every handle invalid, jobs kept (R580, R610). -/
def resetHostQ (h : HostQ) : HostQ :=
  { recs := h.recs, nextRec := h.nextRec, owed := h.owed.map (fun e => { e with old := true }), jobs := h.jobs,
    handles := h.handles.map (fun e => (e.1, { e.2 with valid := false })), items := h.items, nextItem := h.nextItem, commits := h.commits, journalLost := h.journalLost,
    port0 := { perst := h.port0.perst }, port1 := { perst := h.port1.perst } }

/-- The fabric block after a module reset: FAB_ID kept, every link down (R535, R536, R538). -/
def resetFabric (f : Fabric) : Fabric := { id := f.id, sizes := f.sizes, floodSeq := f.floodSeq, nextTag := f.nextTag }

/-- A context whose core was reset with the module or lost its power: what is kept of it (R12, R36, R649) (log 69, DEDUCED). -/
def Ctx.kept (t : Nat) (x : Ctx) : Ctx := { Ctx.reset t with gen := x.gen, starts := x.starts, barmem := x.barmem }

/-- A queue that loses its power: closed, with its epoch as the steward saved it (R355, R649). -/
def Queue.saved (k : Queue) : Queue := { epoch := k.epoch }

/-- A core reset with the module, or without power: what is kept of it, its queues' epochs among it (R12, R317, R355, R649). -/
def Core.kept (c : Nat) (queue : Queue → Queue) (k : Core) : Core :=
  { ctxs := k.ctxs.map (fun e => (e.1, e.2.kept (4 * c + e.1))), dfBase := k.dfBase, inReset := true, queues := k.queues.map (fun e => (e.1, queue e.2)) }

/-- Every core and cluster at its reset state, with nothing on the mesh; LM, SDM and CM lose their contents (R605, R649). -/
def loseTiles (m : Mod) (queue : Queue → Queue) : Mod :=
  { loseSram m with cores := m.cores.map (fun c => (c.1, c.2.kept c.1 queue)), clusters := [], accs := [], net := [] }

/-- The requests from peers that the link routers still hold are answered FENCED (R618). -/
def answerHeld (m : Mod) : Mod :=
  m.fab.links.foldl (fun m l =>
    l.2.rxq.foldl (fun m p => if expectsResponse p.type && p.dst == m.fab.id then answerTo m p 1 false [] else m) m) m

/-- The module after the drain of its reset, before it boots (R605, R610, R626, R635): every domain reset, links down, the timebase at 0; only AO runs yet. HBM keeps what
it holds at each module address, though HBM_PLACE returns to its reset value (log 118, DESIGN CHOICE). -/
def wipeModule (m : Mod) : Mod :=
  let m := resetRecords (answerHeld m)
  { loseTiles m Queue.afterReset with
    place := [], bridgeDown := []
    fab := resetFabric m.fab
    hq := resetHostQ m.hq
    rcv := { evSeq := m.rcv.evSeq, resets := m.rcv.resets }
    tb := {}
    pwr := { aoOn := m.pwr.aoOn, down := true }
    sec := { m.sec.afterReset with i3cAddr := m.sec.i3cAddr } }

/-- The boot that follows begins, in the stage ROM (R667). -/
def bootModule (m : Mod) : Mod := { m with pwr := { m.pwr with down := false } }

/-- A stage of the boot ends; FAILED asserts FATAL_N (R667, R686). -/
def bootOn (m : Mod) : Mod :=
  if !m.pwr.aoOn || m.pwr.down || (m.sec.stage != 0 && m.sec.stage != 1) then m
  else
    let x := bootStage m.sec
    { m with sec := x, pins := { m.pins with fatal := m.pins.fatal || x.stage == 15 } }

/-- The module after the drain of its reset: while MOD_RESET_N is low, only AO runs (R686). -/
def resetModule (m : Mod) : Mod := if m.pins.modReset then wipeModule m else bootModule (wipeModule m)

end Sys2Proof.Machine
end

