-- ==== Sys2Proof/Machine/Power.lean ====
section
/-! DEFINITION. Power states (R648 to R650), shed levels (R651 to R657), the power cap (R658), power and thermal sensors (R637, R638, R642, R690), the input switch and power-on (R683, R684). -/

namespace Sys2Proof.Machine

/-! ## Records and times -/

/-- A power event record: the new level or state, the input voltage (R659). -/
def powerEvent (m : Mod) (type detail : Nat) : Mod := logEvent m { type := type, detail := detail, domain := 6, w5 := w64 m.pwr.vin.toNat }

/-- The power block changed. -/
def setPwr (m : Mod) (f : Power → Power) : Mod := { m with pwr := f m.pwr }

/-- Time moves on to the next whole multiple of a period (log 30, DESIGN CHOICE). -/
def toNext (m : Mod) (period : Nat) : Mod := toTime m ((m.now / period + 1) * period)

/-! ## Power removed -/

/-- Every domain but AO loses its power: tiles, links, steward; the journal and HBM are treated by the caller (R648, R657). -/
def powerOff (m : Mod) : Mod :=
  let m := loseTiles m Queue.afterReset
  setPwr { m with
    place := [], bridgeDown := [], fab := resetFabric m.fab, hq := { resetHostQ m.hq with journalClosed := m.hq.journalClosed }, tb := {}
    rcv := { evSeq := m.rcv.evSeq } }
    (fun p => { p with down := true, due := [], level := 0, pausedFrom := none, selfRefresh := false, waking := false })

/-- The steps of R657: the record, the journal closed, PWR_FAIL_N, every domain but AO without power, stack 31 alone kept. They are taken once. -/
def s5Steps (m : Mod) : Mod :=
  if m.pwr.down then m
  else
    let m := powerEvent m 0x24 5
    let m := { m with hq := { m.hq with journalClosed := true }, pins := { m.pins with pwrFail := true } }
    powerOff (loseHbmBut31 m)

/-- AO loses its power too: everything is at power-on, but for fuses, boot store and what holds outside (R12, R597, R683, R684). -/
def aoLoss (m : Mod) : Mod :=
  let m := loseHbm (loseTiles m Queue.afterReset)
  { m with
    cores := [], place := [], bridgeDown := [], fab := {}, rcv := {}, tb := {}
    hq := { port0 := { perst := m.hq.port0.perst }, port1 := { perst := m.hq.port1.perst }, nextRec := m.hq.nextRec, nextItem := m.hq.nextItem }
    pwr := { aoOn := false, down := true, vin := m.pwr.vin, switchOpen := m.pwr.switchOpen }
    sec := m.sec.afterReset
    pins := { absent := m.pins.absent, modReset := m.pins.modReset } }

/-! ## Input samples (R651, R652, R683, R684) -/

/-- The threshold of level n, in mV (R651). -/
def shedAt (n : Nat) : Nat :=
  match n with
  | 1 => 48000
  | 2 => 46500
  | 3 => 45000
  | 4 => 43000
  | _ => 40000

/-- The leave value of level n, in mV (R651). -/
def leaveAt (n : Nat) : Nat :=
  match n with
  | 1 => 49000
  | 2 => 47500
  | 3 => 46000
  | _ => 44000

/-- A timer that runs while a condition holds: the time it started. -/
def timer (on : Bool) (now : Nat) (from_ : Option Nat) : Option Nat := if on then some (from_.getD now) else none

/-- A timer of a level in a table. -/
def timerIn (t : Tbl Nat) (n : Nat) (on : Bool) (now : Nat) : Tbl Nat :=
  match timer on now (tblFind t n) with
  | some x => tblPut t n x
  | none => tblDel t n

/-- A sample of the input: the dwell timers, the leave timers and the timers of R683 and R684 run on, start or stop. -/
def sampleInput (m : Mod) (mv : BitVec 16) : Mod :=
  let v := mv.toNat
  setPwr m (fun p =>
    { p with
      vin := mv
      below := [1, 2, 3, 4, 5].foldl (fun t n => timerIn t n (decide (v < shedAt n)) m.now) p.below
      above := [1, 2, 3, 4].foldl (fun t n => timerIn t n (p.due.contains n && decide (leaveAt n ≤ v)) m.now) p.above
      goodFrom := timer (decide (49000 ≤ v)) m.now p.goodFrom
      overFrom := timer (decide (61000 < v)) m.now p.overFrom
      underFrom := timer (p.switchOpen && decide (v < 60000)) m.now p.underFrom })

/-- The levels among `l` whose timer runs. -/
def running (t : Tbl Nat) (l : List Nat) : List Nat := l.filter (fun n => (tblFind t n).isSome)

/-- The earliest end of the running timers of `l`, each 10 us long. -/
def firstEnd (t : Tbl Nat) (l : List Nat) : Nat := ((running t l).map (fun n => tblGet 0 t n + 10000)).foldl (fun a b => if a = 0 then b else min a b) 0

/-- The levels of `l` whose timer has run 10 us at `now`. -/
def ended (t : Tbl Nat) (l : List Nat) (now : Nat) : List Nat := (running t l).filter (fun n => decide (tblGet 0 t n + 10000 ≤ now))

/-! ## Shed levels (R651 to R656) -/

/-- The mode that the power controller gives every link: keep-alive in P2 and at S4, width 1 at S3, else full (R501, R648, R651). -/
def Power.linkMode (p : Power) : BitVec 2 := if p.state = 2 ∨ 4 ≤ p.level then 2 else if p.level = 3 then 1 else 0

/-- The power controller writes FAB_CTL.mode. -/
def putMode (m : Mod) : Mod := if m.fab.mode = m.pwr.linkMode then m else setMode m m.pwr.linkMode

/-- The actions of a level as the module rises to it: S1 frees the prefetchers' streams (R407), S3 halts compute and suspends the deadlines (R654), S4 stops HBM. The
links' modes are agreed link by link. -/
def enterLevel (m : Mod) (n : Nat) : Mod :=
  let m := setPwr m (fun p => { p with level := n, entries := satAdd 8 p.entries 1 })
  let m := powerEvent m 0x20 n
  if n = 1 then { m with cores := m.cores.map (fun c => (c.1, { c.2 with streams := [] })) }
  else if n = 3 then putMode (setPwr m (fun p => { p with pausedFrom := some m.now }))
  else if n = 4 then putMode (setPwr m (fun p => { p with selfRefresh := true }))
  else m

/-- The actions of a level undone as the module leaves it. -/
def leaveLevel (m : Mod) (n : Nat) : Mod :=
  let m := setPwr m (fun p => { p with level := n - 1 })
  if n = 4 then putMode (setPwr m (fun p => { p with selfRefresh := p.state == 2 }))
  else if n = 3 then
    putMode (setPwr m (fun p => { p with pausedTotal := p.pausedTotal + (m.now - p.pausedFrom.getD m.now), pausedFrom := none }))
  else m

/-- The highest level that is due. -/
def highest (l : List Nat) : Nat := l.foldl max 0

/-- Do the shed levels apply: AO runs, the switch is closed, the module has power? -/
def shedding (m : Mod) : Bool := m.pwr.aoOn && !m.pwr.switchOpen && !m.pwr.down

/-- A dwell timer ends: levels become due, and the module takes the actions of each it rises to, in ascending order (R651). -/
def shedUp (m : Mod) (mv : BitVec 16) : Mod :=
  let s := sampleInput m mv
  let cand := [1, 2, 3, 4, 5].filter (fun n => !s.pwr.due.contains n)
  if !shedding m || (running s.pwr.below cand).isEmpty then m
  else
    let s := toTime s (firstEnd s.pwr.below cand)
    let fresh := ended s.pwr.below cand s.now
    let s := setPwr s (fun p => { p with due := p.due ++ fresh.filter (fun n => n != 5) })
    let top := highest s.pwr.due
    let s := ([1, 2, 3, 4].filter (fun n => decide (s.pwr.level < n ∧ n ≤ top))).foldl enterLevel s
    if fresh.contains 5 then s5Steps s else s

/-- SHED_ENTER. -/
def execShedEnter (millivolts : BitVec 16) (s : State) : Host.Outcome State Fault Refusal := .next { s with mod := shedUp s.mod millivolts }

/-- A leave timer ends: levels stop being due, and the module undoes the actions of each it leaves, in descending order (R652). -/
def shedDown (m : Mod) (mv : BitVec 16) : Mod :=
  let s := sampleInput m mv
  if !shedding m || (running s.pwr.above s.pwr.due).isEmpty then m
  else
    let s := toTime s (firstEnd s.pwr.above s.pwr.due)
    let gone := ended s.pwr.above s.pwr.due s.now
    let s := setPwr s (fun p => { p with due := p.due.filter (fun n => !gone.contains n), above := gone.foldl tblDel p.above })
    let top := highest s.pwr.due
    let left := [4, 3, 2, 1].filter (fun n => decide (top < n ∧ n ≤ s.pwr.level))
    if left.isEmpty then s else powerEvent (left.foldl leaveLevel s) 0x21 top

/-- SHED_LEAVE. -/
def execShedLeave (millivolts : BitVec 16) (s : State) : Host.Outcome State Fault Refusal := .next { s with mod := shedDown s.mod millivolts }

/-! ## Power-on and the input switch (R657, R683, R684) -/

/-- AO_POWER_LOSS: the AO supply fails (R597, R657). -/
def execAoPowerLoss (s : State) : Host.Outcome State Fault Refusal := .next { s with mod := if s.mod.pwr.aoOn then aoLoss s.mod else s.mod }

/-- AO starts: input above 36.0 V with the switch closed; the 100 ms at or above 49.0 V count from now on (R683). -/
def aoOn (m : Mod) (mv : BitVec 16) : Mod :=
  let m := sampleInput m mv
  if m.pwr.aoOn || m.pwr.switchOpen || decide (mv.toNat ≤ 36000) then m
  else setPwr m (fun p => { p with aoOn := true, down := true, goodFrom := timer (decide (49000 ≤ mv.toNat)) m.now none })

/-- AO_POWER_ON. -/
def execAoPowerOn (millivolts : BitVec 16) (s : State) : Host.Outcome State Fault Refusal := .next { s with mod := aoOn s.mod millivolts }

/-- 100 ms at or above 49.0 V: a module reset begins, at power-on and out of S5; not out of P3 or after a thermal trip (R648, R657, R683, R690). PWR_FAIL_N is released (R686). -/
def powerGood (m : Mod) : Mod :=
  match m.pwr.goodFrom with
  | none => m
  | some t =>
    if !m.pwr.aoOn || m.pwr.switchOpen || !m.pwr.down || m.pwr.state == 3 || m.pwr.tripped || m.rcv.resets.any (fun r => r.d == .module) then m
    else startReset (toTime { m with pins := { m.pins with pwrFail := false } } (t + 100000000)) .module false false

/-- POWER_GOOD_TIMER. -/
def execPowerGoodTimer (s : State) : Host.Outcome State Fault Refusal := .next { s with mod := powerGood s.mod }

/-- Input above 61.0 V for 10 us opens the input switch, as a power loss (R684). -/
def overvoltage (m : Mod) (mv : BitVec 16) : Mod :=
  let s := sampleInput m mv
  match s.pwr.overFrom with
  | none => m
  | some t => if m.pwr.switchOpen then m else aoLoss (setPwr (toTime s (t + 10000)) (fun p => { p with switchOpen := true }))

/-- OVERVOLTAGE_TRIP. -/
def execOvervoltageTrip (millivolts : BitVec 16) (s : State) : Host.Outcome State Fault Refusal := .next { s with mod := overvoltage s.mod millivolts }

/-- 1 s below 60.0 V closes the switch, and power-on proceeds (R684, R683). -/
def reclose (m : Mod) (mv : BitVec 16) : Mod :=
  let s := sampleInput m mv
  match s.pwr.underFrom with
  | none => m
  | some t => aoOn (setPwr (toTime s (t + 1000000000)) (fun p => { p with switchOpen := false, underFrom := none })) mv

/-- INPUT_SWITCH_RECLOSE. -/
def execInputSwitchReclose (millivolts : BitVec 16) (s : State) : Host.Outcome State Fault Refusal := .next { s with mod := reclose s.mod millivolts }

/-! ## Power states (R648 to R650) -/

/-- Does a job have a descriptor that has started and not completed (R648, R650)? -/
def jobBusy (m : Mod) : Bool := m.hq.recs.any (fun e => e.2.active && e.2.job != 0)

/-- A request for P2 or P3 that is refused (R650). -/
def refusePower (m : Mod) : Mod := setPwr m (fun p => { p with refused := true })

/-- Entry into P2: the tiles lose their power, HBM keeps itself, the links go to keep-alive; what is kept is kept (R648, R649). -/
def enterP2 (m : Mod) : Mod :=
  let m := powerEvent m 0x22 2
  let m := loseTiles m Queue.saved
  putMode (setPwr m (fun p => { p with state := 2, req := 2, selfRefresh := true, waking := false }))

/-- Entry into P3: AO alone runs, and HBM loses its contents, the journal with them (R648, R649). -/
def enterP3 (m : Mod) : Mod :=
  let m := loseHbm (powerOff (powerEvent m 0x22 3))
  { setPwr m (fun p => { p with state := 3, req := 3 }) with hq := { m.hq with journalLost := true } }

/-- P0 asked for: it wakes the module from P2 (R648). -/
def askP0 (m : Mod) : Mod := setPwr m (fun p => { p with req := 0, waking := p.waking || p.state == 2 })

/-- A value of PWR_STATE.req asked for; 1 has no effect, and P2 none in P2, from which P3 can be asked for (R648, R650) (log 46, DESIGN CHOICE). -/
def askPower (m : Mod) (req : Nat) : Mod :=
  match req with
  | 0 => askP0 m
  | 1 => m
  | r => if m.pwr.state = 3 ∨ (m.pwr.state = 2 ∧ r = 2) then m else if jobBusy m then refusePower m else if r = 2 then enterP2 m else enterP3 m

/-- A write of PWR_STATE: idle, then req; refused is W1C (R660). -/
def pwrStateWrite (m : Mod) (v mask : Word) : Mod :=
  let m := if wrote v mask 50 then setPwr m (fun p => { p with refused := false }) else m
  if covers mask 0 then askPower (setPwr m (fun p => { p with idleUs := BitVec.ofNat 16 (fld v.toNat 16 16) })) (fld v.toNat 0 2) else m

/-- One step down: the issue limit to 25 %, then the clock to 600 MHz. -/
def stepDown (issue clk : Nat) : Nat × Nat := if 25 < issue then (issue - 5, clk) else if 600 < clk then (issue, clk - 100) else (issue, clk)

/-- One step undone, the clock first. -/
def stepUp (issue clk : Nat) : Nat × Nat := if clk < 800 then (issue, clk + 100) else if issue < 100 then (issue + 5, clk) else (issue, clk)

/-- Some steps undone. -/
def stepsUp : Nat → Nat × Nat → Nat × Nat
  | 0, k => k
  | n + 1, k => stepsUp n (stepUp k.1 k.2)

/-- A write of PWR_CAP (R660). Steps taken for the cap are undone as it is disabled (log 31, DEDUCED). -/
def pwrCapWrite (m : Mod) (v mask : Word) : Mod :=
  setPwr m (fun p =>
    let p := if covers mask 0 then { p with watts := BitVec.ofNat 16 v.toNat } else p
    if !covers mask 63 then p
    else if bitOf v.toNat 63 then { p with capEn := true }
    else
      let k := stepsUp p.capSteps (p.capIssue, p.capClk)
      { p with capEn := false, capIssue := k.1, capClk := k.2, capUnder := 0, capSteps := 0 })

/-- A write of PWR_TELCTL: 1 over 0 in en sets head and tail to 0 (R647). -/
def telctlWrite (t : Timebase) (v mask : Word) : Timebase :=
  let n := masked (telctlRead t) v mask
  let on := bitOf n 63
  let t1 := { t with telEn := on, telLsize := BitVec.ofNat 5 (fld n 32 5), telKinds := BitVec.ofNat 7 n }
  if on && !t.telEn then { t1 with telHead := 0, telTail := 0 } else t1

/-- A write of a PWR_ register (R647, R660). -/
def pwrWrite (m : Mod) (o : Nat) (v mask : Word) : Mod :=
  let t := m.tb
  if o = 0 then pwrStateWrite m v mask
  else if o = 0x10 then pwrCapWrite m v mask
  else if o = 0x800 then { m with tb := { t with telBase := w64 (fld (masked t.telBase v mask) 12 35 * 4096) } }
  else if o = 0x808 then { m with tb := telctlWrite t v mask }
  else if o = 0x810 then (if covers mask 0 then { m with tb := { t with telHead := BitVec.ofNat 26 v.toNat } } else m)
  else m

/-- P2_WAKE: the tiles take their reset values, with what is kept (R648, R649). -/
def p2Wake (m : Mod) : Mod :=
  if m.pwr.state != 2 || !m.pwr.waking then m
  else
    let m := { m with cores := m.cores.map (fun c => (c.1, { c.2 with inReset := false })) }
    powerEvent (putMode (setPwr m (fun p => { p with state := 0, waking := false, selfRefresh := decide (4 ≤ p.level) }))) 0x22 0

/-- P2_WAKE. -/
def execP2Wake (s : State) : Host.Outcome State Fault Refusal := .next { s with mod := p2Wake s.mod }

/-- Is a tile at work: a live context, or a chunk of its engine in flight (R648)? -/
def tileBusy (m : Mod) (q : Nat) : Bool :=
  (allThreads m).any (fun t => t / 64 == q && isLive m t) || !(cluster m q).chunks.isEmpty || (cluster m q).dqs.any (fun e => !e.2.isEmpty)

/-- A tile idle for PWR_STATE.idle us gates the clocks of its cores; idle 0 disables P1 (R648, R660). -/
def p1Idle (m : Mod) (q : Nat) : Mod :=
  if m.pwr.idleUs = 0 || !powered m || tileBusy m q || (cluster m q).gated then m
  else
    let m := toTime m ((cluster m q).busyAt + 1000 * m.pwr.idleUs.toNat)
    setCluster m q (fun c => { c with gated := true })

/-- P1_IDLE_ENTRY. -/
def execP1IdleEntry (cluster : ClusterId) (s : State) : Host.Outcome State Fault Refusal := .next { s with mod := p1Idle s.mod cluster.toNat }

/-- P1_WAKE: a request that targets a gated tile, or a dispatch to it, ungates it (R648). -/
def execP1Wake (cluster : ClusterId) (s : State) : Host.Outcome State Fault Refusal :=
  .next { s with mod := if (Machine.cluster s.mod cluster.toNat).gated then touchTile s.mod cluster.toNat else s.mod }

/-! ## Sensors (R637, R638, R642) -/

/-- The sample interval in us: 10, or 100 at S1 or worse (R642). -/
def sampleUs (p : Power) : Nat := if p.level = 0 then 10 else 100

/-- POWER_SAMPLE: the mean power of each rail over the interval, its energy, and the input's voltage (R637). Energy is kept in nJ. -/
def powerSampled (m : Mod) (mw : List Nat) (mv : BitVec 16) : Mod :=
  if !m.pwr.aoOn || m.pwr.down then m
  else
    let us := sampleUs m.pwr
    let m := sampleInput (toNext m (1000 * us)) mv
    setPwr m (fun p =>
      { p with
        railMv := mv
        railMw := ((List.range 23).zip mw).foldl (fun t e => tblPut t e.1 (BitVec.ofNat 32 e.2)) p.railMw
        railNj := ((List.range 23).zip mw).foldl (fun t e => tblMod 0 t e.1 (· + e.2 * us)) p.railNj })

/-- POWER_SAMPLE. -/
def execPowerSample (milliwatts : List Nat) (millivolts : BitVec 16) (s : State) : Host.Outcome State Fault Refusal :=
  .next { s with mod := powerSampled s.mod milliwatts millivolts }

/-- The limit for full performance of a sensor in 1/16 degree; none for the coolant (R638, R689). -/
def fullLimit (i : Nat) : Option Int := if i < 32 then some (95 * 16) else if i < 64 then some (85 * 16) else if i = 64 then some (95 * 16) else none

/-- The trip of a sensor in 1/16 degree (R689). -/
def tripLimit (i : Nat) : Option Int := if i < 32 then some (110 * 16) else if i < 64 then some (100 * 16) else if i = 64 then some (110 * 16) else none

/-- Does some sensor read at or above its limit? -/
def anyAt (p : Power) (limit : Nat → Option Int) : Bool :=
  (List.range 65).any (fun i => match tblFind p.temps i, limit i with
    | some t, some l => decide (l ≤ t)
    | _, _ => false)

/-- The sensors update; the timer of the trip runs while one is at its trip, and that of the undoing of the thermal steps while none is at its limit (R638, R690). -/
def thermalSampled (m : Mod) (l : List Int) : Mod :=
  if !m.pwr.aoOn || m.pwr.down then m
  else
    let m := toNext m 100000
    let m := setPwr m (fun p => { p with temps := ((List.range 67).zip l).foldl (fun t e => tblPut t e.1 e.2) p.temps })
    setPwr m (fun p => { p with tripFrom := timer (anyAt p tripLimit) m.now p.tripFrom, thermFrom := timer (!anyAt p fullLimit) m.now p.thermFrom })

/-- THERMAL_SAMPLE. -/
def execThermalSample (sensors : List Int) (s : State) : Host.Outcome State Fault Refusal := .next { s with mod := thermalSampled s.mod sensors }

/-! ## The cap and the thermal steps (R658, R690) -/

/-- A CAP_STEP record where the issue limit or the clock has changed; it names the issue limit (R658; log 32, DEDUCED). -/
def capStepped (old new : Mod) : Mod :=
  if old.pwr.capIssue = new.pwr.capIssue ∧ old.pwr.capClk = new.pwr.capClk then new else powerEvent new 0x23 new.pwr.capIssue

/-- The power block with one step down more, if there is one left; `therm`: it is a thermal step. The cap and the thermal control lower one issue limit and one clock, and each
undoes its own steps (R658, R690; log 33, DEDUCED). -/
def Power.down1 (p : Power) (therm : Bool) : Power :=
  let k := stepDown p.capIssue p.capClk
  if k = (p.capIssue, p.capClk) then p
  else { p with capIssue := k.1, capClk := k.2, capSteps := p.capSteps + b1 (!therm), thermSteps := p.thermSteps + b1 therm }

/-- The mean input power of a 1 ms interval compared with the cap (R658). -/
def capInterval (m : Mod) (watts : Nat) : Mod :=
  if !m.pwr.capEn || !tbRuns m then m
  else
    let m := toNext m 1000000
    let p := m.pwr
    capStepped m
      (if p.watts.toNat < watts then setPwr m (fun p => { p.down1 false with capUnder := 0 })
       else if 100 * watts < 98 * p.watts.toNat then
         if p.capUnder + 1 < 10 then setPwr m (fun p => { p with capUnder := p.capUnder + 1 })
         else if p.capSteps = 0 then setPwr m (fun p => { p with capUnder := 0 })
         else
           let k := stepUp p.capIssue p.capClk
           setPwr m (fun p => { p with capIssue := k.1, capClk := k.2, capUnder := 0, capSteps := p.capSteps - 1 })
       else setPwr m (fun p => { p with capUnder := 0 }))

/-- POWER_CAP_INTERVAL. -/
def execPowerCapInterval (watts : Nat) (s : State) : Host.Outcome State Fault Refusal := .next { s with mod := capInterval s.mod watts }

/-- A millisecond's thermal step: down while a sensor is at or above its limit, all undone once every one has been below for 10 ms (R690; log 33, DEDUCED). -/
def thermalStep (m : Mod) : Mod :=
  if !tbRuns m then m
  else
    let m := toNext m 1000000
    let p := m.pwr
    capStepped m
      (if anyAt p fullLimit then setPwr m (fun p => p.down1 true)
       else if p.thermFrom.all (fun t => decide (t + 10000000 ≤ m.now)) then
         let k := stepsUp p.thermSteps (p.capIssue, p.capClk)
         setPwr m (fun p => { p with capIssue := k.1, capClk := k.2, thermSteps := 0 })
       else m)

/-- THERMAL_THROTTLE. -/
def execThermalThrottle (s : State) : Host.Outcome State Fault Refusal := .next { s with mod := thermalStep s.mod }

/-- A sensor at its trip for 1 ms: the steps of R657 once, FATAL_N, AO alone until the power is cycled (R690). -/
def thermalTripped (m : Mod) : Mod :=
  match m.pwr.tripFrom with
  | none => m
  | some t =>
    let m := s5Steps (toTime m (t + 1000000))
    { setPwr m (fun p => { p with tripped := true }) with pins := { m.pins with fatal := true } }

/-- THERMAL_TRIP. -/
def execThermalTrip (s : State) : Host.Outcome State Fault Refusal := .next { s with mod := thermalTripped s.mod }

end Sys2Proof.Machine
end

