-- ==== Sys2Proof/Machine/Regs.lean ====
section
/-! DEFINITION. The control range (R13, R495): every setup register read, cleared on a read and written, the module DBG_ block (R589, R622 to R625), the start of resets (R604, R616, R618, R624), and the commands on registers. -/

namespace Sys2Proof.Machine

/-! ## Resets begun (R604, R616, R618, R624) -/

/-- The shared jobs that have a descriptor started and not completed. -/
def jobsInStep (m : Mod) : List Nat :=
  (m.hq.jobs.map Prod.fst).filter (fun j => isShared m j && m.hq.recs.any (fun e => e.2.active && e.2.job == j))

/-- A module reset begins: shared jobs in mid-step are aborted on every member first (R616, R618). -/
def beginModuleReset (m : Mod) (hang dbg : Bool) : Mod :=
  let m := (jobsInStep m).foldl (fun m j => abortWork (sendRoadblock m j 2 0) j m.hq.nextRec 7 7) m
  startReset m .module hang dbg

/-- A reset of a domain begins with its fence; an up link goes DOWN first. -/
def beginReset (m : Mod) (d : Domain) (hang dbg : Bool) : Mod :=
  match d with
  | .module => if m.rcv.resets.any (fun r => r.d == .module) then m else beginModuleReset m hang dbg
  | .link l => if (linkOf m l.toNat).state = 2 then linkDown m l.toNat else startReset m d hang dbg
  | _ => startReset m d hang dbg

/-- DBG_RESET as it reads (R624). -/
def dbgResetRead (r : Recovery) : Word := w64 (b1 r.busy * 2 ^ 62 + r.domain.toNat * 2 ^ 56 + r.result.toNat * 2 ^ 48 + r.target.toNat)

/-- The reset that DBG_RESET starts, or the one that absorbs it, is marked as started there. -/
def markDbg (m : Mod) (d : Domain) : Mod :=
  { m with rcv := { m.rcv with resets := modFirst (fun r => domainIn d r.d) (fun r => { r with dbg := true }) m.rcv.resets } }

/-- A write of DBG_RESET: one with go while busy is ignored; an invalid target completes with result 2 (R624). -/
def dbgResetWrite (m : Mod) (v mask : Word) : Mod :=
  let go := wrote v mask 63
  if go && m.rcv.busy then m
  else
    let n := masked (dbgResetRead m.rcv) v mask
    let m := { m with rcv := { m.rcv with domain := BitVec.ofNat 3 (fld n 56 3), target := BitVec.ofNat 14 n } }
    if !go then m
    else match domainFrom m.rcv.domain.toNat m.rcv.target.toNat with
      | none => { m with rcv := { m.rcv with result := 2 } }
      | some d => markDbg (beginReset { m with rcv := { m.rcv with busy := true, result := 0 } } d false true) d

/-! ## The module DBG_ block -/

/-- DBG_LOADCTL (R589). -/
def loadctlRead (h : HostQ) : Word := w64 (h.loads.toNat * 2 ^ 32 + b1 h.loadEn)

/-- A write of DBG_LOADCTL: enabling bypass loads is a debug event (R589, R672). -/
def loadctlWrite (m : Mod) (v mask : Word) : Mod :=
  if !covers mask 0 then m
  else
    let on := bitOf v.toNat 0
    let m' := { m with hq := { m.hq with loadEn := on } }
    if on && !m.hq.loadEn then debugEvent m' 1 else m'

/-- DBG_RECCTL (R623). -/
def recctlRead (r : Recovery) : Word :=
  w64 (r.probation.toNat * 2 ^ 48 + r.mto.toNat * 2 ^ 32 + r.hbto.toNat * 2 ^ 24 + r.budget.toNat * 65536 + b1 r.pwd)

/-- A write of DBG_RECCTL. -/
def recctlWrite (r : Recovery) (v mask : Word) : Recovery :=
  let n := masked (recctlRead r) v mask
  { r with probation := BitVec.ofNat 8 (fld n 48 8), mto := BitVec.ofNat 16 (fld n 32 16), hbto := BitVec.ofNat 8 (fld n 24 8),
           budget := BitVec.ofNat 4 (fld n 16 4), pwd := bitOf n 0 }

/-- The value of a register of the module DBG_ block; none at a reserved offset. -/
def dbgRead (m : Mod) (o : Nat) : Option Word :=
  if o = 0x100 then some (loadctlRead m.hq)
  else if o = 0x200 then some (recctlRead m.rcv)
  else if o = 0x208 then some (dbgResetRead m.rcv)
  else if o = 0x210 then some (w64 m.rcv.evHead.toNat)
  else if o = 0x218 then some (w64 (m.rcv.lost.toNat * 2 ^ 48 + m.rcv.evTail.toNat))
  else if 0x80000 ≤ o ∧ o < 0x100000 then some 0
  else none

/-- A write of a register of the module DBG_ block. -/
def dbgWrite (m : Mod) (o : Nat) (v mask : Word) : Mod :=
  if o = 0x100 then loadctlWrite m v mask
  else if o = 0x200 then { m with rcv := recctlWrite m.rcv v mask }
  else if o = 0x208 then dbgResetWrite m v mask
  else if o = 0x210 then (if covers mask 0 then { m with rcv := { m.rcv with evHead := BitVec.ofNat 20 v.toNat } } else m)
  else m

/-- The RC fields of the module DBG_ block that an access clears. -/
def dbgClear (m : Mod) (o : Nat) (mask : Word) : Mod :=
  if o = 0x100 then (if covers mask 32 then { m with hq := { m.hq with loads := 0 } } else m)
  else if o = 0x218 then (if covers mask 48 then { m with rcv := { m.rcv with lost := 0 } } else m)
  else m

/-! ## The control range (R495) -/

/-- The value of the register at an offset; none at a reserved one. -/
def regRead (m : Mod) (o : Nat) : Option Word :=
  if o < 0x800000 then
    let q := o / 0x10000
    let r := o % 0x10000
    if r < 0x1000 then clusterRead m q r
    else if r < 0x9000 then coreRead m (16 * q + (r - 0x1000) / 0x800) ((r - 0x1000) % 0x800)
    else none
  else if o < 0xA00000 then hqiRead m (o - 0x800000)
  else if o < 0xB00000 then fabRead m (o - 0xA00000)
  else if o < 0xC00000 then (if o - 0xB00000 < 192 then some (w64 (placeOf m ((o - 0xB00000) / 8)).toNat) else none)
  else if o < 0xD00000 then tbRead m (o - 0xC00000)
  else if o < 0xE00000 then pwrRead m (o - 0xD00000)
  else if o < 0xF00000 then secRead m (o - 0xE00000)
  else if o < 0x1000000 then dbgRead m (o - 0xF00000)
  else none

/-- The register at an offset with the RC fields of the accessed half cleared (R9, R13). -/
def regClear (m : Mod) (o : Nat) (mask : Word) : Mod :=
  if o < 0x800000 then (if o % 0x10000 < 0x1000 then clusterClear m (o / 0x10000) (o % 0x10000) mask else m)
  else if o < 0xA00000 then m
  else if o < 0xB00000 then fabClear m (o - 0xA00000) mask
  else if o < 0xC00000 then m
  else if o < 0xD00000 then tbClear m (o - 0xC00000) mask
  else if o < 0xE00000 then pwrClear m (o - 0xD00000) mask
  else if o < 0xF00000 then m
  else dbgClear m (o - 0xF00000) mask

/-- The register at an offset written under a mask. -/
def regWrite (m : Mod) (o : Nat) (v mask : Word) : Mod :=
  if o < 0x800000 then
    let q := o / 0x10000
    let r := o % 0x10000
    if r < 0x1000 then clusterWrite m q r v mask
    else if r < 0x9000 then coreWrite m (16 * q + (r - 0x1000) / 0x800) ((r - 0x1000) % 0x800) v mask
    else m
  else if o < 0xA00000 then hqiWrite m (o - 0x800000) v mask
  else if o < 0xB00000 then fabWrite m (o - 0xA00000) v mask
  else if o < 0xC00000 then (if o - 0xB00000 < 192 then placeWrite m ((o - 0xB00000) / 8) v mask else m)
  else if o < 0xD00000 then tbWrite m (o - 0xC00000) v mask
  else if o < 0xE00000 then pwrWrite m (o - 0xD00000) v mask
  else if o < 0xF00000 then secWrite m (o - 0xE00000) v mask
  else dbgWrite m (o - 0xF00000) v mask

/-- The core whose context's STRM_SUBMIT port holds an offset (R411, R495). -/
def submitPort (o : Nat) : Option Nat :=
  let r := o % 0x10000
  if o < 0x800000 ∧ 0x1000 ≤ r ∧ r < 0x9000 then
    let k := (r - 0x1000) % 0x800
    if 0x100 ≤ k ∧ k < 0x500 ∧ k % 0x100 < 0x40 then some (16 * (o / 0x10000) + (r - 0x1000) / 0x800) else none
  else none

/-- Does an offset lie in a DBG_COMMIT port (R596, R622)? -/
def commitPort (o : Nat) : Bool := decide (0xF80000 ≤ o ∧ o < 0x1000000)

/-- The bits of a register that an access of 4 or 8 bytes covers; none for another size or alignment (R13). -/
def accessMask (o size : Nat) : Option Word :=
  if size = 8 ∧ o % 8 = 0 then some (~~~(0 : Word))
  else if size = 4 ∧ o % 8 = 0 then some 0x00000000FFFFFFFF
  else if size = 4 ∧ o % 8 = 4 then some 0xFFFFFFFF00000000
  else none

/-- A write of bytes in the control range: the module after it, and the status of the response (R13, R411, R473, R596). -/
def ctlWrite (m : Mod) (o : Nat) (d : List Byte) : Mod × Byte :=
  match submitPort o with
  | some c => (count m c 47 1, 0)
  | none =>
    if commitPort o then (m, 0)
    else
      match accessMask o d.length, regRead m (o / 8 * 8) with
      | some mask, some _ => (regWrite m (o / 8 * 8) (w64 (ofBytes d * 256 ^ (o % 8))) mask, 0)
      | _, _ => (m, 2)

/-- A read of bytes in the control range: RC fields of the half read are cleared (R9, R13). -/
def ctlRead (m : Mod) (o n : Nat) : Mod × Option (List Byte) :=
  if (submitPort o).isSome || commitPort o then (m, some (List.replicate n 0))
  else
    match accessMask o n, regRead m (o / 8 * 8) with
    | some mask, some x => (regClear m (o / 8 * 8) mask, some (sliceBytes (wordBytes x) (o % 8) n))
    | _, _ => (m, none)

/-- The module address of an offset of the control range (R473). -/
def ctlAddr (o : Nat) : Nat := 0x700000000000 + o

/-! ## Commands on registers -/

/-- Is a port's link up: powered, out of reset, trained, its PHY not disabled (R648, R668, R686)? -/
def portUp (m : Mod) (p : Bool) : Bool :=
  m.pwr.aoOn && !m.pwr.down && m.pwr.state != 3 && !(portOfHost m p).perst && !disabled m 5

/-- Does a port carry PCI Express traffic: its link is up, and the firmware has enabled the ports (R667)? -/
def portLive (m : Mod) (p : Bool) : Bool := portUp m p && (m.sec.stage == 2 || m.sec.stage == 3)

/-- Does an access to the control range find a way: a host's through its port; what goes between the steward and a cluster tile over a bridge (R27) (log 100, DESIGN CHOICE)? -/
def ctlReaches (m : Mod) (who : Who) (o : Nat) : Bool :=
  match who with
  | .host p => portLive m p && (decide (0x800000 ≤ o) || stewardReaches m (o / 0x10000))
  | .firmware => decide (0x800000 ≤ o) || stewardReaches m (o / 0x10000)
  | .thread t => decide (o < 0x800000) || stewardReaches m (t.toNat / 64)
  | .peer _ => true

/-- May an access to the control range be served now: it finds a way, and the tiles' registers wait while the tiles have no power or clock (R649, R656) (log 68, DEDUCED)? -/
def ctlServed (m : Mod) (who : Who) (o : Nat) : Bool :=
  ctlReaches m who o && (if o < 0x800000 then meshRuns m else m.pwr.aoOn && !m.pwr.down)

/-- Does an access write DBG_DFSP of a core (R317, R495)? -/
def dfspAt (o : Nat) : Bool := decide (o < 0x800000 ∧ 0x1000 ≤ o % 0x10000 ∧ o % 0x10000 < 0x9000 ∧ (o % 0x10000 - 0x1000) % 0x800 / 8 = 2)

/-- Is a write of a setup register turned away by a fence? The firmware that holds a core in reset writes its DBG_DFSP then (R317, R603). -/
def writeFenced (m : Mod) (who : Who) (o : Nat) : Bool := fencedAt m (ctlAddr o) m.now && !(who == .firmware && dfspAt o)

/-! ## Doorbells (R549, R550) -/

/-- The number of entries of a ring. -/
def ringSize (lsize : BitVec 5) : Nat := 2 ^ lsize.toNat

/-- A write of the doorbell of a submission ring; it wakes the module from P2 (R648). -/
def submit (m : Mod) (p : Bool) (n size : Nat) (v : Word) : Mod :=
  if !portLive m p || (size != 4 && size != 8) then m
  else
    let i := v.toNat % 65536
    setSring (wakeUp m) p n (fun r => if ringSize r.lsize ≤ i then r.stop 1 else { r with tail := BitVec.ofNat 16 i })

/-- A write of the doorbell of a completion ring. -/
def consume (m : Mod) (p : Bool) (n size : Nat) (v : Word) : Mod :=
  if !portLive m p || (size != 4 && size != 8) then m
  else
    let i := v.toNat % 65536
    setCring m p n (fun r => if ringSize r.lsize ≤ i then r else { r with head := BitVec.ofNat 16 i })

/-- A host's write in the doorbells of its BAR2: those of another size or alignment are ignored, and those that leave the index out change nothing. -/
def bellWrite (m : Mod) (p : Bool) (o : Nat) (d : List Byte) : Mod :=
  let m := { m with answer := .none }
  match accessMask o d.length with
  | none => m
  | some mask =>
    if !covers mask 0 then m
    else
      match o % 0x1000 / 8 with
      | 0 => submit m p (o / 0x1000) d.length (w64 (ofBytes d))
      | 1 => consume m p (o / 0x1000) d.length (w64 (ofBytes d))
      | _ => m

/-! ## The MSI-X table and the pending bits in BAR2 (R540, R541) -/

/-- The word of a port's MSI-X table or pending bits at an offset of BAR2 from 0x100_0000 on; none elsewhere (log 106). -/
def msixRead (k : Port) (o : Nat) : Option Word :=
  if o < 0x8000 then
    let x := k.vec (o / 16)
    some (if o % 16 < 8 then x.addr else w64 (b1 x.masked * 2 ^ 32 + x.data.toNat))
  else if o < 0x8100 then
    some (w64 ((List.range 64).foldl (fun s i => s + if k.msixPending.contains (8 * (o - 0x8000) + i) then 2 ^ i else 0) 0))
  else none

/-- A word of the MSI-X table written: a vector that is no longer masked sends what is pending on it. The pending bits are read only. -/
def msixWrite (m : Mod) (p : Bool) (o : Nat) (v mask : Word) : Mod :=
  if 0x8000 ≤ o then m
  else
    let i := o / 16
    let x := (portOfHost m p).vec i
    if o % 16 < 8 then setPort m p (fun k => { k with msix := tblPut k.msix i { x with addr := w64 (masked x.addr v mask / 4 * 4) } })
    else
      let n := masked (w64 (b1 x.masked * 2 ^ 32 + x.data.toNat)) v mask
      let m := setPort m p (fun k => { k with msix := tblPut k.msix i { x with data := BitVec.ofNat 32 n, masked := bitOf n 32 } })
      if (portOfHost m p).msixPending.contains i && !bitOf n 32 && (portOfHost m p).bme then
        sendMsix (setPort m p (fun k => { k with msixPending := k.msixPending.filter (· != i) })) p i
      else m

/-- A host's write at an offset of BAR2 from 0x100_0000 on. -/
def bar2Write (m : Mod) (p : Bool) (o : Nat) (d : List Byte) : Mod :=
  match accessMask o d.length, msixRead (portOfHost m p) (o / 8 * 8) with
  | some mask, some _ => { msixWrite m p (o / 8 * 8) (w64 (ofBytes d * 256 ^ (o % 8))) mask with answer := .none }
  | _, _ => { m with answer := .error 2 }

/-- A host's read there. -/
def bar2Read (m : Mod) (p : Bool) (o n : Nat) : Mod :=
  match accessMask o n, msixRead (portOfHost m p) (o / 8 * 8) with
  | some _, some x => { m with answer := .value (w64 (ofBytes (sliceBytes (wordBytes x) (o % 8) n))) }
  | _, _ => { m with answer := .error 2 }

/-- The port and the offset of a host's access that lies beyond BAR0: in the MSI-X structures of its BAR2 (log 106, DESIGN CHOICE). -/
def inBar2 (who : Who) (o : Nat) : Option (Bool × Nat) :=
  match who with
  | .host p => if 0x1000000 ≤ o ∧ o < 0x2000000 then some (p, o - 0x1000000) else none
  | _ => none

/-- The port and the BAR2 offset of a host's access to its doorbells, which the commands number from 0x200_0000 on (log 106, DESIGN CHOICE). -/
def inBells (who : Who) (o : Nat) : Option (Bool × Nat) :=
  match who with
  | .host p => if 0x2000000 ≤ o ∧ o < 0x3000000 then some (p, o - 0x2000000) else none
  | _ => none

/-- A write of a setup register: the answer is the error response of a fenced target (R603) or of a bad access (R13), or none. -/
def setupWrite (m : Mod) (who : Who) (o : Nat) (d : List Byte) : Mod :=
  if !ctlServed m who o then m
  else
    match inBar2 who o, inBells who o with
    | some (p, i), _ => bar2Write m p i d
    | none, some (p, i) => bellWrite m p i d
    | none, none =>
      if writeFenced m who o then { m with answer := .error 1 }
      else
        match ctlWrite m o d with
        | (m, 0) => { m with answer := .none }
        | (m, e) => { m with answer := .error e }

/-- The bytes of a register access of a command. -/
def accBytes (size : Nat) (v : Word) : List Byte := toBytes size v.toNat

/-- SETUP_REGISTER_WRITE. -/
def execSetupRegisterWrite (who : Who) (off size : Nat) (value : Word) (s : State) : Host.Outcome State Fault Refusal :=
  .next { s with mod := setupWrite s.mod who off (accBytes size value) }

/-- A read of a setup register, which then clears its RC fields. -/
def setupRead (m : Mod) (who : Who) (o n : Nat) : Mod :=
  if !ctlServed m who o then m
  else
    match inBar2 who o, inBells who o with
    | some (p, i), _ => bar2Read m p i n
    | none, some _ => { m with answer := .value 0 }
    | none, none =>
      if fencedAt m (ctlAddr o) m.now then { m with answer := .error 1 }
      else
        match ctlRead m o n with
        | (m, some d) => { m with answer := .value (w64 (ofBytes d)) }
        | (m, none) => { m with answer := .error 2 }

/-- READ_CLEAR_FIELD_READ. -/
def execReadClearFieldRead (who : Who) (off size : Nat) (s : State) : Host.Outcome State Fault Refusal :=
  .next { s with mod := setupRead s.mod who off size }

/-- A write of the register at an offset of the control range, by a command that names the register. -/
def writeReg (s : State) (o : Nat) (a : RegAccess) : Host.Outcome State Fault Refusal :=
  .next { s with mod := setupWrite s.mod .firmware (o + a.at_) (accBytes a.size a.value) }

/-- The offset of a core's block (R495). -/
def coreBlock (c : Nat) : Nat := 0x10000 * (c / 16) + 0x1000 + 0x800 * (c % 16)

/-- DBG_BARMEM_WRITE (R36). -/
def execDbgBarmemWrite (thread : ThreadId) (w : BitVec 2) (acc : RegAccess) (s : State) : Host.Outcome State Fault Refusal :=
  writeReg s (coreBlock (thread.toNat / 4) + 0x500 + 32 * (thread.toNat % 4) + 8 * w.toNat) acc

/-- HBM_PLACE_WRITE (R484, R485). -/
def execHbmPlaceWrite (j : BitVec 5) (acc : RegAccess) (s : State) : Host.Outcome State Fault Refusal := writeReg s (0xB00000 + 8 * j.toNat) acc

/-- FAB_ID_WRITE (R535). -/
def execFabIdWrite (acc : RegAccess) (s : State) : Host.Outcome State Fault Refusal := writeReg s 0xA00000 acc

/-- The offset of a ring's registers (R545). -/
def ringBlock (port : Bool) (ring : BitVec 12) : Nat := 0x800000 + 0x20000 * b1 port + 0x20 * ring.toNat

/-- HQI_SQCTL_WRITE (R547). -/
def execHqiSqctlWrite (port : Bool) (ring : BitVec 12) (acc : RegAccess) (s : State) : Host.Outcome State Fault Refusal := writeReg s (ringBlock port ring + 8) acc

/-- HQI_CQCTL_WRITE (R548). -/
def execHqiCqctlWrite (port : Bool) (ring : BitVec 12) (acc : RegAccess) (s : State) : Host.Outcome State Fault Refusal := writeReg s (ringBlock port ring + 0x18) acc

/-- HQI_EVC_WRITE (R570). -/
def execHqiEvcWrite (n : BitVec 16) (acc : RegAccess) (s : State) : Host.Outcome State Fault Refusal := writeReg s (0x900000 + 8 * n.toNat) acc

/-- HQI_EVADD_WRITE (R570). -/
def execHqiEvaddWrite (n : BitVec 16) (acc : RegAccess) (s : State) : Host.Outcome State Fault Refusal := writeReg s (0x980000 + 8 * n.toNat) acc

/-- HQI_THINT_WRITE (R571). -/
def execHqiThintWrite (acc : RegAccess) (s : State) : Host.Outcome State Fault Refusal := writeReg s 0x840010 acc

/-- DBG_LOADCTL_WRITE (R589). -/
def execDbgLoadctlWrite (acc : RegAccess) (s : State) : Host.Outcome State Fault Refusal := writeReg s 0xF00100 acc

/-- DBG_RESET_WRITE (R624). -/
def execDbgResetWrite (acc : RegAccess) (s : State) : Host.Outcome State Fault Refusal := writeReg s 0xF00208 acc

/-- A write of PWR_STATE whose req field asks for a state (R648, R660). -/
def powerAcc (a : RegAccess) (req : Nat) : RegAccess := { a with value := if a.at_ = 0 then setFld a.value 0 2 req else a.value }

/-- REQUEST_P0. -/
def execRequestP0 (acc : RegAccess) (s : State) : Host.Outcome State Fault Refusal := writeReg s 0xD00000 (powerAcc acc 0)

/-- REQUEST_P2 (R649, R650). -/
def execRequestP2 (acc : RegAccess) (s : State) : Host.Outcome State Fault Refusal := writeReg s 0xD00000 (powerAcc acc 2)

/-- REQUEST_P3 (R649, R650). -/
def execRequestP3 (acc : RegAccess) (s : State) : Host.Outcome State Fault Refusal := writeReg s 0xD00000 (powerAcc acc 3)

/-- SEC_COMMIT (R666). -/
def execSecCommit (acc : RegAccess) (s : State) : Host.Outcome State Fault Refusal := writeReg s 0xE00010 acc

/-- SEC_UPDATE (R669). -/
def execSecUpdate (acc : RegAccess) (s : State) : Host.Outcome State Fault Refusal := writeReg s 0xE00018 acc

/-- MR_EXTEND: a write of SEC_MREXTCTL (R672). -/
def execMrExtend (acc : RegAccess) (s : State) : Host.Outcome State Fault Refusal := writeReg s 0xE00080 acc

/-! ## A core's debug commands (R342 to R346, R408, R409) -/

/-- A write of a core's register as a command names it. -/
def coreCommand (s : State) (c o : Nat) (v : Word) : Host.Outcome State Fault Refusal :=
  .next { s with mod := setupWrite s.mod .firmware (coreBlock c + o) (wordBytes v) }

/-- DBG_CTXCTL written with an operation and a context. -/
def ctxctlWord (op i : Nat) : Word := w64 (i * 16 + op)

/-- HALT. -/
def execHalt (core : CoreId) (ctx : BitVec 2) (s : State) : Host.Outcome State Fault Refusal := coreCommand s core.toNat 0 (ctxctlWord 1 ctx.toNat)
/-- RESUME. -/
def execResume (core : CoreId) (ctx : BitVec 2) (s : State) : Host.Outcome State Fault Refusal := coreCommand s core.toNat 0 (ctxctlWord 2 ctx.toNat)
/-- SAVE. -/
def execSave (core : CoreId) (ctx : BitVec 2) (s : State) : Host.Outcome State Fault Refusal := coreCommand s core.toNat 0 (ctxctlWord 3 ctx.toNat)
/-- RESTORE. -/
def execRestore (core : CoreId) (ctx : BitVec 2) (s : State) : Host.Outcome State Fault Refusal := coreCommand s core.toNat 0 (ctxctlWord 4 ctx.toNat)
/-- KILL. -/
def execKill (core : CoreId) (ctx : BitVec 2) (s : State) : Host.Outcome State Fault Refusal := coreCommand s core.toNat 0 (ctxctlWord 5 ctx.toNat)
/-- CONFINE_ON. -/
def execConfineOn (core : CoreId) (s : State) : Host.Outcome State Fault Refusal := coreCommand s core.toNat 0 (ctxctlWord 6 0)
/-- CONFINE_OFF. -/
def execConfineOff (core : CoreId) (s : State) : Host.Outcome State Fault Refusal := coreCommand s core.toNat 0 (ctxctlWord 7 0)

/-- DBG_CCTL written with one of its operations, its other fields as they stand. -/
def cctlCommand (s : State) (c bit : Nat) : Host.Outcome State Fault Refusal :=
  coreCommand s c 0x18 (cctlRead s.mod c ||| w64 (2 ^ bit))

/-- UNLOCK. -/
def execUnlock (core : CoreId) (s : State) : Host.Outcome State Fault Refusal := cctlCommand s core.toNat 31
/-- ICINV. -/
def execIcinv (core : CoreId) (s : State) : Host.Outcome State Fault Refusal := cctlCommand s core.toNat 30
/-- DCINV. -/
def execDcinv (core : CoreId) (s : State) : Host.Outcome State Fault Refusal := cctlCommand s core.toNat 29

/-! ## Tiles and the steward's bridges (R27, R34, R45) -/

/-- MESH_FLIT_RETRY: the retry counter of the tile's links (R34, R636). -/
def execMeshFlitRetry (tile : ClusterId) (s : State) : Host.Outcome State Fault Refusal := onMesh s (fun m => countCluster m tile.toNat 0 1)

/-- CLOCK_STRETCH: the stretched periods are counted (R45, R636). -/
def execClockStretch (tile : ClusterId) (periods : Nat) (s : State) : Host.Outcome State Fault Refusal := onMesh s (fun m => countCluster m tile.toNat 1 periods)

/-- STEWARD_BRIDGE_FAILOVER: a steward bridge goes down, and its traffic uses the other (R27, `bridgeFor`). -/
def execStewardBridgeFailover (bridge : Bool) (s : State) : Host.Outcome State Fault Refusal :=
  .next { s with mod := { s.mod with bridgeDown := if s.mod.bridgeDown.contains bridge then s.mod.bridgeDown else s.mod.bridgeDown ++ [bridge] } }

end Sys2Proof.Machine
end

