-- ==== Sys2Proof/Machine/Target.lean ====
section
/-! DEFINITION. The targets of global accesses on this module (R446 to R450, R473): one read, one write and one atomic at a module address, whoever asks. -/

namespace Sys2Proof.Machine

/-! ## The answer of a target -/

/-- What a target answers to a read: it is done with a status, the bytes with their poison, and whether an uncorrectable granule was met; or the read is on its way to
host memory. -/
inductive TRead where
  | done (status : Byte) (d : List (Byte × Bool)) (ue : Bool)
  | sent
  deriving DecidableEq, Repr

/-- A read answered with an error response. -/
def TRead.error (status : Byte) : TRead := .done status [] false

/-- The bytes of a read that carry no poison. -/
def clean (d : List Byte) : List (Byte × Bool) := d.map (fun b => (b, false))

/-- The cluster tile that holds an SRAM or queue-view address. -/
def tileOf (a : Nat) : Option Nat :=
  match regionOf a with
  | .cm q _ => some q
  | .lm c _ | .sdm c _ | .queueView c _ => some (c / 16)
  | _ => none

/-- External traffic at a tile keeps it out of P1 (R648). -/
def touchAt (m : Mod) (a : Nat) : Mod := match tileOf a with | some q => touchTile m q | none => m

/-! ## Host windows (R543, R544) -/

/-- Does the port of a host window carry accesses? -/
def windowUp (m : Mod) (p : Bool) : Bool := let k := portOfHost m p; k.bme && !k.perst

/-- The host bus address of an offset of a host window. -/
def hostAddr (m : Mod) (p : Bool) (off : Nat) : Nat := 2 ^ 43 * ((portOfHost m p).hwbase.toNat / 2 ^ 43) + off % 2 ^ 43

/-- A read through a host window: sent, or answered with what host memory gives (log 74, DESIGN CHOICE). -/
def readWindow (m : Mod) (p : Bool) (off n : Nat) (host : Option HostData) : Mod × TRead :=
  if !windowUp m p then (m, .error 2)
  else
    match host with
    | none => (hostReads m p (hostAddr m p off) n, .sent)
    | some (.bytes d) => (m, .done 0 (clean (sliceBytes d 0 n)) false)
    | some .error => (m, .error 2)
    | some .poison => (aerError m p 12, .done 0 (List.replicate n (0, true)) false)

/-- A write through a host window, posted (R543); `relaxed`: the data of a COPY, a FILL or a stream chunk (R540). -/
def writeWindow (m : Mod) (p : Bool) (off : Nat) (d : List (Byte × Bool)) (relaxed : Bool) : Mod × Byte :=
  if !windowUp m p then (m, 2) else (hostWrites m p (hostAddr m p off) d relaxed, 0)

/-! ## Reads, writes and atomics -/

/-- The cluster tile whose ingress arbiter a bulk packet for an address passes: that of its CM, LM, SDM or HBM port (R435). -/
def ingressOf (m : Mod) (a : Nat) : Option Nat :=
  match regionOf a with
  | .hbm => some (portOf m a).1
  | .cm q _ => some q
  | .lm c _ | .sdm c _ => some (c / 16)
  | _ => none

/-- A bulk packet issued at `at_` is served by the ingress arbiter of its target. A packet that has waited there for longer than STRM_INGRESS.age goes before those that
have not, and INGRESS_AGED counts those so advanced (R435, R444, R636). When it came to the ingress and by which port no command says: of a packet old enough, whether it
counts is free; the order in which the arbiter serves packets is that of the commands that perform them (log 99, DESIGN CHOICE). -/
def ingress (m : Mod) (a at_ : Nat) : Mod :=
  match ingressOf m a with
  | none => m
  | some q =>
    let age := (cluster m q).ingressAge.toNat
    if age = 0 ∨ m.now - at_ ≤ age then m
    else
      let n := m.free
      let m := { m with free := n + 1 }
      if Config.ingressAged n then countCluster m q 10 1 else m

/-- The reserved offsets of a queue view (R353), where a global access completes with an error response (R473). -/
def viewReserved (off : Nat) : Bool := decide (0x8800 ≤ off ∧ off < 0x9000) || decide (0xB000 ≤ off)

/-- A read of `n` bytes at a module address, within one 4 KiB block; the request was issued at `at_` (R603). -/
def readTarget (m : Mod) (a n at_ : Nat) (host : Option HostData) : Mod × TRead :=
  if fencedAt m a at_ then (m, .error 1)
  else
    let m := ingress m a at_
    match regionIn m a with
    | .hbm => match readHbm m a n with | (m, d) => (m, .done 0 d false)
    | .cm _ _ | .lm _ _ | .sdm _ _ =>
      let ue := (granulesOf a n).any (fun g => granuleOf m g == some .ue)
      match readSram (reportUe (touchAt m a) a n) a n with
      | (m, d) => (m, .done 0 d ue)
    | .queueView c off =>
      if viewReserved off then (touchAt m a, .error 2)
      else (touchAt m a, .done 0 (clean (if n = 8 ∧ off % 8 = 0 then wordBytes (viewRead m c off) else List.replicate n 0)) false)
    | .hostWindow p off => readWindow m p off n host
    | .control o => match ctlRead m o n with
      | (m, some d) => (m, .done 0 (clean d) false)
      | (m, none) => (m, .error 2)
    | .reserved => (m, .error 2)

/-- Does an address lie in a register or a queue view, which a poisoned write does not write (log 64, DEDUCED)? The 64-byte ports are none: they take every write without
error (R13, R411). -/
def isRegister (a : Nat) : Bool :=
  match regionOf a with
  | .control o => !((submitPort o).isSome || commitPort o)
  | .queueView _ _ => true
  | _ => false

/-- A write of bytes, each with its poison, at a module address, within one 4 KiB block: the status of the response. `relaxed`: it is a data write of a stream (R540). A
poisoned write to a register is refused. -/
def writeTarget (m : Mod) (a : Nat) (d : List (Byte × Bool)) (at_ : Nat) (relaxed : Bool := false) : Mod × Byte :=
  if fencedAt m a at_ then (m, 1)
  else if isRegister a && d.any (fun b => b.2) then (m, 2)
  else
    let m := ingress m a at_
    match regionIn m a with
    | .hbm => match writeHbm m a d with | (m, ok) => (m, if ok then 0 else 2)
    | .cm _ _ | .lm _ _ | .sdm _ _ => match writeSramExt (touchAt m a) a d with | (m, ok) => (m, if ok then 0 else 2)
    | .queueView c off => if viewReserved off then (touchAt m a, 2) else (if d.length = 8 ∧ off % 8 = 0 then viewWrite (touchAt m a) c off (w64 (ofBytes (d.map Prod.fst))) else m, 0)
    | .hostWindow p off => writeWindow m p off d relaxed
    | .control o => ctlWrite m o (d.map Prod.fst)
    | .reserved => (m, 2)

/-- The result of an atomic: the module, and the response with the old value. -/
abbrev AmoRes := Mod × Resp

/-- An atomic at HBM (R463, R490). -/
def amoHbm (m : Mod) (a size op b c : Nat) : AmoRes :=
  let r := readLine m (lineOf a)
  let old := sliceBytes r.data (a % 64) size
  if r.poison then (r.m, { status := 0, data := old, poison := true, ue := false })
  else
    ((writeLine r.m (lineOf a) (a % 64) (toBytes size (amoNew op size (ofBytes old) b c)) false).1, { status := 0, data := old, poison := false, ue := false })

/-- An atomic at CM: a bad granule is not written (R388, R419). -/
def amoCm (m : Mod) (a size op b c : Nat) : AmoRes :=
  let bad := byteBad m a
  let ue := granuleOf m a == some .ue
  match readSram (reportUe (touchAt m a) a size) a size with
  | (m, d) =>
    let old := d.map Prod.fst
    if bad then (m, { status := 0, data := old, poison := !ue, ue := ue })
    else ((writeSramExt m a (clean (toBytes size (amoNew op size (ofBytes old) b c)))).1, { status := 0, data := old, poison := false, ue := false })

/-- An atomic at a module address: elsewhere than in HBM or CM it is answered with an error response (R144, R473). -/
def amoTarget (m : Mod) (a size op b c at_ : Nat) : AmoRes :=
  if fencedAt m a at_ then (m, errorResp 1)
  else
    let m := ingress m a at_
    match regionIn m a with
    | .hbm => amoHbm m a size op b c
    | .cm _ _ => amoCm m a size op b c
    | _ => (m, errorResp 2)

/-! ## Units of 8 bytes (R450) -/

/-- The `i`th unit of a range: a naturally aligned granule of 8 bytes, or the part of it that the range covers. -/
def unitAt (a n i : Nat) : Nat × Nat :=
  let lo := max a (8 * (a / 8 + i))
  (lo, min (a + n) (8 * (a / 8 + i + 1)) - lo)

/-- The units of a range. -/
def unitCount (a n : Nat) : Nat := (piecesAt 8 a n).length

/-- Does a range lie in a memory, which takes it unit by unit? Registers and the hosts' windows take it whole. -/
def inMemory (a : Nat) : Bool :=
  match regionOf a with
  | .hbm | .cm _ _ | .lm _ _ | .sdm _ _ => true
  | _ => false

/-- The part of a range that lies in the line of one of its bytes: where it starts, and its length. -/
def linePart (a n u : Nat) : Nat × Nat := (max (lineOf u) a, min (lineOf u + 64) (a + n) - max (lineOf u) a)

/-- Some bytes of a line written into it as it decodes, by a write of the line that its port has begun; a line gone bad since takes none (log 102, DESIGN CHOICE). -/
def patchLine (m : Mod) (line off : Nat) (d : List Byte) : Mod :=
  match m.mem.decode line with
  | .good x | .corrected x => { m with mem := m.mem.setLine line (patchBytes (symbolBytes x) off d) }
  | _ => m

/-- Unit `i` of a write into a memory, and how many units that took: of an HBM line that poisoned bytes poison, or that is bad and written whole, all that are left at once
(R482, R490). The port counts its access to a line with the first unit there. -/
def writeUnitAt (m : Mod) (a : Nat) (d : List (Byte × Bool)) (i : Nat) : Mod × Nat :=
  let u := unitAt a d.length i
  let p := linePart a d.length u.1
  let first := u.1 == p.1
  let b := (d.drop (u.1 - a)).take u.2
  if isHbm a then
    let line := lineOf u.1
    let part := (d.drop (p.1 - a)).take p.2
    let left := unitCount u.1 (p.1 + p.2 - u.1)
    if part.any (fun x => x.2) then ((writeLine m line (p.1 - line) (part.map Prod.fst) true).1, left)
    else if p.2 = 64 ∧ lineBad m line = true then ((writeLine m line 0 (part.map Prod.fst) false).1, left)
    else if first && p.2 != 64 then ((writeLine m line (u.1 - line) (b.map Prod.fst) false).1, 1)
    else (patchLine (if first then countCluster m (portOf m line).1 5 1 else m) line (u.1 - line) (b.map Prod.fst), 1)
  else ((writeGranule (if first then countCm m u.1 u.2 else m) (8 * (u.1 / 8)) u.1 b).1, 1)

/-- The units of a write from unit `i` on, `n` of them: the module, and the units then done. -/
def writeSome (a : Nat) (d : List (Byte × Bool)) : Nat → Nat → Mod → Mod × Nat
  | 0, i, m => (m, i)
  | n + 1, i, m => if unitCount a d.length ≤ i then (m, i) else writeSome a d n (i + (writeUnitAt m a d i).2) (writeUnitAt m a d i).1

/-- Would a target refuse the whole write? Nothing of a write that is answered with an error is written (R447); one that it has begun, it goes on with (log 102). -/
def writeRefused (m : Mod) (a : Nat) (d : List (Byte × Bool)) (at_ : Nat) : Bool := (writeTarget m a d at_).2 != 0

/-- Some units of a write into a memory, which comes to its target with the first. -/
def writeOn (m : Mod) (a : Nat) (d : List (Byte × Bool)) (at_ n i : Nat) : Mod × Nat :=
  writeSome a d (max 1 n) i (if i = 0 then ingress (touchAt m a) a at_ else m)

/-- Unit `i` of a read of a memory: the bytes with their poison, and whether the granule is uncorrectable. -/
def readUnitAt (m : Mod) (a n i : Nat) : Mod × List (Byte × Bool) × Bool :=
  let u := unitAt a n i
  let first := u.1 == (linePart a n u.1).1
  if isHbm a then
    let line := lineOf u.1
    if first then
      let r := readLine m line
      (r.m, (sliceBytes r.data (u.1 % 64) u.2).map (fun b => (b, r.poison)), false)
    else match m.mem.decode line with
      | .good x | .corrected x => (m, clean (sliceBytes (symbolBytes x) (u.1 % 64) u.2), false)
      | _ => (m, (m.mem.bytes u.1 u.2).map (fun b => (b, true)), false)
  else
    let ue := granuleOf m u.1 == some .ue
    let d := sramBytes m u.1 u.2
    (sramCorrect (reportUe (if first then countCm m u.1 u.2 else m) u.1 u.2) u.1 u.2, d, ue)

/-- The units of a read from unit `i` on, `n` of them: the module, the units then done, the bytes read so far, and whether an uncorrectable granule was met. -/
def readSome (a size : Nat) : Nat → Nat → Mod × List (Byte × Bool) × Bool → Mod × Nat × List (Byte × Bool) × Bool
  | 0, i, (m, d, ue) => (m, i, d, ue)
  | n + 1, i, (m, d, ue) =>
    if unitCount a size ≤ i then (m, i, d, ue)
    else
      let r := readUnitAt m a size i
      readSome a size n (i + 1) (r.1, d ++ r.2.1, ue || r.2.2)

/-- Some units of a read of a memory, which comes to its target with the first. -/
def readMore (m : Mod) (a size at_ n i : Nat) (got : List (Byte × Bool)) (ue : Bool) : Mod × Nat × List (Byte × Bool) × Bool :=
  readSome a size (max 1 n) i (if i = 0 then ingress (touchAt m a) a at_ else m, got, ue)

/-- Does a turn of `n` units perform a transfer whole: it starts with it and is long enough, or the target is no memory, is disabled, or lies behind a fence? -/
def takesWhole (m : Mod) (a size at_ n i : Nat) : Bool := i == 0 && (decide (unitCount a size ≤ max 1 n) || !inMemory a || (disabled m 3 && isHbm a) || fencedAt m a at_)

/-! ## Transfers over several blocks -/

/-- The pieces of a range at every 4 KiB boundary: address, length. -/
def blocks (a n : Nat) : List (Nat × Nat) := piecesAt 4096 a n

/-- A read over several blocks by the module itself: the first failing status, the bytes. -/
def readMany (m : Mod) (a n : Nat) : Mod × Byte × List (Byte × Bool) :=
  (blocks a n).foldl (fun r b =>
    match readTarget r.1 b.1 b.2 m.now none with
    | (m, .done st d _) => (m, if r.2.1 = 0 then st else r.2.1, r.2.2 ++ (if st = 0 then d else List.replicate b.2 (0, false)))
    | (m, .sent) => (m, if r.2.1 = 0 then 2 else r.2.1, r.2.2 ++ List.replicate b.2 (0, false))) (m, 0, [])

/-- A write over several blocks by the module itself: the first failing status. -/
def writeMany (m : Mod) (a : Nat) (d : List (Byte × Bool)) (relaxed : Bool := false) : Mod × Byte :=
  (blocks a d.length).foldl (fun r b =>
    match writeTarget r.1 b.1 ((d.drop (b.1 - a)).take b.2) m.now relaxed with
    | (m, st) => (m, if r.2 = 0 then st else r.2)) (m, 0)

end Sys2Proof.Machine
end

