-- ==== Sys2Proof/Machine/Stream.lean ====
section
/-! DEFINITION. The stream engine of a cluster (R410 to R436): descriptors, chunks, conversion, multicast, completion. Queue 64 of an engine is the host queue (R565). -/

namespace Sys2Proof.Machine

/-! ## The words of a descriptor (R413, R414) -/

/-- The operation: 1 COPY, 2 GATHER, 3 SCATTER, 4 FILL, 5 MCAST. -/
def SDesc.op (d : SDesc) : Nat := fld (d.w 0) 0 4
/-- Elements are converted. -/
def SDesc.conv (d : SDesc) : Bool := bitOf (d.w 0) 15
/-- The source and destination format codes. -/
def SDesc.sfmt (d : SDesc) : Nat := fld (d.w 0) 4 4
def SDesc.dfmt (d : SDesc) : Nat := fld (d.w 0) 8 4
/-- The signed distances between rows. -/
def SDesc.spitch (d : SDesc) : Word := signExt 32 (fld (d.w 4) 0 32)
def SDesc.dpitch (d : SDesc) : Word := signExt 32 (fld (d.w 4) 32 32)
/-- A completion record is written. -/
def SDesc.hasRec (d : SDesc) : Bool := bitOf (d.w 0) 31
/-- The completion arrives on a barrier group. -/
def SDesc.bar (d : SDesc) : Bool := bitOf (d.w 0) 29

/-- The element size of the formats 0x0 to 0x4 (R201). -/
def streamElem (c : Nat) : Nat := if c = 0 then 8 else if c = 1 then 4 else 2

/-- The bytes that a row writes (R416, R418). -/
def SDesc.destBytes (d : SDesc) : Nat := if d.conv then d.rowBytes / streamElem d.sfmt * streamElem d.dfmt else d.rowBytes

/-- Is a reserved bit of the descriptor set (R413, R414)? -/
def reservedSet (d : SDesc) : Bool :=
  let w0 := d.w 0
  fld w0 48 16 != 0 || fld w0 16 2 != 0 || bitOf w0 14 ||
  (d.op != 5 && bitOf w0 30) || (!d.bar && fld w0 21 8 != 0) || (!d.conv && (fld w0 12 2 != 0 || d.dfmt != 0 || d.sfmt != 0)) ||
  (d.op == 4 && d.w 1 != 0) || (d.op == 5 && fld (d.w 2) 25 39 != 0) || fld (d.w 3) 32 32 != 0 ||
  (d.op == 1 && d.w 5 != 0) || (d.op != 5 && d.w 6 != 0) || (!d.hasRec && d.w 7 != 0)

/-- Is the descriptor invalid (R415)? -/
def descInvalid (d : SDesc) : Bool :=
  reservedSet d || d.op == 0 || decide (5 < d.op) || (d.op == 4 && d.conv) ||
  (d.conv && (decide (4 < d.sfmt) || decide (4 < d.dfmt) || d.rowBytes % streamElem d.sfmt != 0)) ||
  ((d.op == 2 || d.op == 3) && d.w 5 % 4 != 0) || (d.hasRec && d.w 7 % 32 != 0)

/-- The receivers that an MCAST names (R430). -/
def SDesc.receivers (d : SDesc) : List Nat :=
  if d.op = 5 then (List.range 128).filter (fun q => if q < 64 then bitOf (d.w 5) q else bitOf (d.w 6) (q - 64)) else []

/-- A descriptor queued in an engine (R410, R411): an invalid one moves nothing, an MCAST without receivers reads nothing. -/
def enqueue (m : Mod) (q queue : Nat) (d : SDesc) : Mod :=
  let bad := descInvalid d
  let d := { d with invalid := bad, attached := d.receivers, stopped := d.stopped || bad || (d.op == 5 && d.receivers.isEmpty) }
  setCluster (touchTile m q) q (fun c => { c with dqs := tblMod [] c.dqs queue (fun l => l ++ [d]) })

/-! ## Rows and chunks (R416, R420) -/

/-- The row of an index (R416): the signed entry for the indexed side, else the row itself. -/
def SDesc.side (d : SDesc) (indexed : Bool) : Word := if indexed then signExt 32 (d.idx.getD 0).toNat else w64 d.row

/-- The job address of the current row's source. -/
def SDesc.srcRow (d : SDesc) : Word := d.words.getD 1 0 + d.side (d.op == 2) * d.spitch

/-- The job address of the current row's destination; for MCAST the offset in each receiver's slice, modulo its size (R432). -/
def SDesc.dstRow (d : SDesc) : Word :=
  let a := d.words.getD 2 0 + d.side (d.op == 3) * d.dpitch
  if d.op = 5 then a &&& 0x1FFFFFF else a

/-- Where the chunk that starts at byte `off` of the destination row ends: at the 4 KiB boundary, moved back to the start of an element (R420). -/
def SDesc.chunkEnd (d : SDesc) : Nat :=
  let b := d.off + (4096 - (d.dstRow.toNat + d.off) % 4096)
  let e := streamElem d.dfmt
  let b := if !d.conv then b else if b - b % e ≤ d.off then (b + 4096) - (b + 4096) % e else b - b % e
  min b d.destBytes

/-- The pieces of a range at every 4 KiB boundary: offset and length. -/
def pieces4k (a : Word) (n : Nat) : List (Nat × Nat) :=
  let lo := a.toNat % 4096
  (blocks lo n).map (fun b => (b.1 - lo, b.2))

/-- Where a job address leads a stream engine: to a target, or to a failure with its status (R427). -/
def engineTarget (m : Mod) (q : Nat) (d : SDesc) (a : Word) : Mod × (Byte ⊕ (Option (BitVec 16) × Nat)) :=
  match xlateEngine m q d.xbase a with
  | (m, .notPresent) => (m, .inl 2)
  | (m, .peer p b) => (m, match regionOf b with | .control _ => .inl 3 | _ => .inr (some p, b))
  | (m, .here b) => (m, match regionOf b with | .control _ => .inl 3 | _ => .inr (none, b))

/-- The parts of a range of job addresses, or the first that fails: its status and its address. -/
def engineParts (m : Mod) (q : Nat) (d : SDesc) (a : Word) (n : Nat) : Mod × ((Byte × Word) ⊕ List ChunkPart) :=
  (pieces4k a n).foldl (fun p c =>
    match p.2 with
    | .inl e => (p.1, .inl e)
    | .inr l => match engineTarget p.1 q d (a + w64 c.1) with
      | (m, .inl st) => (m, .inl (st, a + w64 c.1))
      | (m, .inr t) => (m, .inr (l ++ [{ off := c.1, n := c.2, peer := t.1, at_ := t.2 }]))) (m, .inr [])

/-- Does a part read host memory? -/
def ChunkPart.host (c : ChunkPart) : Bool := c.peer.isNone && (match regionOf c.at_ with | .hostWindow _ _ => true | _ => false)

/-- Does a part lie in a target of this module that is no host window? -/
def ChunkPart.onMesh (c : ChunkPart) : Bool := c.peer.isNone && !c.host

/-- A read of a part on this module: through a host window the request leaves and `host` answers it. -/
def engineRead (m : Mod) (c : ChunkPart) (host : Option HostData) : Mod × TRead :=
  if c.host then
    match readTarget m c.at_ c.n m.now none with
    | (m, .sent) => readTarget m c.at_ c.n m.now host
    | r => r
  else readTarget m c.at_ c.n m.now none

/-! ## Conversion (R418) -/

/-- `n` draws of a cluster's stream generator (R445), or zeros where nothing rounds stochastically. -/
def drawStream (m : Mod) (q n : Nat) (on : Bool) : Mod × List Nat :=
  if on then
    match drawN n (cluster m q).seed0 (cluster m q).seed1 with
    | (l, a, b) => (setCluster m q (fun c => { c with seed0 := a, seed1 := b }), l)
  else (m, List.replicate n 0)

/-- An element converted as TCVT converts it in STRICT mode. -/
def convElem (mode : Rnd) (r : Nat) (f g : Fmt) (x : Nat) : Nat := encodeElem true mode r g (elemValue true f x 0)

/-- The bytes of a chunk converted; an element is poisoned where one of its source bytes was (R419). -/
def convert (m : Mod) (q : Nat) (d : SDesc) (data : List (Byte × Bool)) : Mod × List (Byte × Bool) :=
  if !d.conv || d.sfmt = d.dfmt then (m, data)
  else
    match fmtOf (BitVec.ofNat 4 d.sfmt), fmtOf (BitVec.ofNat 4 d.dfmt) with
    | some f, some g =>
      let s := streamElem d.sfmt
      let n := data.length / s
      let mode := rndCode (BitVec.ofNat 2 (fld (d.w 0) 12 2)) d.rnd
      match drawStream m q n (decide (mode = .stoch)) with
      | (m, rs) => (m, ((List.range n).zip rs).flatMap (fun p =>
          let e := (data.drop (p.1 * s)).take s
          (toBytes (streamElem d.dfmt) (convElem mode p.2 f g (ofBytes (e.map Prod.fst)))).map (fun b => (b, e.any (fun x => x.2)))))
    | _, _ => (m, data)

/-! ## Tags and turns (R421, R422, R431) -/

/-- The tags that the engine grants to a core. -/
def coreCap (c : Core) : Nat := min 256 c.strmCap.toNat

/-- The tags that one context of a core may hold (R340, R341). -/
def contextCap (c : Core) : Nat :=
  if quarters c then coreCap c / 4 else if c.scap = 0 ∨ 256 < c.scap.toNat then 256 else c.scap.toNat

/-- Does the thread that submitted a descriptor of a context's queue still run? -/
def ofRunning (m : Mod) (q queue : Nat) (d : SDesc) : Bool :=
  let x := ctx m (64 * q + queue)
  x.live && d.starts == x.starts

/-- The tags that a context's chunks hold for the thread that submitted `d`. -/
def tagsFor (m : Mod) (q queue : Nat) (d : SDesc) : Nat :=
  ((cluster m q).chunks.filter (fun c => c.queue == queue && (descFind m q queue c.seq).any (fun e => e.starts == d.starts))).length

/-- The tags that a context holds for its running thread: those of a thread that has ended are back in the core's pool (R332, R341). -/
def tagsRunning (m : Mod) (q queue : Nat) : Nat :=
  ((cluster m q).chunks.filter (fun c => c.queue == queue && (descFind m q queue c.seq).any (ofRunning m q queue))).length

/-- Do the limits of R421 and R565 allow descriptor `d` of queue `queue` of an engine one more tag? The descriptors that an ended thread has left take tags under the same
limits, counted apart (log 115, DEDUCED). -/
def tagAllowed (m : Mod) (q queue : Nat) (d : SDesc) : Bool :=
  if queue = 64 then decide (tagsHeld m q 64 < 64)
  else
    let k := core m (16 * q + queue / 4)
    let all := (List.range 4).foldl (fun s i => s + tagsRunning m q (queue / 4 * 4 + i)) 0
    let mine := tagsFor m q queue d
    decide ((if ofRunning m q queue d then all else mine) < coreCap k ∧ mine < contextCap k)

/-- Is a queue's engine, or its context, behind a Kerb fence (R602)? -/
def queueHeld (m : Mod) (q queue : Nat) : Bool :=
  m.rcv.resets.any (fun r => domainIn (.cluster (BitVec.ofNat 7 q)) r.d || (queue != 64 && domainHolds r.d (64 * q + queue)))

/-- During a search the engine serves the suspect on trial and the host queue only (R612). -/
def searchAllows (m : Mod) (q queue : Nat) (d : SDesc) : Bool :=
  match (cluster m q).search with
  | none => true
  | some s => queue == 64 || (s.trial.isSome && d.record == s.trial)

/-- The chunks that a receiver has acknowledged. -/
def SDesc.acked (d : SDesc) (r : Nat) : List Nat := tblGet [] d.acks r

/-- The receivers furthest ahead: those that have acknowledged the most chunks. -/
def SDesc.leaders (d : SDesc) : List Nat :=
  let top := d.attached.foldl (fun x k => max x (d.acked k).length) 0
  d.attached.filter (fun k => (d.acked k).length == top)

/-- A receiver's lag: the chunks that the receiver furthest ahead has acknowledged and that it has not (R431); of several equally far ahead, the one that gives the
greatest lag (log 66, DESIGN CHOICE). -/
def SDesc.lag (d : SDesc) (r : Nat) : Nat :=
  d.leaders.foldl (fun x k => max x ((d.acked k).filter (fun c => !(d.acked r).contains c)).length) 0

/-- Is an MCAST held by its slip window? (log 66, DEDUCED). -/
def SDesc.slipHeld (d : SDesc) : Bool := d.attached.any (fun r => decide (8 ≤ d.lag r))

/-- The first descriptor of a queue that has chunks to issue. -/
def nextDesc (m : Mod) (q queue : Nat) : Option SDesc := (descsOf m q queue).find? (SDesc.more m)

/-- Has a queue a chunk to issue now? -/
def chunkReady (m : Mod) (q queue : Nat) : Bool :=
  match nextDesc m q queue with
  | none => false
  | some d => tagAllowed m q queue d && !queueHeld m q queue && searchAllows m q queue d && !d.slipHeld && !indexAsked m q queue d.seq

/-- The queue that the engine serves next (R422). -/
def nextQueue (m : Mod) (q : Nat) : Option Nat :=
  ((List.range 65).map (fun i => ((cluster m q).lastServed + 1 + i) % 65)).find? (chunkReady m q)

/-- The lowest tag that is free. -/
def freeTag (m : Mod) (q : Nat) : Option Nat := (List.range 256).find? (fun t => (chunkFind m q t).isNone)

/-- An MCAST's timer runs while it is held (R433). -/
def refreshHeld (m : Mod) (q queue : Nat) (seq : BitVec 16) : Mod :=
  descMod m q queue seq (fun d => { d with heldAt := if d.slipHeld then some (d.heldAt.getD m.now) else none })

/-! ## The issue of a chunk -/

/-- The index of a descriptor's row read (R416, R427); true where it is known now and nothing was asked of the host. -/
def readIndex (m : Mod) (q queue : Nat) (d : SDesc) (host : Option HostData) : Mod × Bool :=
  let a := d.words.getD 5 0 + w64 (4 * d.row)
  match engineTarget m q d a with
  | (m, .inl st) => (descFails m q queue d.seq d.nextChunk st a, false)
  | (m, .inr (some p, b)) => (sendRequest m (.index q queue d.seq) (rdPacket p b 4 d.job), false)
  | (m, .inr (none, b)) =>
    let c : ChunkPart := { off := 0, n := 4, peer := none, at_ := b }
    if c.host && host.isNone then (m, false)
    else
      match engineRead m c host with
      | (m, .done st x _) =>
        let r : Resp := { status := st, data := x.map Prod.fst, poison := x.any (fun y => y.2), ue := false }
        (giveResponse m (.index q queue d.seq) r, st == 0 && !r.poison && !c.host)
      | (m, .sent) => (m, false)

/-- The reads that a chunk awaits from peers. -/
def readsAsked (m : Mod) (q tag : Nat) : Bool :=
  asked m (fun o => match o with | .chunkRead a b _ _ _ => a == q && b == tag | _ => false)

/-- The writes that a chunk awaits the acknowledgement of. -/
def writesAsked (m : Mod) (q tag : Nat) : Bool := asked m (fun o => o == .chunkWrite q tag)

/-- The writes of a part of a chunk on a peer sent (R514). -/
def sendPart (m : Mod) (q tag : Nat) (d : SDesc) (data : List (Byte × Bool)) (c : ChunkPart) : Mod :=
  match c.peer with
  | none => m
  | some p => (pieces256 c.n).foldl (fun m x =>
      sendRequest m (.chunkWrite q tag) (wrPacket p (c.at_ + x.1) ((data.drop (c.off + x.1)).take x.2) 4 d.job)) m

/-- A chunk whose reads are all in is converted, and its writes to peers leave. One with a failed read writes nothing. -/
def readsDone (m : Mod) (q tag : Nat) : Mod :=
  match chunkFind m q tag with
  | none => m
  | some c =>
    if c.ready || readsAsked m q tag || !c.reads.isEmpty then m
    else if c.failed then chunkMod m q tag (fun c => { c with ready := true, parts := [], waits := [] })
    else
      match descFind m q c.queue c.seq with
      | none => m
      | some d => match convert m q d c.data with
        | (m, data) =>
          let m := chunkMod m q tag (fun c => { c with ready := true, data := data, at_ := m.now, paused := m.pwr.pausedTotal })
          if d.op = 5 then m else c.parts.foldl (fun m p => sendPart m q tag d data p) m

/-- A part of a chunk's source read into its bytes. -/
def readPart (m : Mod) (q tag : Nat) (d : SDesc) (a : Word) (host : Option HostData) (c : ChunkPart) : Mod :=
  match c.peer with
  | some p => (pieces256 c.n).foldl (fun m x =>
      sendRequest m (.chunkRead q tag (c.off + x.1) x.2 (a + w64 c.off)) (rdPacket p (c.at_ + x.1) x.2 d.job)) m
  | none =>
    match engineRead m c host with
    | (m, .done st x _) =>
      if st != 0 then chunkFails m q tag (a + w64 c.off)
      else chunkMod m q tag (fun k => { k with data := k.data.take c.off ++ x ++ k.data.drop (c.off + c.n) })
    | (m, .sent) => m

/-- The bytes of a FILL from a job address on (R416). -/
def fillBytes (d : SDesc) (a : Word) (n : Nat) : List (Byte × Bool) :=
  (List.range n).map (fun i => (BitVec.ofNat 8 (fld (d.w 5) (8 * ((a.toNat + i) % 8)) 8), false))

/-- The descriptor after the issue of the chunk that ends at byte `e` of its row. -/
def SDesc.advance (d : SDesc) (e : Nat) : SDesc :=
  if d.destBytes ≤ e then { d with nextChunk := d.nextChunk + 1, row := d.row + 1, off := 0, idx := none }
  else { d with nextChunk := d.nextChunk + 1, off := e }

/-- The parts of a chunk's destination. -/
def destParts (m : Mod) (q : Nat) (d : SDesc) (a : Word) (n : Nat) : Mod × ((Byte × Word) ⊕ List ChunkPart) :=
  if d.op = 5 then (m, .inr [{ off := 0, n := n, peer := none, at_ := a.toNat }]) else engineParts m q d a n

/-- The parts of a chunk's source: none for FILL. -/
def sourceParts (m : Mod) (q : Nat) (d : SDesc) (a : Word) (n : Nat) : Mod × ((Byte × Word) ⊕ List ChunkPart) :=
  if d.op = 4 then (m, .inr []) else engineParts m q d a n

/-- The bytes of a chunk with some of them read in. -/
def putData (m : Mod) (q tag off : Nat) (x : List (Byte × Bool)) : Mod :=
  chunkMod m q tag (fun k => { k with data := k.data.take off ++ x ++ k.data.drop (off + x.length) })

/-- What is left to read of a chunk: the parts, and the units done of the first. -/
def readsLeft (m : Mod) (q tag : Nat) (l : List ChunkPart) (i : Nat) : Mod := chunkMod m q tag (fun c => { c with reads := l, done := i })

/-- Parts of a chunk that are read in targets of this module are read on, `n` units of them, from unit `i` of the first on (R450; log 102). -/
def readParts (q tag : Nat) (d : SDesc) (src : Word) : List ChunkPart → Nat → Nat → Mod → Mod
  | [], _, _, m => readsLeft m q tag [] 0
  | p :: t, n, i, m =>
    if n = 0 then readsLeft m q tag (p :: t) i
    else if takesWhole m p.at_ p.n m.now n i then readParts q tag d src t (n - unitCount p.at_ p.n) 0 (readPart m q tag d src none p)
    else
      match readMore m p.at_ p.n m.now n i [] false with
      | (m, j, x, _) =>
        let m := putData m q tag (p.off + ((unitAt p.at_ p.n i).1 - p.at_)) x
        if unitCount p.at_ p.n ≤ j then readParts q tag d src t (n - (j - i)) 0 m else readsLeft m q tag (p :: t) j

/-- A chunk reads on, `n` units of it, but at least one. -/
def readOn (m : Mod) (q tag n : Nat) (d : SDesc) : Mod :=
  match chunkFind m q tag with
  | none => m
  | some c => readParts q tag d c.src c.reads (max 1 n) c.done m

/-- The next chunk of a descriptor issued with a tag; without the host's data, one that reads host memory waits. Requests to peers and hosts leave at once. -/
def issueChunk (m : Mod) (q queue tag units : Nat) (d : SDesc) (host : Option HostData) : Mod :=
  let e := d.chunkEnd
  let n := e - d.off
  let scale (x : Nat) := if d.conv then x / streamElem d.dfmt * streamElem d.sfmt else x
  let src := d.srcRow + w64 (scale d.off)
  let dst := d.dstRow + w64 d.off
  match sourceParts m q d src (scale n) with
  | (m, .inl (st, a)) => descFails m q queue d.seq d.nextChunk st a
  | (m, .inr sp) =>
    match destParts m q d dst n with
    | (m, .inl (st, a)) => descFails m q queue d.seq d.nextChunk st a
    | (m, .inr dp) =>
      if sp.any ChunkPart.host && host.isNone then m
      else
        let data := if d.op = 4 then fillBytes d dst n else List.replicate (scale n) (0, false)
        let c : Chunk := { tag := tag, queue := queue, seq := d.seq, index := d.nextChunk, src := src, dst := dst,
                           reads := sp.filter ChunkPart.onMesh, parts := dp, data := data,
                           ready := false, failed := false, waits := d.attached, at_ := m.now, paused := m.pwr.pausedTotal }
        let m := setCluster (touchTile m q) q (fun k => { k with chunks := k.chunks ++ [c], lastServed := queue })
        let m := descMod m q queue d.seq (fun d => d.advance e)
        let m := (sp.filter (fun p => !p.onMesh)).foldl (fun m p => readPart m q tag d src host p) m
        let m := readOn m q tag units d
        refreshHeld (readsDone m q tag) q queue d.seq

/-- The engine gives a tag to the next queue in turn (R422). -/
def serveChunk (m : Mod) (q units : Nat) (host : Option HostData) : Mod :=
  match freeTag m q, nextQueue m q with
  | some tag, some queue =>
    match nextDesc m q queue with
    | none => m
    | some d =>
      if (d.op = 2 ∨ d.op = 3) ∧ d.idx.isNone then
        match readIndex m q queue d host with
        | (m, true) => match descFind m q queue d.seq with
          | some d => issueChunk m q queue tag units d host
          | none => m
        | (m, false) => m
      else issueChunk m q queue tag units d host
  | _, _ => m

/-- CHUNK_ISSUE: at S3 no chunk issues (R651). -/
def execChunkIssue (cluster : ClusterId) (host : Option HostData) (ups : Turn) (s : State) : Host.Outcome State Fault Refusal :=
  if coresRun s.mod then .next { s with mod := serveChunk (applyUpsets s.mod ups.upsets) cluster.toNat ups.units host } else .next s

/-! ## The completion of a chunk (R420, R424) -/

/-- The first chunks of a descriptor, in issue order, that have all been released. -/
def leading (l : List Nat) : Nat → Nat → Nat
  | 0, k => k
  | n + 1, k => if l.contains k then leading l n (k + 1) else k

/-- The journal records the done count of a COPY or FILL after every 1 MiB (R607). -/
def recordDone (m : Mod) (d : SDesc) (before : Nat) : Mod :=
  match d.record, d.thread with
  | some r, none =>
    if d.bytes / 2 ^ 20 = before / 2 ^ 20 then m
    else m.hq.items.foldl (fun m e => if e.2.record = r then setItem m e.1 (fun i => { i with pos := leading d.released d.released.length 0 }) else m) m
  | _, _ => m

/-- A chunk releases its tag. -/
def releaseTag (m : Mod) (q : Nat) (c : Chunk) : Mod :=
  let n := if c.failed then 0 else c.data.length
  let before := (descFind m q c.queue c.seq).elim 0 SDesc.bytes
  let m := setCluster m q (fun k => { k with chunks := removeFirst (fun x => x.tag == c.tag) k.chunks })
  let m := descMod m q c.queue c.seq (fun d =>
    { d with released := d.released ++ (if c.failed then [] else [c.index]), bytes := d.bytes + n,
             poisoned := d.poisoned || (!c.failed && c.data.any (fun b => b.2)) })
  let m := countCluster m q 2 1
  let m := if c.queue < 64 then count m (16 * q + c.queue / 4) 48 n else m
  match descFind m q c.queue c.seq with
  | some d => recordDone m d before
  | none => m

/-- A part of a chunk written on this module. -/
def writePart (m : Mod) (q : Nat) (c : Chunk) (p : ChunkPart) : Mod :=
  if p.peer.isSome then m
  else
    match writeTarget m p.at_ ((c.data.drop p.off).take p.n) m.now true with
    | (m, 0) => m
    | (m, _) => chunkFails m q c.tag (c.dst + w64 p.off)

/-- What is left to write of a chunk: the parts, and the units done of the first. -/
def partsLeft (m : Mod) (q tag : Nat) (l : List ChunkPart) (i : Nat) : Mod := chunkMod m q tag (fun c => { c with parts := l, done := i })

/-- The parts of a chunk's destination on this module are written on, `n` units of them, from unit `i` of the first on (R450; log 102). -/
def writeParts (q : Nat) (c : Chunk) : List ChunkPart → Nat → Nat → Mod → Mod
  | [], _, _, m => partsLeft m q c.tag [] 0
  | p :: t, n, i, m =>
    let d := (c.data.drop p.off).take p.n
    if n = 0 then partsLeft m q c.tag (p :: t) i
    else if takesWhole m p.at_ p.n m.now n i || (i == 0 && writeRefused m p.at_ d m.now) then writeParts q c t (n - unitCount p.at_ p.n) 0 (writePart m q c p)
    else
      match writeOn m p.at_ d m.now n i with
      | (m, j) => if unitCount p.at_ p.n ≤ j then writeParts q c t (n - (j - i)) 0 m else partsLeft m q c.tag (p :: t) j

/-- A chunk whose source is not all read reads on. -/
def chunkReads (m : Mod) (q tag units : Nat) : Mod :=
  match chunkFind m q tag with
  | none => m
  | some c =>
    if c.reads.isEmpty then m
    else
      match descFind m q c.queue c.seq with
      | none => chunkMod m q tag (fun c => { c with reads := [], failed := true })
      | some d => readOn m q tag units d

/-- The chunk with a tag reads or writes on, up to `units` granules of 8 bytes; with nothing left it releases its tag, once its reads are in and its writes are
acknowledged (R424, R450). -/
def completeChunk (m : Mod) (q tag units : Nat) : Mod :=
  let m := readsDone (chunkReads m q tag units) q tag
  match chunkFind m q tag with
  | none => m
  | some c =>
    if !c.ready || writesAsked m q tag || !c.waits.isEmpty then m
    else
      let isM := (descFind m q c.queue c.seq).elim false (fun d => d.op == 5)
      let parts := if isM || c.failed then [] else c.parts.filter (fun p => p.peer.isNone)
      let m := writeParts q c parts (max 1 units) c.done m
      match chunkFind m q tag with
      | none => m
      | some c => if c.parts.isEmpty then releaseTag (touchTile m q) q c else m

/-- CHUNK_COMPLETE. -/
def execChunkComplete (cluster : ClusterId) (tag : TagTurn) (s : State) : Host.Outcome State Fault Refusal :=
  onMesh s (fun m => completeChunk (applyUpsets m tag.turn.upsets) cluster.toNat tag.tag tag.turn.units)

/-! ## Multicast (R430 to R434) -/

/-- Receivers detached from an MCAST: they owe nothing any more; with none left the descriptor reads no further. -/
def detach (m : Mod) (q queue : Nat) (seq : BitVec 16) (l : List Nat) : Mod :=
  let m := descMod m q queue seq (fun d =>
    let left := d.attached.filter (fun r => !l.contains r)
    { d with attached := left, detached := d.detached ++ l, stopped := d.stopped || left.isEmpty })
  setCluster m q (fun c => { c with chunks := c.chunks.map (fun k =>
    if k.queue == queue && k.seq == seq then { k with waits := k.waits.filter (fun r => !l.contains r) } else k) })

/-- A receiver has written a chunk and acknowledges it, or answers with an error and is detached. -/
def mcastDone (m : Mod) (q r : Nat) (c : Chunk) (ok : Bool) : Mod :=
  if ok then
    let m := chunkMod m q c.tag (fun c => { c with waits := c.waits.filter (· != r) })
    refreshHeld (descMod m q c.queue c.seq (fun d => { d with acks := tblMod [] d.acks r (· ++ [c.index]) })) q c.queue c.seq
  else
    let m := descMod m q c.queue c.seq (fun d => { d with fails := d.fails ++ [{ chunk := c.index, code := 3, addr := c.dst }] })
    refreshHeld (detach m q c.queue c.seq [r]) q c.queue c.seq

/-- A receiver of a multicast writes `units` units of a chunk, but at least one, and answers with the last. -/
def mcastAck (m : Mod) (q tag r units : Nat) (error : Bool) : Mod :=
  match chunkFind m q tag with
  | none => m
  | some c =>
    if !c.ready || !c.waits.contains r then m
    else
      let at_ := sramBase + sliceBytes' * r + c.dst.toNat % sliceBytes'
      let i := tblGet 0 c.mcDone r
      if error then mcastDone m q r c false
      else if takesWhole m at_ c.data.length m.now units i || (i == 0 && writeRefused m at_ c.data m.now) then
        mcastDone (writeTarget m at_ c.data m.now).1 q r c ((writeTarget m at_ c.data m.now).2 == 0)
      else
        match writeOn m at_ c.data m.now units i with
        | (m, j) => if unitCount at_ c.data.length ≤ j then mcastDone m q r c true else chunkMod m q tag (fun c => { c with mcDone := tblPut c.mcDone r j })

/-- The requests of a chunk to targets on this module that have had no response within DBG_RECCTL.mto are answered TIMEOUT, which fails the chunk, or detaches the receivers
of a multicast (R427, R433, R598): time moves on to the deadline. A write under way unit by unit goes on (log 102). -/
def chunkTimeout (m : Mod) (q tag : Nat) : Mod :=
  match chunkFind m q tag with
  | none => m
  | some c =>
    if !coresRun m || (c.ready && c.done != 0) then m
    else
      let at_ := c.at_ + 1000 * max 1 m.rcv.mto.toNat + (m.pwr.pausedTotal - c.paused)
      let isM := (descFind m q c.queue c.seq).elim false (fun d => d.op == 5)
      if !c.ready then
        match c.reads with
        | [] => m
        | p :: _ => chunkMod (chunkFails (toTime m at_) q tag (c.src + w64 p.off)) q tag (fun c => { c with reads := [], done := 0 })
      else if isM then
        match c.waits.filter (fun r => tblGet 0 c.mcDone r == 0) with
        | [] => m
        | l => l.foldl (fun m r => mcastDone m q r c false) (toTime m at_)
      else
        match c.parts.filter ChunkPart.onMesh with
        | [] => m
        | p :: _ => chunkMod (chunkFails (toTime m at_) q tag (c.dst + w64 p.off)) q tag (fun c => { c with parts := c.parts.filter (fun p => !p.onMesh) })

/-- MCAST_ACK. -/
def execMcastAck (cluster : ClusterId) (tag : TagTurn) (receiver : ClusterId) (error : Bool) (s : State) : Host.Outcome State Fault Refusal :=
  onMesh s (fun m => mcastAck (applyUpsets m tag.turn.upsets) cluster.toNat tag.tag receiver.toNat tag.turn.units error)

/-- The timer of a held MCAST expires (R433): time moves on to it. -/
def mcastTimeout (m : Mod) (q queue : Nat) : Mod :=
  let lim := (cluster m q).mcTimeout.toNat
  match (descsOf m q queue).find? (fun d => d.heldAt.isSome) with
  | none => m
  | some d =>
    if lim = 0 then m
    else
      let m := (toTime m (d.heldAt.getD 0 + lim))
      if bitOf (d.w 0) 30 then
        let l := d.attached.filter (fun r => decide (8 ≤ d.lag r))
        refreshHeld (detach (descMod m q queue d.seq (fun d => { d with lagged := true })) q queue d.seq l) q queue d.seq
      else countCluster (descMod m q queue d.seq (fun d => { d with heldAt := some m.now })) q 3 1

/-- MCAST_TIMEOUT. -/
def execMcastTimeout (cluster : ClusterId) (queue : Nat) (s : State) : Host.Outcome State Fault Refusal := onMesh s (fun m => mcastTimeout m cluster.toNat queue)

/-! ## Completion of a descriptor (R424 to R427) -/

/-- The first chunk to fail in issue order, among those with a status. -/
def firstFail (l : List SFail) : Option SFail :=
  l.foldl (fun acc f => match acc with | none => some f | some g => if f.chunk < g.chunk then some f else acc) none

/-- The status of a descriptor (R427). One that had completed when its job's epoch became stale keeps the status it had then. -/
def SDesc.status (m : Mod) (d : SDesc) : Byte :=
  if d.invalid then 5
  else if d.aborted || (!d.finished && staleJob m d.job) then 6
  else if d.fails.any (fun f => f.code == 2) then 2
  else if !d.fails.isEmpty then 3
  else if d.lagged then 4
  else if d.poisoned then 1
  else 0

/-- The done count: chunks before the first that failed. -/
def SDesc.doneCount (d : SDesc) : Nat := match firstFail d.fails with | some f => f.chunk | none => d.nextChunk

/-- The address of the record: that of the first chunk that failed with the status. -/
def SDesc.failAddr (m : Mod) (d : SDesc) : Word :=
  let st := d.status m
  if st = 2 ∨ st = 3 then (firstFail (d.fails.filter (fun f => f.code == st))).elim 0 SFail.addr else 0

/-- The completion record (R425). -/
def SDesc.record32 (m : Mod) (d : SDesc) : List Byte :=
  let bits (lo : Nat) : Word := w64 ((List.range 64).foldl (fun s i => s + b1 (d.detached.contains (lo + i)) * 2 ^ i) 0)
  wordBytes (w64 (d.doneCount * 2 ^ 32 + d.seq.toNat * 2 ^ 16 + (d.status m).toNat)) ++ wordBytes (d.failAddr m) ++
    wordBytes (bits 0) ++ wordBytes (bits 64)

/-- The record written, or sent on its way. -/
def writeRecord (m : Mod) (q queue : Nat) (d : SDesc) : Mod :=
  let m := descMod m q queue d.seq (fun d => { d with recSent := true })
  let give (m : Mod) (st : Byte) := giveResponse m (.completion q queue d.seq) { status := st, data := [], poison := false, ue := false }
  let a := d.words.getD 7 0
  match engineTarget m q d a with
  | (m, .inl st) => give m st
  | (m, .inr (some p, b)) => sendRequest m (.completion q queue d.seq) (wrPacket p b (clean (d.record32 m)) 4 d.job)
  | (m, .inr (none, b)) => match writeMany m b (clean (d.record32 m)) with
    | (m, st) => give m st

/-- The counter of R426, unless a thread has started in the context since the submission. -/
def postCounter (m : Mod) (t : Nat) (d : SDesc) : Mod :=
  if (ctx m t).starts != d.starts then m
  else evCheck (setCtx m t (fun x => { x with ctrs := tblMod 0 x.ctrs (fld (d.w 0) 18 3) (· + 1) })) t

/-- The posting of a descriptor of a context, after its record (R424). -/
def postContext (m : Mod) (t : Nat) (d : SDesc) : Mod :=
  let m := postCounter m t d
  let g := fld (d.w 0) 21 8
  let m := if d.bar && isMember (ctx m t) g then arrive m t g else m
  count (setCtx m t (fun x => { x with outstanding := x.outstanding - 1 })) (t / 4) 46 1

/-- A COPY or FILL completes with the status and the done count of its descriptor (R565); one whose deadline expired, HUNG, and one aborted with its job, as the abort says
(R598, R616, R617). -/
def postHost (m : Mod) (d : SDesc) : Mod :=
  match d.record with
  | none => m
  | some r =>
    let blamed := (recFind m r).bind Rec.blame
    completeRec (settleItems m r) r (blamed.elim (d.status m) Prod.fst) (w64 d.doneCount)

/-- The oldest descriptor of a queue posts once it has completed. -/
def postDesc (m : Mod) (q queue : Nat) : Mod :=
  match descsOf m q queue with
  | [] => m
  | d :: _ =>
    if !descDone m q queue d then m
    else
      let m := if d.hasRec && !d.recSent then writeRecord m q queue d else m
      let done := !d.hasRec || (descFind m q queue d.seq).elim false SDesc.recDone
      if !done then m
      else
        let m := setCluster (touchTile m q) q (fun c => { c with dqs := tblMod [] c.dqs queue (List.drop 1) })
        match d.thread with
        | some t => postContext m t.toNat d
        | none => postHost m d

/-- DESCRIPTOR_POST. -/
def execDescriptorPost (cluster : ClusterId) (queue : Nat) (s : State) : Host.Outcome State Fault Refusal := onMesh s (fun m => postDesc m cluster.toNat queue)

end Sys2Proof.Machine
end

