-- ==== Sys2Proof/Machine/ScalarMem.lean ====
section
/-! DEFINITION. The memory instructions of the S slot: SDM (R136, R137), global loads, stores and atomics (R138 to R146), CPRE and CINV (R401, R402). -/

namespace Sys2Proof.Machine

/-! ## Addresses and their faults -/

/-- The bytes of a context's quarter of LM (R342). -/
def inQuarter (th lo n : Nat) : Bool := decide (0x20000 * (th % 4) ≤ lo ∧ lo + n ≤ 0x20000 * (th % 4) + 0x20000)

/-- On a confined core, does a global access reach own LM outside the context's quarter (R343)? -/
def confinedOut (m : Mod) (th a n : Nat) : Bool :=
  (core m (th / 4)).conf && (match regionOf a with
    | .lm c off => c == th / 4 && !inQuarter th off n
    | _ => false)

/-- The fault of a global access: ALIGN, PAGE_NP (detail 0 for a read, 1 for a write), or the quarter of a confined core (R139, R343). -/
def accessFault (k : Iss) (slot : Slot) (ja : Word) (size align : Nat) (write : Bool) : Option Flt :=
  if ja.toNat % align != 0 then some (syncFault slot 0x25 0 ja)
  else
    match (xlate k.m (k.th / 4) k.x.xbase ja).2 with
    | .notPresent => some (syncFault slot 0x26 (b1 write) ja)
    | .here a => if confinedOut k.m k.th a size then some (syncFault slot 0x21 6 0) else none
    | .peer _ _ => none

/-- What the walk of an access that then raises a fault did: a table line read, written back or recorded, its machine-check record, a translation held (R479, R480, R488). -/
def faultWalk (k : Iss) (ja : Word) (align : Nat) (m : Mod) : Mod := if ja.toNat % align != 0 then m else (xlate m (k.th / 4) k.x.xbase ja).1

/-- The job address a + imm16 (R138). -/
def jobAddr (k : Iss) (slot : Slot) (a : Spec) (imm : BitVec 16) : Word := k.s slot a + imm16 imm

/-- A pending bit set at issue (R140). -/
def pendSet (m : Mod) (th d : Nat) : Mod := setCtx m th (fun x => { x with pendS := x.pendS ||| BitVec.ofNat 32 (2 ^ d) })

/-- The first `n` bytes of a word, none poisoned. -/
def storeBytes (n : Nat) (v : Word) : List (Byte × Bool) := (toBytes n v.toNat).map (fun b => (b, false))

/-! ## SDM (R136, R137) -/

/-- The SDM byte address (a + imm16) mod 65,536. -/
def sdmByte (k : Iss) (a : Spec) (imm : BitVec 16) : Nat := (jobAddr k .s a imm).toNat % 65536

/-- ALIGN of an SDM access; the frame's addr word holds the SDM byte address (log 26, DEDUCED). -/
def sdmFault (k : Iss) (a : Spec) (imm : BitVec 16) (size : Nat) : Option Flt :=
  if sdmByte k a imm % size != 0 then some (syncFault .s 0x25 0 (w64 (sdmByte k a imm))) else none

def defLds (i : Issue) (form : LoadForm) (d a : Spec) (imm : BitVec 16) : SlotDef :=
  { sSlot i [a] [d] with
    sdm := true
    fault := fun k => sdmFault k a imm (loadSize form)
    eff := fun k m =>
      match ownRead m k.th .s k.pc (sdmAddr (k.th / 4) (sdmByte k a imm)) (loadSize form) with
      | (m, bytes) => landS k m 2 d (extendLoad form (ofBytes bytes)) }
/-- LDS. -/
def execLds (i : Issue) (form : LoadForm) (d a : Spec) (imm : BitVec 16) (s : State) := issueSlot s i (.lds i form d a imm) (defLds i form d a imm)

def defSts (i : Issue) (form : StoreForm) (d a : Spec) (imm : BitVec 16) : SlotDef :=
  { sSlot i [d, a] [] with
    sdm := true
    fault := fun k => sdmFault k a imm (storeSize form)
    eff := fun k m =>
      let at_ := sdmByte k a imm
      land m k.th k.cyc 1 .s k.pc
        (.sdm (((List.range (storeSize form)).zip (toBytes (storeSize form) (k.s .s d).toNat)).map (fun p => (at_ + p.1, p.2)))) }
/-- STS; d is a source (R136). Windows of d and a that are bound to one queue pop d first (log 87, DESIGN CHOICE). -/
def execSts (i : Issue) (form : StoreForm) (d a : Spec) (imm : BitVec 16) (s : State) := issueSlot s i (.sts i form d a imm) (defSts i form d a imm)

/-! ## Global loads and stores (R138 to R143) -/

def defLdg (i : Issue) (form : LoadForm) (d a : Spec) (imm : BitVec 16) : SlotDef :=
  { sSlot i [a] [d] with
    fault := fun k => accessFault k .s (jobAddr k .s a imm) (loadSize form) (loadSize form) false
    onFault := fun k => faultWalk k (jobAddr k .s a imm) (loadSize form)
    eff := fun k m =>
      let ja := jobAddr k .s a imm
      match xlate m (k.th / 4) k.x.xbase ja with
      | (m, x) =>
        let m := pendSet (count m (k.th / 4) 35 1) k.th d.toNat
        let m := issueLoad m k.th { mkAccess m k.th .s .load ja x (loadSize form) with dest := .s d.toNat form }
        trainStride m k.th k.pc false k.x.xbase ja }
/-- LDG. -/
def execLdg (i : Issue) (form : LoadForm) (d a : Spec) (imm : BitVec 16) (s : State) := issueSlot s i (.ldg i form d a imm) (defLdg i form d a imm)

def defStg (i : Issue) (form : StoreForm) (d a : Spec) (imm : BitVec 16) : SlotDef :=
  { sSlot i [d, a] [] with
    fault := fun k => accessFault k .s (jobAddr k .s a imm) (storeSize form) (storeSize form) true
    onFault := fun k => faultWalk k (jobAddr k .s a imm) (storeSize form)
    eff := fun k m =>
      let ja := jobAddr k .s a imm
      match xlate m (k.th / 4) k.x.xbase ja with
      | (m, x) =>
        issueStore (count m (k.th / 4) 36 1) k.th
          { mkAccess m k.th .s .store ja x (storeSize form) with data := storeBytes (storeSize form) (k.s .s d) } }
/-- STG; d is the data (R98). Windows of d and a that are bound to one queue pop d first (log 87, DESIGN CHOICE). -/
def execStg (i : Issue) (form : StoreForm) (d a : Spec) (imm : BitVec 16) (s : State) := issueSlot s i (.stg i form d a imm) (defStg i form d a imm)

/-! ## Atomics (R144 to R146) -/

/-- Does an AMO to the address issue: to HBM or CM, or to a reserved range, which R144 does not list among those that raise ILLEGAL and where R473 has every global
access complete with an error response (log 49, DEDUCED). -/
def amoRange (a : Nat) : Bool :=
  match regionOf a with
  | .hbm | .cm _ _ | .reserved => true
  | _ => false

/-- The load form that extends the old value of an atomic: with zeros (R145). -/
def amoLoad : AmoForm → LoadForm
  | .d => .d
  | .w => .wu
  | .h => .hu

def defAmo (i : Issue) (form : AmoForm) (d a b c : Spec) (m : BitVec 4) : SlotDef :=
  { sSlot i [a, b, c] [d] with
    illegal := orElse (specCheck [a, b, c] [d]) (if 11 ≤ m.toNat ∨ (form = .h ∧ m ≠ 10) then some 1 else none)
    fault := fun k =>
      let ja := k.s .s a
      match accessFault k .s ja (amoSize form) (amoSize form) true with
      | some f => some f
      | none =>
        match (xlate k.m (k.th / 4) k.x.xbase ja).2 with
        | .here x => if amoRange x then none else some (syncFault .s 0x21 5 0)
        | .peer _ x => if amoRange x then none else some (syncFault .s 0x21 5 0)
        | .notPresent => none
    onFault := fun k => faultWalk k (k.s .s a) (amoSize form)
    eff := fun k md =>
      let ja := k.s .s a
      match xlate md (k.th / 4) k.x.xbase ja with
      | (md, x) =>
        let md := pendSet (count md (k.th / 4) 35 1) k.th d.toNat
        let md := match x with
          | .here p => fillClose (dcInvalidate (dcLook md (k.th / 4) (lineOf p)) (k.th / 4) (lineOf p)) (k.th / 4) (lineOf p)
          | _ => md
        addAccess md { mkAccess md k.th .s .amo ja x (amoSize form) with
          op := m, data := storeBytes (amoSize form) (k.s .s b), cmp := k.s .s c, dest := .s d.toNat (amoLoad form) } }
/-- AMO; m selects the operation (R101). A fill of its line in flight does not install, as after a CINV: the spec does not say (log 88, DESIGN CHOICE). -/
def execAmo (i : Issue) (form : AmoForm) (d a b c : Spec) (m : BitVec 4) (s : State) := issueSlot s i (.amo i form d a b c m) (defAmo i form d a b c m)

/-! ## Cache instructions (R401, R402) -/

/-- CPRE at a line: filled where its data are absent, locked unless seven others of its set are (R401). -/
def cpreLine (m : Mod) (c line : Nat) : Mod :=
  let m := dcLook m c line
  let m := if lockedIn m c line ≤ 6 then dcLock m c line else count m c 17 1
  if (dcFind m c line).elim false DLine.valid then m else fillRequest m c line false

def defCpre (i : Issue) (a : Spec) (imm : BitVec 16) : SlotDef :=
  { sSlot i [a] [] with
    eff := fun k m =>
      match xlate m (k.th / 4) k.x.xbase (jobAddr k .s a imm) with
      | (m, .here x) => if cached (jobAddr k .s a imm) x then cpreLine m (k.th / 4) (lineOf x) else m
      | (m, _) => m }
/-- CPRE: it never waits and never faults. -/
def execCpre (i : Issue) (a : Spec) (imm : BitVec 16) (s : State) := issueSlot s i (.cpre i a imm) (defCpre i a imm)

def defCinv (i : Issue) (a : Spec) (imm : BitVec 16) : SlotDef :=
  { sSlot i [a] [] with
    eff := fun k m =>
      match xlate m (k.th / 4) k.x.xbase (jobAddr k .s a imm) with
      | (m, .here x) => fillClose (dcInvalidate (dcLook m (k.th / 4) (lineOf x)) (k.th / 4) (lineOf x)) (k.th / 4) (lineOf x)
      | (m, _) => m }
/-- CINV: the lock is kept. -/
def execCinv (i : Issue) (a : Spec) (imm : BitVec 16) (s : State) := issueSlot s i (.cinv i a imm) (defCinv i a imm)

end Sys2Proof.Machine
end

