-- ==== Sys2Proof/Machine/Control.lean ====
section
/-! DEFINITION. The control instructions of the S slot: branches (R80 to R82, R102), loops (R169 to R172), control registers (R52, R53, R179 to R182), RTE (R318), and writes of the decode table with its consistency (R187 to R190, R195, R196). -/

namespace Sys2Proof.Machine

/-! ## Branches -/

/-- ALIGN of an indirect branch (R82). -/
def targetFault (k : Iss) (a : Spec) : Option Flt :=
  if (k.s .s a).toNat % 32 != 0 then some (syncFault .s 0x25 1 0) else none

def defBr (i : Issue) (off : BitVec 28) : SlotDef :=
  { sSlot i [] [] with branch := true, redirect := fun k => some (k.pc + 32 * off.signExtend 64) }
/-- BR. -/
def execBr (i : Issue) (off : BitVec 28) (s : State) := issueSlot s i (.br i off) (defBr i off)
def defCall (i : Issue) (d : Spec) (off : BitVec 22) : SlotDef :=
  { sSlot i [] [d] with
    branch := true, redirect := fun k => some (k.pc + 32 * off.signExtend 64), eff := fun k m => landS k m 1 d (k.pc + 32) }
/-- CALL. -/
def execCall (i : Issue) (d : Spec) (off : BitVec 22) (s : State) := issueSlot s i (.call i d off) (defCall i d off)
def defBri (i : Issue) (a : Spec) : SlotDef :=
  { sSlot i [a] [] with branch := true, fault := fun k => targetFault k a, redirect := fun k => some (k.s .s a) }
/-- BRI. -/
def execBri (i : Issue) (a : Spec) (s : State) := issueSlot s i (.bri i a) (defBri i a)
def defCalli (i : Issue) (d a : Spec) : SlotDef :=
  { sSlot i [a] [d] with
    branch := true, fault := fun k => targetFault k a, redirect := fun k => some (k.s .s a), eff := fun k m => landS k m 1 d (k.pc + 32) }
/-- CALLI: the target is read at issue, so d may name a. -/
def execCalli (i : Issue) (d a : Spec) (s : State) := issueSlot s i (.calli i d a) (defCalli i d a)

/-! ## Loops (R169 to R172) -/

/-- LOOP_STATE of a loop start: the level is not the depth, or the bundle ends an active level (R170). -/
def loopFault (k : Iss) (lvl : Nat) : Option Flt :=
  if lvl != k.x.depth || (List.range k.x.depth).any (fun j => tblGet 0 k.x.lpe j == k.pc) then some (syncFault .s 0x24 0 0) else none

/-- The registers of a loop of count n ≥ 1 (R171). -/
def startLoop (k : Iss) (m : Mod) (lvl n e : Nat) : Mod :=
  if n = 0 then m
  else landLoop m k.th k.cyc k.pc [.lps lvl (k.pc + 32), .lpe lvl (k.pc + 32 * w64 e), .lpc lvl (BitVec.ofNat 32 (n - 1)) false]

/-- A loop of count 0 leads past its end bundle (R172). -/
def skipLoop (k : Iss) (n e : Nat) : Option Word := if n = 0 then some (k.pc + 32 * w64 e + 32) else none

def defLoop (i : Issue) (a : Spec) (lvl : BitVec 2) (e : BitVec 20) : SlotDef :=
  { sSlot i [a] [] with
    illegal := orElse (specCheck [a] []) (if e = 0 then some 1 else none)
    fault := fun k => loopFault k lvl.toNat
    redirect := fun k => skipLoop k ((k.s .s a).toNat % 2 ^ 32) e.toNat
    eff := fun k m => startLoop k m lvl.toNat ((k.s .s a).toNat % 2 ^ 32) e.toNat }
/-- LOOP: the count is a[31:0]; an end of 0 is reserved (R102). -/
def execLoop (i : Issue) (a : Spec) (lvl : BitVec 2) (e : BitVec 20) (s : State) := issueSlot s i (.loop i a lvl e) (defLoop i a lvl e)
def defLoopi (i : Issue) (cnt : BitVec 12) (lvl : BitVec 2) (e : BitVec 14) : SlotDef :=
  { sSlot i [] [] with
    illegal := if e = 0 then some 1 else none
    fault := fun k => loopFault k lvl.toNat
    redirect := fun k => skipLoop k cnt.toNat e.toNat
    eff := fun k m => startLoop k m lvl.toNat cnt.toNat e.toNat }
/-- LOOPI. -/
def execLoopi (i : Issue) (cnt : BitVec 12) (lvl : BitVec 2) (e : BitVec 14) (s : State) := issueSlot s i (.loopi i cnt lvl e) (defLoopi i cnt lvl e)

/-! ## Control registers (R52, R53) -/

def defCrr (i : Issue) (r : Spec) (crn : BitVec 12) : SlotDef :=
  { sSlot i [] [r] with
    illegal := orElse (specCheck [] [r]) (if crAssigned crn.toNat then none else some 1)
    priv := fun x => !x.sup && !crUserRead crn.toNat
    eff := fun k m => landS k m 1 r (crRead k.m k.th crn.toNat) }
/-- CRR. -/
def execCrr (i : Issue) (r : Spec) (crn : BitVec 12) (s : State) := issueSlot s i (.crr i r crn) (defCrr i r crn)

/-- Is the number cr.lps, cr.lpe or cr.lpc of a level, or a stride descriptor? -/
def crKind (n : Nat) : Nat :=
  if 0x020 ≤ n ∧ n ≤ 0x023 then 1 else if 0x024 ≤ n ∧ n ≤ 0x027 then 2 else if 0x028 ≤ n ∧ n ≤ 0x02B then 3 else if 0x030 ≤ n then 4 else 0

/-- LOOP_STATE of a CRW to a loop register (R181, R182). A CRW that activates level k in the end bundle of level k - 1 raises nothing: where the back edge ends level
k - 1, both results land and level k stays active above an inactive one (log 92, DESIGN CHOICE). -/
def crwFault (k : Iss) (n : Nat) (v : Word) : Option Flt :=
  let bad := match crKind n with
    | 1 => v.toNat % 32 != 0 || decide (n - 0x020 < k.x.depth)
    | 2 =>
      let j := n - 0x024
      v.toNat % 32 != 0 ||
      (if v = 0 then decide (j + 1 < k.x.depth) else j != k.x.depth)
    | _ => false
  if bad then some (syncFault .s 0x24 0 0) else none

/-- What a CRW lands (R52, R57, R108, R166 to R168). -/
def crwWrite (n : Nat) (v : Word) : Write :=
  match crKind n with
  | 1 => .lps (n - 0x020) v
  | 2 => .lpe (n - 0x024) v
  | 3 => .lpc (n - 0x028) (v.setWidth 32) true
  | 4 => .sd (n - 0x030) (v &&& sdMask)
  | _ => .cr n v

def defCrw (i : Issue) (r : Spec) (crn : BitVec 12) : SlotDef :=
  { sSlot i [r] [] with
    illegal := orElse (specCheck [r] []) (if crAssigned crn.toNat then none else some 1)
    priv := fun x => !x.sup && !crUserWrite crn.toNat
    fault := fun k => crwFault k crn.toNat (k.s .s r)
    deact := fun k => crKind crn.toNat == 2 && k.s .s r == 0 && k.x.depth == crn.toNat - 0x024 + 1
    lpcWrite := if crKind crn.toNat = 3 then some (crn.toNat - 0x028) else none
    eff := fun k m => land m k.th k.cyc 1 .s k.pc (crwWrite crn.toNat (k.s .s r)) }
/-- CRW. -/
def execCrw (i : Issue) (r : Spec) (crn : BitVec 12) (s : State) := issueSlot s i (.crw i r crn) (defCrw i r crn)

/-! ## RTE (R318) -/

def defRte (i : Issue) : SlotDef := { sSlot i [] [] with priv := fun x => !x.sup, rte := true, eff := fun k m => startRte m k.th }
/-- RTE. -/
def execRte (i : Issue) (s : State) := issueSlot s i (.rte i) (defRte i)

/-! ## The decode table (R187 to R190) -/

/-- A micro-operation of an entry: its slot's 40 bits (R187). -/
def microOp (e : List Byte) (j : Nat) : Nat := ofBytes (sliceBytes e (16 + 5 * j) 5)

/-- The header word of an entry (R188). -/
def entryHeader (e : List Byte) : Nat := ofBytes (sliceBytes e 0 8)

def entryValid (e : List Byte) : Bool := bitOf (entryHeader e) 63
def entryCount (e : List Byte) : Nat := fld (entryHeader e) 48 4 + 1
def entryLat (e : List Byte) : Nat := fld (entryHeader e) 42 6 + 1
def entryKind (e : List Byte) : Nat := fld (entryHeader e) 40 2
def entryLanew (e : List Byte) : Nat := fld (entryHeader e) 36 2
def entryUsed (e : List Byte) (f : Nat) : Bool := bitOf (entryHeader e) (32 + f)
def entryQwin (e : List Byte) (f : Nat) : Bool := bitOf (entryHeader e) (16 + f)
def entryMtake (e : List Byte) (j : Nat) : Bool := bitOf (entryHeader e) j

/-- The kinds of a micro-operation's register fields: the destination's kind (0 none, 1 scalar, 2 predicate, 3 vector, 4 mask) and which of d, a, b, c are read. -/
structure UShape where
  dst : Nat
  rdD : Bool
  rdA : Bool
  rdB : Bool
  rdC : Bool
  hasM : Bool
  lat : Nat
  deriving DecidableEq, Repr

/-- The shape of an opcode that R189 allows in the S slot, with its latency (R66) and whether its format has an m field. -/
def sShape (op : Nat) : Option UShape :=
  let sh (dst : Nat) (d a b c m : Bool) (lat : Nat) : Option UShape := some { dst := dst, rdD := d, rdA := a, rdB := b, rdC := c, hasM := m, lat := lat }
  if 0x01 ≤ op ∧ op ≤ 0x08 then sh 1 false true true false true 1
  else if op = 0x09 then sh 1 false true false false true 1
  else if op = 0x0A then sh 1 false true true false true 1
  else if 0x0B ≤ op ∧ op ≤ 0x10 then sh 2 false true true false true 1
  else if 0x20 ≤ op ∧ op ≤ 0x26 then sh 1 false true false false false 1
  else if 0x27 ≤ op ∧ op ≤ 0x29 then sh 2 false true false false false 1
  else if op = 0x2A then sh 1 false false false false false 1
  else if op = 0x2B then sh 1 true false false false false 1
  else if 0x30 ≤ op ∧ op ≤ 0x32 then sh 1 false true true false true 3
  else if op = 0x38 then sh 1 false true false false true 1
  else if op = 0x3A then sh 1 true true false false true 1
  else if op = 0x3B then sh 1 false true false false true 1
  else if op = 0x3C then sh 1 false true true true true 1
  else
    let f := op % 16
    if ¬(0x40 ≤ op ∧ op ≤ 0x5F) then none
    else if op = 0x5C then sh 1 false true false false true 4
    else if f = 0 ∨ f = 1 then sh 1 false true true false true 4
    else if f = 2 then sh 1 false true true true true 4
    else if f = 5 ∨ f = 6 then sh 1 false true true false true 2
    else if f = 7 then sh 2 false true true false true 2
    else none

/-- The shape of an opcode that R189 allows in the V slot. -/
def vShape (op : Nat) (c : Nat) : Option UShape :=
  let sh (dst : Nat) (d a b cc : Bool) (lat : Nat) : Option UShape := some { dst := dst, rdD := d, rdA := a, rdB := b, rdC := cc, hasM := true, lat := lat }
  if 0x01 ≤ op ∧ op ≤ 0x08 then sh 3 false true true false 2
  else if op = 0x09 then sh 3 false true false false 2
  else if 0x0B ≤ op ∧ op ≤ 0x0D then sh 4 false true true false 2
  else if op = 0x0E then sh 4 false true (c % 8 != 4) false 2
  else if op = 0x40 then sh 3 false true false false 4
  else if op = 0x42 then sh 3 false true true false 2
  else
    let f := op % 8
    if ¬(0x20 ≤ op ∧ op ≤ 0x35 ∧ f ≤ 5) then none
    else if f = 0 ∨ f = 1 then sh 3 false true true false 4
    else if f = 2 then sh 3 false true true true 4
    else if f = 3 ∨ f = 4 then sh 3 false true true false 2
    else sh 4 false true true false 2

/-- The shape of a micro-operation; none outside R189, or with a guard. -/
def uShape (vslot : Bool) (u : Nat) : Option UShape :=
  if fld u 36 4 != 0 then none
  else if vslot then vShape (fld u 28 8) (fld u 4 6) else sShape (fld u 28 8)

/-- Is a field a source that R190 and the entry allow: an absolute register, d (56), a used operand (57 to 59), or a temporary written before? -/
def uSrcOk (e : List Byte) (written : List Nat) (r : Nat) : Bool :=
  decide (r < 32) || r == 56 || (r == 57 && entryUsed e 0) || (r == 58 && entryUsed e 1) || (r == 59 && entryUsed e 2) || written.contains r

/-- The mask sources of VMOP, and predicate and mask registers, are named by 6-bit fields under R190. -/
def uFields (u : Nat) : Nat × Nat × Nat × Nat := (fld u 22 6, fld u 16 6, fld u 10 6, fld u 4 6)

/-- The reserved bits of a micro-operation's operand field that must be zero, by its slot's tables (R98, R99, R105). -/
def uReserved (vslot : Bool) (u : Nat) : Bool :=
  let op := fld u 28 8
  let c := fld u 4 6
  let m := fld u 0 4
  let a := fld u 16 6
  let b := fld u 10 6
  if vslot then
    if op = 0x40 then fld u 4 4 != 0
    else if op ≤ 0x08 then decide (8 ≤ c)
    else if op = 0x09 then b != 0 || c != 0
    else if op = 0x0E then decide (8 ≤ c) || m != 0
    else if 0x0B ≤ op ∧ op ≤ 0x0D then decide (8 ≤ c)
    else if op = 0x42 then decide (8 ≤ c)
    else
      let f := op % 8
      if f = 0 then decide (2 ≤ c) else if f = 1 ∨ f = 3 ∨ f = 4 then c != 0 else if f = 5 then decide (4 ≤ c) else false
  else if op ≤ 0x08 ∨ (0x0B ≤ op ∧ op ≤ 0x10) ∨ (0x30 ≤ op ∧ op ≤ 0x32) then c != 0 || m != 0
  else if op = 0x09 then b != 0 || c != 0 || m != 0
  else if op = 0x0A then c != 0 || decide (8 ≤ m)
  else if op = 0x2B then decide (4 ≤ a)
  else if op = 0x38 then decide (2 ≤ m)
  else if op = 0x3A then m != 0
  else if op = 0x3B then b != 0 || c != 0 || m != 0
  else if op = 0x3C then m != 0
  else if op = 0x5C then b != 0 || decide (16 ≤ c) || m % 4 != 0
  else if 0x40 ≤ op then
    let f := op % 16
    if f = 0 then c != 0 || bitOf m 1 else if f = 1 then c != 0 || bitOf m 0 else if f = 5 ∨ f = 6 then c != 0 || m != 0
    else if f = 7 then c != 0 || decide (4 ≤ m) else false
  else false

/-- The field values of a micro-operation that its slot's tables mark reserved: they raise ILLEGAL as an instruction (R87, R100, R105, R125). -/
def uIllegal (vslot : Bool) (u : Nat) : Bool :=
  let op := fld u 28 8
  let c := fld u 4 6
  if vslot then
    if op = 0x40 then (laneWidth (fld u 13 3)).isNone || (laneWidth (fld u 10 3)).isNone
    else if op = 0x42 then (laneWidth (c % 8)).isNone
    else if op = 0x0E then decide (5 ≤ c % 8)
    else if op ≤ 0x08 ∨ (0x0B ≤ op ∧ op ≤ 0x0D) then !isIntType (c % 8)
    else false
  else if op = 0x38 ∨ op = 0x3A then decide (64 < fld u 10 6 + fld u 4 6 + 1)
  else if op = 0x5C then decide (8 ≤ c % 16)
  else false

/-- The state of the check of an entry: the temporaries written so far with their kinds, whether 56 was written, the offset of the next micro-operation, and whether all is well. -/
structure UCheck where
  written : List Nat
  wrote : Bool
  ok : Bool
  at_ : Nat
  last : Nat
  deriving DecidableEq, Repr

/-- The kind that specifier 56 must have (R188). -/
def wantKind (vslot : Bool) (kind : Nat) : Nat := if vslot then (if kind = 0 then 3 else 4) else if kind = 0 then 1 else 2

/-- One micro-operation checked (R189, R190, R196). -/
def checkMicro (vslot : Bool) (e : List Byte) (c : UCheck) (j : Nat) : UCheck :=
  let u := microOp e j
  match uShape vslot u with
  | none => { c with ok := false }
  | some s =>
    let f := uFields u
    let src (on : Bool) (r : Nat) : Bool := !on || uSrcOk e c.written r
    let d := f.1
    let dOk := d == 56 || decide (60 ≤ d)
    -- MOVK and BFI read d: as specifier 56 it is the instruction's d at issue, as a temporary it must have been written.
    let rdOk := !s.rdD || d == 56 || c.written.contains d
    let kindOk := d != 56 || s.dst == wantKind vslot (entryKind e)
    let ok := c.ok && dOk && rdOk && kindOk && src s.rdA f.2.1 && src s.rdB f.2.2.1 && src s.rdC f.2.2.2 && !uReserved vslot u && !uIllegal vslot u &&
      (!entryMtake e j || s.hasM)
    { written := if 60 ≤ d then d :: c.written else c.written, wrote := c.wrote || d == 56, ok := ok, at_ := c.at_ + s.lat, last := s.lat }

/-- Is an entry inconsistent (R196)? -/
def inconsistent (vslot : Bool) (e : List Byte) : Bool :=
  let h := entryHeader e
  let n := entryCount e
  let reserved := fld h 52 11 != 0 || fld h 38 2 != 0 || bitOf h 35 || fld h 19 13 != 0 || ofBytes (sliceBytes e 8 8) != 0 ||
    (if vslot then fld h 0 16 != 0 else fld h 36 2 != 0)
  let badValue := decide (2 ≤ entryKind e) || (vslot && entryLanew e == 3)
  let tail := (List.range 16).any (fun j => decide (n ≤ j) && (microOp e j != 0 || (!vslot && entryMtake e j)))
  let badQ := (List.range 3).any (fun f => entryQwin e f && !entryUsed e f)
  let r := (List.range n).foldl (checkMicro vslot e) { written := [], wrote := false, ok := true, at_ := 0, last := 0 }
  reserved || badValue || tail || badQ || !r.ok || !r.wrote || decide (entryLat e < r.at_)

/-! ## WDT (R195) -/

/-- The 96 bytes that WDT reads, as an own access sees them. -/
def wdtBytes (m : Mod) (th : Nat) (a : Word) : Mod × List Byte := ownRead m th .s 0 (lmAddr (th / 4) a.toNat) 96

/-- The faults of WDT (R195, R343). R309 orders no two of them: a misaligned address is found first (log 81, DESIGN CHOICE). -/
def wdtFault (k : Iss) (a b : Word) : Option Flt :=
  if a.toNat % 32 != 0 then some (syncFault .s 0x25 3 a)
  else if 0x7FFA0 < a.toNat ∨ 64 ≤ b.toNat then some (syncFault .s 0x21 1 0)
  else if (core k.m (k.th / 4)).conf && !inQuarter k.th a.toNat 96 then some (syncFault .s 0x21 6 0)
  else
    let e := (wdtBytes k.m k.th a).2
    if entryValid e && inconsistent (decide (32 ≤ b.toNat)) e then some (syncFault .s 0x21 1 0) else none

/-- The banks of the units that hold a range of LM bytes (R379). -/
def unitBanks (at_ n c : Nat) : List (Nat × Nat) :=
  (List.range ((at_ + n - 1) / 64 - at_ / 64 + 1)).map (fun i => (c, (at_ / 64 + i) % 16))

def defWdt (i : Issue) (a b : Spec) : SlotDef :=
  { sSlot i [a, b] [] with
    priv := fun x => !x.sup
    fault := fun k => wdtFault k (k.s .s a) (k.s .s b)
    banks := fun k => unitBanks ((k.s .s a).toNat) 96 0
    eff := fun k m =>
      match ownRead m k.th .s k.pc (lmAddr (k.th / 4) (k.s .s a).toNat) 96 with
      | (m, e) => setCore m (k.th / 4) (fun c => { c with wdtPend := c.wdtPend ++ [(k.cyc + 24, (k.s .s b).toNat, e)] }) }
/-- WDT: instructions from 24 cycles on use the new entry. -/
def execWdt (i : Issue) (a b : Spec) (s : State) := issueSlot s i (.wdt i a b) (defWdt i a b)

/-- The entry that an instruction issued in cycle `t` uses (R185, R195). -/
def entryAt (c : Core) (e t : Nat) : List Byte :=
  (c.wdtPend.filter (fun p => p.2.1 == e && decide (p.1 ≤ t))).foldl (fun _ p => p.2.2) (tblGet [] c.dtable e)

end Sys2Proof.Machine
end

