-- ==== Sys2Proof/Machine/Matrix.lean ====
section
/-! DEFINITION. The M slot (R106, R107, R199 to R217, R225 to R250): each instruction as the core issues it, and its command. -/

namespace Sys2Proof.Machine

/-! ## Tiles and accumulators as an instruction reads them -/

/-- A slot of the M slot. -/
def mSlot (i : Issue) (tiles : List (BitVec 3)) : SlotDef := { slot := .m, guard := i.guard, tregs := tiles.map BitVec.toNat }

/-- The first `n` rows of a tile at issue. -/
def tileRows (x : Ctx) (t n : Nat) : List TRow :=
  (List.range n).map (fun r =>
    if x.tileBad.contains t then { data := 0, scale := 0 } else { data := (x.tdata t r).toNat, scale := (x.tsc t r).toNat })

/-- A tile with an uncorrectable error is read: SRAM_UE 0x4 (R315, R388). -/
def tileUe (m : Mod) (k : Iss) (slot : Slot) (t : Nat) : Mod :=
  if k.x.tileBad.contains t then raiseCheck m k.th (machineCheck 0x32 (slotNum slot) 4 k.pc 0) else m

/-- The members of an accumulator that an instruction names: the pair of an FP64 accumulator (R209). -/
def accMembers (ty : AccTy) (a : Nat) : List Nat := if ty = .fp64 then [a / 2 * 2, a / 2 * 2 + 1] else [a]

/-- The bits of a cell of the accumulators at issue: 64 for an FP64 pair (R209). -/
def accCell (x : Ctx) (ty : AccTy) (a c : Nat) : Nat :=
  if ty = .fp64 then (x.acell (a / 2 * 2) c).toNat + 2 ^ 32 * (x.acell (a / 2 * 2 + 1) c).toNat else (x.acell a c).toNat

/-- The poison value of an accumulator type (R248). -/
def poisonCell : AccTy → Nat
  | .fp32 => 0x7FC00000
  | .int32 => 0x80000000
  | .fp64 => 0x7FF8000000000000

/-- Does the parity of a cell that is read fail, of the accumulators that an instruction names: `reads` tells which cells of a member it reads (R247, R248)? -/
def accParity (x : Ctx) (ty : AccTy) (a : Nat) (reads : Nat → Nat → Bool) : Bool :=
  (accMembers ty a).any (fun b => x.accBad.any (fun k => k / 256 == b && reads b (k % 256)))

/-- A cell as a reading instruction uses it: the poison value of every cell where the parity of one that it reads fails (R248). -/
def accRead (x : Ctx) (ty : AccTy) (a : Nat) (reads : Nat → Nat → Bool) (c : Nat) : Nat :=
  if accParity x ty a reads then poisonCell ty else accCell x ty a c

/-- MAC_CHECK for a parity failure, counted (R249, R250). -/
def parityCheck (m : Mod) (k : Iss) (slot : Slot) (ty : AccTy) (a : Nat) (reads : Nat → Nat → Bool) : Mod :=
  if accParity k.x ty a reads then raiseCheck (count m (k.th / 4) 34 1) k.th (machineCheck 0x30 (slotNum slot) (4 + a) k.pc 0) else m

/-- Is the result an MMA's: it lands 7 or more cycles after issue, and no other instruction writes an accumulator so late (R66)? -/
def isMma (l : Landing) : Bool :=
  match l.w with
  | .acc _ _ => decide (l.issued + 7 ≤ l.due)
  | _ => false

/-- The cells that an MMA in the engine has for an accumulator (R77, R233). -/
def mmaResult (x : Ctx) (cyc a : Nat) : List (Nat × BitVec 32) :=
  x.inflight.foldl (fun acc l =>
    match l.w with
    | .acc b cells => if isMma l && decide (l.issued < cyc) && b == a then cells else acc
    | _ => acc) []

/-- A cell of one accumulator as an MMA's addend takes it: the forwarded result of an MMA in the engine, else the accumulator (R233, R234). -/
def addendPart (x : Ctx) (cyc b c : Nat) : Nat := ((tblFind (mmaResult x cyc b) c).getD (x.acell b c)).toNat

/-- The cells of a member that an MMA of `ra` by `rb` rows reads from the accumulator: those that no MMA in the engine forwards (R204, R233). -/
def mmaReads (x : Ctx) (cyc ra rb b c : Nat) : Bool := decide (c / 16 < ra ∧ c % 16 < rb) && (tblFind (mmaResult x cyc b) c).isNone

/-- The addend of a cell, 64 bits for an FP64 pair; the poison value where the parity of a cell read fails (R209, R233, R248). -/
def addendOf (x : Ctx) (cyc : Nat) (ty : AccTy) (a ra rb c : Nat) : Nat :=
  if accParity x ty a (mmaReads x cyc ra rb) then poisonCell ty
  else if ty = .fp64 then addendPart x cyc (a / 2 * 2) c + 2 ^ 32 * addendPart x cyc (a / 2 * 2 + 1) c
  else addendPart x cyc a c

/-- Results for the members of an accumulator, put in flight with latency `n` (R209). -/
def landAcc (k : Iss) (m : Mod) (n : Nat) (ty : AccTy) (a : Nat) (cells : List (Nat × Nat)) : Mod :=
  let lo := cells.map (fun p => (p.1, (BitVec.ofNat 32 p.2 : BitVec 32)))
  if ty = .fp64 then
    let hi := cells.map (fun p => (p.1, (BitVec.ofNat 32 (p.2 / 2 ^ 32) : BitVec 32)))
    land (land m k.th k.cyc n .m k.pc (.acc (a / 2 * 2) lo)) k.th k.cyc n .m k.pc (.acc (a / 2 * 2 + 1) hi)
  else land m k.th k.cyc n .m k.pc (.acc a lo)

/-! ## Configuration (R107, R202, R210, R211) -/

/-- The configuration that TCFG names. -/
def tcfgOf (rows1 : BitVec 4) (rb1 : BitVec 6) (fmt : BitVec 4) (scale : BitVec 3) : TileCfg :=
  { rows := rows1.toNat + 1, rowBytes := rb1.toNat + 1, fmt := fmt, scale := scale.toNat }

/-- Is a configuration valid (R201)? -/
def TileCfg.ok (c : TileCfg) : Bool :=
  match fmtOf c.fmt with
  | some f => f.validBytes c.rowBytes && c.scale == f.scaleFor c.rowBytes
  | none => false

def defTcfg (i : Issue) (t : BitVec 3) (rows1 : BitVec 4) (rb1 : BitVec 6) (fmt : BitVec 4) (scale : BitVec 3) : SlotDef :=
  { mSlot i [t] with
    illegal := if (fmtOf fmt).isNone then some 1 else none
    fault := fun _ => if (tcfgOf rows1 rb1 fmt scale).ok then none else some (syncFault .m 0x22 0 0)
    eff := fun k m => land m k.th k.cyc 1 .m k.pc (.tileCfg t.toNat (tcfgOf rows1 rb1 fmt scale)) }
/-- TCFG. -/
def execTcfg (i : Issue) (t : BitVec 3) (rows1 : BitVec 4) (rb1 : BitVec 6) (fmt : BitVec 4) (scale : BitVec 3) (s : State) :=
  issueSlot s i (.tcfg i t rows1 rb1 fmt scale) (defTcfg i t rows1 rb1 fmt scale)

/-- The type of an ACFG code (R106). -/
def acfgTy (type : BitVec 2) : AccTy := if type = 0 then .fp32 else if type = 1 then .int32 else .fp64

/-- The accumulators whose type an ACFG writes: both of a pair that is or becomes FP64 (R210). -/
def acfgMembers (x : Ctx) (a : Nat) (ty : AccTy) : List Nat := if ty = .fp64 ∨ x.aty a = .fp64 then [a / 2 * 2, a / 2 * 2 + 1] else [a]

def defAcfg (i : Issue) (acc : BitVec 2) (type : BitVec 2) : SlotDef :=
  { mSlot i [] with
    illegal := if type = 3 ∨ (type = 2 ∧ acc.toNat % 2 = 1) then some 1 else none
    eff := fun k m => (acfgMembers k.x acc.toNat (acfgTy type)).foldl (fun m a => land m k.th k.cyc 1 .m k.pc (.accTy a (acfgTy type))) m }
/-- ACFG. -/
def execAcfg (i : Issue) (acc : BitVec 2) (type : BitVec 2) (s : State) := issueSlot s i (.acfg i acc type) (defAcfg i acc type)

def defAccz (i : Issue) (acc : BitVec 2) : SlotDef :=
  { mSlot i [] with
    eff := fun k m => landAcc k m 1 (k.x.aty acc.toNat) acc.toNat ((List.range 256).map (fun c => (c, 0))) }
/-- ACCZ: every cell of the accumulator, and of its pair where it is FP64. -/
def execAccz (i : Issue) (acc : BitVec 2) (s : State) := issueSlot s i (.accz i acc) (defAccz i acc)

/-! ## MMA (R204, R217, R228 to R240) -/

/-- TILE_SHAPE of an MMA (R217). -/
def mmaFault (x : Ctx) (fmt : BitVec 4) (acc ta tb : Nat) : Option Flt :=
  let a := x.tconf ta
  let b := x.tconf tb
  match fmtOf fmt with
  | none => none
  | some f =>
    if a.fmt != fmt || b.fmt != fmt || a.rowBytes != b.rowBytes || x.aty acc != f.accTy || (f == .fp64 && acc % 2 == 1) then
      some (syncFault .m 0x23 0 0)
    else none

/-- The rows of a tile as plain data, and back. -/
def rowPairs (l : List TRow) : List (Nat × Nat) := l.map (fun r => (r.data, r.scale))
def pairRows (l : List (Nat × Nat)) : List TRow := l.map (fun p => { data := p.1, scale := p.2 })

/-- The cycle count of an MMA at issue (R228). -/
def mmaN (x : Ctx) (f : Fmt) (ta : Nat) : Nat := mmaCycles f (f.elems (x.tconf ta).rowBytes) x.strict

/-- The effect of an MMA of format `f`; the cycles of the array stage are counted as they pass (R250). A tile named as A and as B counts its 0xFF blocks once for each
(R240) (log 109, DESIGN CHOICE). -/
def mmaEff (f : Fmt) (acc ta tb : Nat) (k : Iss) (m : Mod) : Mod :=
  let ca := k.x.tconf ta
  let cb := k.x.tconf tb
  let as := tileRows k.x ta ca.rows
  let bs := tileRows k.x tb cb.rows
  let kk := f.elems ca.rowBytes
  let n := mmaN k.x f ta
  let c := k.th / 4
  let seed := m.free
  let m := parityCheck { m with free := m.free + 1 } k .m f.accTy acc (mmaReads k.x k.cyc ca.rows cb.rows)
  let m := tileUe (if ta = tb then m else tileUe m k .m tb) k .m ta
  let m := count (count m c 29 1) c 32 (nanBlocks f ca.rowBytes as + nanBlocks f cb.rowBytes bs)
  let add := addendOf k.x k.cyc f.accTy acc ca.rows cb.rows
  let op : MmaOp := { fmt := ca.fmt, strict := k.x.strict, seed := seed, k := kk, rowsA := rowPairs as, rowsB := rowPairs bs, addends := (List.range 256).map add }
  let m := setCore m c (fun co =>
    { co with
      mmas := co.mmas.filter (fun r => decide (k.cyc < r.t + r.n + 6)) ++ [{ t := k.cyc, n := n, ctx := k.th % 4, acc := acc, ty := f.accTy, op := op }]
      arrayRuns := co.arrayRuns.filter (fun r => decide (64 * (k.cyc / 64) < r.1 + r.2)) ++ [(k.cyc, n)] })
  landAcc k m (n + 6) f.accTy acc (mmaCells k.x.strict f seed kk as bs add)

def defMma (i : Issue) (fmt : BitVec 4) (acc : BitVec 2) (ta tb : BitVec 3) : SlotDef :=
  { mSlot i [ta, tb] with
    illegal := if (fmtOf fmt).isNone then some 1 else none
    array := some (fun k => match fmtOf fmt with | some f => mmaN k.x f ta.toNat | none => 0)
    fault := fun k => mmaFault k.x fmt acc.toNat ta.toNat tb.toNat
    tiles := if ta = tb then [ta.toNat] else [ta.toNat, tb.toNat]
    eff := fun k m => match fmtOf fmt with
      | some f => mmaEff f acc.toNat ta.toNat tb.toNat k m
      | none => m }
/-- MMA. -/
def execMma (i : Issue) (fmt : BitVec 4) (acc : BitVec 2) (ta tb : BitVec 3) (s : State) := issueSlot s i (.mma i fmt acc ta tb) (defMma i fmt acc ta tb)

/-! ## The residue check (R248 to R250) -/

/-- The word of the poison value of a type that one accumulator takes: the high or the low word of an FP64 pair's (R209, R248). -/
def poisonWord (ty : AccTy) (hi : Bool) : BitVec 32 := BitVec.ofNat 32 (if ty = .fp64 ∧ hi then poisonCell ty / 2 ^ 32 else poisonCell ty)

/-- The MMA of a thread in the engine that was issued in a cycle. -/
def mmaRun (m : Mod) (t issued : Nat) : Option MmaRun := (core m (t / 4)).mmas.find? (fun r => r.t == issued && r.ctx == t % 4)

/-- The accumulator type of the MMA that a thread issued in a cycle (R213). -/
def mmaTy (m : Mod) (t issued : Nat) : AccTy := ((mmaRun m t issued).map MmaRun.ty).getD .fp32

/-- The cells of an MMA, computed from its operands with the addends given. -/
def MmaOp.cells (o : MmaOp) (adds : Nat → Nat) : List (Nat × Nat) :=
  match fmtOf o.fmt with
  | some f => mmaCells o.strict f o.seed o.k (pairRows o.rowsA) (pairRows o.rowsB) adds
  | none => []

/-- The accumulators that a failing MMA leaves poisoned, with the poison word of each (R209, R248). -/
def poisonOf (m : Mod) (t : Nat) (bad : List Landing) : List (Nat × BitVec 32) :=
  bad.filterMap (fun l => match l.w with
    | .acc a _ => some (a, poisonWord (mmaTy m t l.issued) (a % 2 == 1))
    | _ => none)

/-- The addend of a cell of a later MMA that chains onto a failing one: the poison words in place of the words of the accumulators that it leaves poisoned (R233, R248). -/
def poisonAddend (r : MmaRun) (bad : List (Nat × BitVec 32)) (c : Nat) : Nat :=
  let old := r.op.addends.getD c 0
  let part (a : Nat) (x : Nat) : Nat := ((tblFind bad a).map BitVec.toNat).getD x
  if r.ty = .fp64 then part (r.acc / 2 * 2) (old % 2 ^ 32) + 2 ^ 32 * part (r.acc / 2 * 2 + 1) (old / 2 ^ 32) else part r.acc old

/-- The word of a cell that one member of an accumulator takes (R209). -/
def cellWord (ty : AccTy) (a x : Nat) : BitVec 32 := BitVec.ofNat 32 (if ty = .fp64 ∧ a % 2 = 1 then x / 2 ^ 32 else x)

/-- A landing of thread `t` under a residue failure: the one that fails turned into poison; a later MMA that chains onto it computes with the poison (R248). -/
def poisonLanding (m : Mod) (t due issued : Nat) (bad : List (Nat × BitVec 32)) (l : Landing) : Landing :=
  match l.w with
  | .acc b _ =>
    if !isMma l || decide (l.issued < issued) then l
    else if l.due = due then { l with w := .acc b ((List.range 256).map (fun c => (c, (tblFind bad b).getD 0))) }
    else
      match mmaRun m t l.issued with
      | none => l
      | some r =>
        if (accMembers r.ty r.acc).any (fun a => (tblFind bad a).isSome) then
          { l with w := .acc b ((r.op.cells (poisonAddend r bad)).map (fun p => (p.1, cellWord r.ty b p.2))) }
        else l
  | _ => l

/-- The residue check of the MMA of thread `t` that lands in cycle `due` fails: poison in its accumulator, and MAC_CHECK as it lands (R248, R249). -/
def residueFail (m : Mod) (t due : Nat) : Mod :=
  let bad := (ctx m t).inflight.filter (fun l => isMma l && l.due == due)
  let known := (ctx m t).inflight.any (fun l => l.due == due && (match l.w with | .check _ => true | _ => false))
  match bad with
  | [] => m
  | l :: _ =>
    if known then m
    else
      let a := match l.w with | .acc a _ => a | _ => 0
      let check : Landing := { l with w := .check (machineCheck 0x30 (slotNum .m) a l.bundle 0) }
      setCtx m t (fun x => { x with inflight := x.inflight.map (poisonLanding m t due l.issued (poisonOf m t bad)) ++ [check] })

/-! ## Readout (R214, R215, R242) -/

/-- TILE_SHAPE of a readout: a combination outside R214, or the odd member of an FP64 pair (log 52, DEDUCED). -/
def readoutFault (slot : Slot) (x : Ctx) (acc : Nat) (fmt : BitVec 4) : Option Flt :=
  match fmtOf fmt with
  | none => none
  | some f =>
    if (readoutOf (x.aty acc) f false).isNone || (x.aty acc == .fp64 && acc % 2 == 1) then some (syncFault slot 0x23 0 0) else none

/-- The draws of an instruction that rounds `n` elements, in order (R287, R288). -/
def drawMany (m : Mod) (th n : Nat) (on : Bool) : Mod × List Nat :=
  if on then
    match drawN n (ctx m th).sr0 (ctx m th).sr1 with
    | (l, a, b) => (setCtx m th (fun x => { x with sr0 := a, sr1 := b }), l)
  else (m, List.replicate n 0)

/-- The rows read out of an accumulator at issue, with their draws: 16 rows and their row bytes (R214). -/
def readOut (k : Iss) (slot : Slot) (m : Mod) (acc : Nat) (f : Fmt) (rnd : BitVec 2) (half : Bool) : Mod × List Nat × Nat :=
  let ty := k.x.aty acc
  match readoutOf ty f half with
  | none => (m, [], 0)
  | some o =>
    let mode := rndCode rnd k.x.rnd
    let reads (_ c : Nat) : Bool := decide (o.col ≤ c % 16 ∧ c % 16 < o.col + o.cols)
    let m := parityCheck m k slot ty acc reads
    match drawMany m k.th (16 * o.cols) (o.rounds && decide (mode = .stoch)) with
    | (m, rs) => (m, readoutRows k.x.strict mode rs ty f o (accRead k.x ty acc reads), o.rowBytes)

/-- A whole row of a tile: its data and its scale bytes. -/
def wholeRow (r : Nat) (row : TRow) : RowWrite :=
  { row := r, data := BitVec.ofNat 512 row.data, mask := ~~~(0 : Vec), scale := some (BitVec.ofNat 32 row.scale) }

/-- A tile's rows and configuration, put in flight together. -/
def landTile (k : Iss) (m : Mod) (n : Nat) (slot : Slot) (t : Nat) (rows : List TRow) (cfg : TileCfg) : Mod :=
  let ws := ((List.range rows.length).zip rows).map (fun p => wholeRow p.1 p.2)
  land (land m k.th k.cyc n slot k.pc (.tile t ws)) k.th k.cyc n slot k.pc (.tileCfg t cfg)

def defAccrd (i : Issue) (t : BitVec 3) (acc : BitVec 2) (fmt : BitVec 4) (rnd : BitVec 2) (half : Bool) : SlotDef :=
  { mSlot i [t] with
    illegal := if (fmtOf fmt).isNone then some 1 else none
    fault := fun k => readoutFault .m k.x acc.toNat fmt
    eff := fun k m => match fmtOf fmt with
      | none => m
      | some f =>
        match readOut k .m m acc.toNat f rnd half with
        | (m, rows, rb) =>
          landTile k m 6 .m t.toNat (rows.map (fun d => { data := d, scale := 0 })) { rows := 16, rowBytes := rb, fmt := fmt, scale := 0 } }
/-- ACCRD. -/
def execAccrd (i : Issue) (t : BitVec 3) (acc : BitVec 2) (fmt : BitVec 4) (rnd : BitVec 2) (half : Bool) (s : State) :=
  issueSlot s i (.accrd i t acc fmt rnd half) (defAccrd i t acc fmt rnd half)

/-! ## TCVT and TTR (R243 to R246) -/

/-- TILE_SHAPE of TCVT (R243). -/
def tcvtFault (x : Ctx) (ta : Nat) (fmt : BitVec 4) : Option Flt :=
  let c := x.tconf ta
  match fmtOf c.fmt, fmtOf fmt with
  | some f, some g =>
    if f == .int8 || g == .int8 || !g.validBytes (g.bytesFor (f.elems c.rowBytes)) || (g.bytesFor (f.elems c.rowBytes)) * 8 != f.elems c.rowBytes * g.bits then
      some (syncFault .m 0x23 0 0)
    else none
  | _, _ => some (syncFault .m 0x23 0 0)

/-- The bytes of a row that its configuration covers, the rest zero (R245). -/
def clipRow (c : TileCfg) (r : TRow) : TRow := { data := r.data % 2 ^ (8 * c.rowBytes), scale := r.scale % 2 ^ (8 * c.scale) }

def defTcvt (i : Issue) (td ta : BitVec 3) (fmt : BitVec 4) (rnd : BitVec 2) : SlotDef :=
  { mSlot i [td, ta] with
    illegal := if (fmtOf fmt).isNone then some 1 else none
    fault := fun k => tcvtFault k.x ta.toNat fmt
    tiles := [ta.toNat]
    eff := fun k m =>
      let c := k.x.tconf ta.toNat
      match fmtOf c.fmt, fmtOf fmt with
      | some f, some g =>
        let kk := f.elems c.rowBytes
        let rows := tileRows k.x ta.toNat c.rows
        let mode := rndCode rnd k.x.rnd
        let m := tileUe m k .m ta.toNat
        let cfg : TileCfg := { rows := c.rows, rowBytes := g.bytesFor kk, fmt := fmt, scale := g.scaleFor (g.bytesFor kk) }
        if f = g then landTile k m 8 .m td.toNat (rows.map (clipRow c)) cfg
        else
          match drawMany m k.th (c.rows * kk) (decide (mode = .stoch)) with
          | (m, rs) => landTile k m 8 .m td.toNat (cvtRows k.x.strict mode f g kk rs rows) cfg
      | _, _ => m }
/-- TCVT; td may name ta. -/
def execTcvt (i : Issue) (td ta : BitVec 3) (fmt : BitVec 4) (rnd : BitVec 2) (s : State) := issueSlot s i (.tcvt i td ta fmt rnd) (defTcvt i td ta fmt rnd)

/-- TILE_SHAPE of TTR (R246). -/
def ttrFault (x : Ctx) (ta : Nat) : Option Flt :=
  let c := x.tconf ta
  match fmtOf c.fmt with
  | some f => if f.block || decide (16 < f.elems c.rowBytes) || decide (64 < c.rows * (f.bits / 8)) then some (syncFault .m 0x23 0 0) else none
  | none => some (syncFault .m 0x23 0 0)

def defTtr (i : Issue) (td ta : BitVec 3) : SlotDef :=
  { mSlot i [td, ta] with
    fault := fun k => ttrFault k.x ta.toNat
    tiles := [ta.toNat]
    eff := fun k m =>
      let c := k.x.tconf ta.toNat
      match fmtOf c.fmt with
      | none => m
      | some f =>
        let kk := f.elems c.rowBytes
        landTile k (tileUe m k .m ta.toNat) 8 .m td.toNat (transRows f kk c.rows (tileRows k.x ta.toNat c.rows))
          { rows := kk, rowBytes := c.rows * (f.bits / 8), fmt := c.fmt, scale := 0 } }
/-- TTR. -/
def execTtr (i : Issue) (td ta : BitVec 3) (s : State) := issueSlot s i (.ttr i td ta) (defTtr i td ta)

end Sys2Proof.Machine
end

