-- ==== Sys2Proof/Machine/Tile.lean ====
section
/-! DEFINITION. The L and T slots (R108 to R113, R205 to R208, R216, R376 to R381, R437, R438): local memory, global rows and vectors, and PUT. -/

namespace Sys2Proof.Machine

/-! ## Local-memory operands (R108 to R112) -/

/-- The fields of a stride descriptor (R108). -/
def sdStride (w : Word) : Nat := fld w.toNat 0 13
def sdOffset (w : Word) : Nat := fld w.toNat 16 13
def sdStep (w : Word) : Nat := fld w.toNat 32 13

/-- The start unit of an operand (R109, R110). -/
def startUnit (x : Ctx) (o : LmOp) : Nat := o.lm13.toNat + (if o.mode = 0 then 0 else sdOffset (x.sdesc o.sd.toNat))

/-- row_unit[i] (R110, R111). -/
def rowUnit (x : Ctx) (o : LmOp) (i : Nat) : Nat := (startUnit x o + i * sdStride (x.sdesc o.sd.toNat)) % 8192

/-- scale_unit of an operand of `rows` rows (R110). -/
def scaleUnit (x : Ctx) (o : LmOp) (rows : Nat) : Nat := (rowUnit x o (rows - 1) + 1) % 8192

/-- The one unit of VLD and VST. -/
def oneUnit (x : Ctx) (o : LmOp) : Nat := startUnit x o % 8192

/-- The reserved address mode (R109). -/
def modeCheck (o : LmOp) : Option Nat := if o.mode = 3 then some 1 else none

/-- The update of mode 0b10, a fixed result of latency 1 that writes the whole descriptor (R109, R112). -/
def sdUpdate (k : Iss) (slot : Slot) (o : LmOp) (m : Mod) : Mod :=
  if o.mode = 2 then
    let w := k.x.sdesc o.sd.toNat
    land m k.th k.cyc 1 slot k.pc (.sd o.sd.toNat (setFld w 16 13 ((sdOffset w + sdStep w) % 8192)))
  else m

/-- The units of a tile operand: rows, then the scale unit where there is one. -/
def tileUnits (x : Ctx) (o : LmOp) (rows : Nat) (scale : Bool) : List Nat :=
  (List.range rows).map (rowUnit x o) ++ (if scale then [scaleUnit x o rows] else [])

/-- ILLEGAL 0x6 of a confined core: a unit outside the context's quarter (R343). -/
def quarterFault (k : Iss) (slot : Slot) (units : List Nat) : Option Flt :=
  if (core k.m (k.th / 4)).conf && !units.all (fun u => inQuarter k.th (64 * u) 64) then some (syncFault slot 0x21 6 0) else none

/-- The banks counted for a tile operand (R379): two rows a cycle, the scale unit in the last; reads of one unit by one instruction count once. -/
def tileBanks (x : Ctx) (o : LmOp) (rows : Nat) (scale reads : Bool) : List (Nat × Nat) :=
  let last := ceilDiv rows 2 - 1
  (List.range (ceilDiv rows 2)).flatMap (fun c =>
    let us := ((if 2 * c < rows then [rowUnit x o (2 * c)] else []) ++ (if 2 * c + 1 < rows then [rowUnit x o (2 * c + 1)] else []) ++
      (if scale && c == last then [scaleUnit x o rows] else []))
    (if reads then us.eraseDups else us).map (fun u => (c, u % 16)))

/-- `n` bytes of a unit as an own read finds them (R377, R388). -/
def readUnit (m : Mod) (k : Iss) (slot : Slot) (u at_ n : Nat) : Mod × List Byte := ownRead m k.th slot k.pc (lmAddr (k.th / 4) (64 * u + at_)) n

/-! ## TLL and VLD -/

/-- The LM ranges that TLL reads: each row, and the scale bytes of each row where there are some (R205). -/
def tllRanges (k : Iss) (o : LmOp) (cfg : TileCfg) : List (Nat × Nat) :=
  (List.range cfg.rows).map (fun i => (lmAddr (k.th / 4) (64 * rowUnit k.x o i), cfg.rowBytes)) ++
  (if cfg.scale = 0 then [] else (List.range cfg.rows).map (fun i => (lmAddr (k.th / 4) (64 * scaleUnit k.x o cfg.rows + 4 * i), cfg.scale)))

/-- The rows that TLL reads at issue (R205). -/
def tllRows (k : Iss) (o : LmOp) (cfg : TileCfg) (m : Mod) : Mod × List RowWrite :=
  (ownReads m k.th .l k.pc (tllRanges k o cfg),
   (List.range cfg.rows).map (fun i =>
     let sc := if cfg.scale = 0 then [] else ownData m (lmAddr (k.th / 4) (64 * scaleUnit k.x o cfg.rows + 4 * i)) cfg.scale
     wholeRow i { data := ofBytes (ownData m (lmAddr (k.th / 4) (64 * rowUnit k.x o i)) cfg.rowBytes), scale := ofBytes sc }))

def defTll (i : Issue) (t : BitVec 3) (o : LmOp) : SlotDef :=
  { slot := .l, guard := i.guard, tregs := [t.toNat], illegal := modeCheck o
    fault := fun k => let c := k.x.tconf t.toNat; quarterFault k .l (tileUnits k.x o c.rows (c.scale != 0))
    banks := fun k => let c := k.x.tconf t.toNat; tileBanks k.x o c.rows (c.scale != 0) true
    eff := fun k m =>
      let c := k.x.tconf t.toNat
      match tllRows k o c m with
      | (m, rows) => sdUpdate k .l o (land m k.th k.cyc (ceilDiv c.rows 2) .l k.pc (.tile t.toNat rows)) }
/-- TLL. -/
def execTll (i : Issue) (t : BitVec 3) (o : LmOp) (s : State) := issueSlot s i (.tll i t o) (defTll i t o)

def defVld (i : Issue) (d : Spec) (o : LmOp) : SlotDef :=
  { slot := .l, guard := i.guard, vregs := regsOf [d], illegal := orElse (specCheck [] [d]) (modeCheck o)
    fault := fun k => quarterFault k .l [oneUnit k.x o]
    banks := fun k => [(0, oneUnit k.x o % 16)]
    eff := fun k m =>
      match readUnit m k .l (oneUnit k.x o) 0 64 with
      | (m, b) => sdUpdate k .l o (land m k.th k.cyc 3 .l k.pc (.v d.toNat (vecOf b) (~~~(0 : Vec)))) }
/-- VLD. -/
def execVld (i : Issue) (d : Spec) (o : LmOp) (s : State) := issueSlot s i (.vld i d o) (defVld i d o)

/-! ## TSL, VST and ACCST -/

/-- Bytes from an LM byte address on, with their addresses. -/
def lmBytes (at_ : Nat) (d : List Byte) : List (Nat × Byte) := ((List.range d.length).zip d).map (fun p => (at_ + p.1, p.2))

/-- The bytes that rows put into LM: in ascending order, a later row's bytes replacing those of an earlier one (R206, R216, R381). -/
def rowBytesOut (x : Ctx) (o : LmOp) (rb sc : Nat) (rows : List TRow) : List (Nat × Byte) :=
  let n := rows.length
  let all := ((List.range n).zip rows).flatMap (fun p => lmBytes (64 * rowUnit x o p.1) (toBytes rb p.2.data))
  let scales := if sc = 0 then [] else ((List.range n).zip rows).flatMap (fun p => lmBytes (64 * scaleUnit x o n + 4 * p.1) (toBytes sc p.2.scale))
  (all ++ scales).foldl (fun t p => tblPut t p.1 p.2) []

def defTsl (i : Issue) (t : BitVec 3) (o : LmOp) : SlotDef :=
  { slot := .t, guard := i.guard, tregs := [t.toNat], illegal := modeCheck o, fileReads := 1
    fault := fun k => let c := k.x.tconf t.toNat; quarterFault k .t (tileUnits k.x o c.rows (c.scale != 0))
    banks := fun k => let c := k.x.tconf t.toNat; tileBanks k.x o c.rows (c.scale != 0) false
    eff := fun k m =>
      let c := k.x.tconf t.toNat
      let m := tileUe m k .t t.toNat
      sdUpdate k .t o (land m k.th k.cyc (ceilDiv c.rows 2) .t k.pc (.lm (rowBytesOut k.x o c.rowBytes c.scale (tileRows k.x t.toNat c.rows)))) }
/-- TSL. -/
def execTsl (i : Issue) (t : BitVec 3) (o : LmOp) (s : State) := issueSlot s i (.tsl i t o) (defTsl i t o)

def defVst (i : Issue) (v : Spec) (o : LmOp) : SlotDef :=
  { slot := .t, guard := i.guard, vregs := regsOf [v], illegal := orElse (specCheck [] [v]) (modeCheck o)
    fault := fun k => quarterFault k .t [oneUnit k.x o]
    banks := fun k => [(0, oneUnit k.x o % 16)]
    eff := fun k m => sdUpdate k .t o (land m k.th k.cyc 2 .t k.pc (.lm (lmBytes (64 * oneUnit k.x o) (vecBytes (k.x.vreg v.toNat))))) }
/-- VST. -/
def execVst (i : Issue) (v : Spec) (o : LmOp) (s : State) := issueSlot s i (.vst i v o) (defVst i v o)

def defAccst (i : Issue) (acc : BitVec 2) (o : LmOp) (fmt : BitVec 4) (rnd : BitVec 2) (half : Bool) : SlotDef :=
  { slot := .t, guard := i.guard, illegal := orElse (modeCheck o) (if (fmtOf fmt).isNone then some 1 else none)
    fault := fun k =>
      match quarterFault k .t (tileUnits k.x o 16 false) with
      | some f => some f
      | none => readoutFault .t k.x acc.toNat fmt
    banks := fun k => tileBanks k.x o 16 false false
    eff := fun k m => match fmtOf fmt with
      | none => m
      | some f =>
        match readOut k .t m acc.toNat f rnd half with
        | (m, rows, rb) =>
          sdUpdate k .t o (land m k.th k.cyc 8 .t k.pc (.lm (rowBytesOut k.x o rb 0 (rows.map (fun d => { data := d, scale := 0 }))))) }
/-- ACCST: 16 rows, no scale unit. -/
def execAccst (i : Issue) (acc : BitVec 2) (o : LmOp) (fmt : BitVec 4) (rnd : BitVec 2) (half : Bool) (s : State) :=
  issueSlot s i (.accst i acc o fmt rnd half) (defAccst i acc o fmt rnd half)

/-! ## TLG and TSG (R207, R208, R320 to R322) -/

/-- The steps of a TLG or TSG: its rows, and the scale block where there is one (R321). -/
def tileSteps (c : TileCfg) : Nat := c.rows + b1 (c.scale != 0)

/-- The job address of a step (R207). -/
def stepAddr (base stride : Word) (i : Nat) : Word := base + w64 i * stride

/-- The bytes of a step. -/
def stepSize (c : TileCfg) (i : Nat) : Nat := if i < c.rows then c.rowBytes else 4 * c.rows

/-- Does a step reach the core's own LM outside the context's quarter (R343)? -/
def stepOut (k : Iss) (t : Nat) (base stride : Word) (i : Nat) : Bool :=
  match (xlate k.m (k.th / 4) k.x.xbase (stepAddr base stride i)).2 with
  | .here a => confinedOut k.m k.th a (stepSize (k.x.tconf t) i)
  | _ => false

/-- ALIGN of base or stride; a row in the core's own LM outside the quarter (R207, R343). -/
def rowsFault (k : Iss) (slot : Slot) (t : Nat) (base stride : Word) : Option Flt :=
  if base.toNat % 64 != 0 || stride.toNat % 64 != 0 then some (syncFault slot 0x25 2 base)
  else if (List.range (tileSteps (k.x.tconf t))).any (stepOut k t base stride) then some (syncFault slot 0x21 6 0)
  else none

/-- The walks of the rows of a bundle that takes the fault: those up to the first row outside the quarter (R479, R488). -/
def rowsWalk (k : Iss) (t : Nat) (base stride : Word) (m : Mod) : Mod :=
  let l := List.range (tileSteps (k.x.tconf t))
  ((l.takeWhile (fun i => !stepOut k t base stride i)) ++ (l.find? (stepOut k t base stride)).toList).foldl
    (fun m i => faultWalk k (stepAddr base stride i) 1 m) m

/-- The access of a step, from the job address on. -/
def stepAccess (m : Mod) (k : Iss) (slot : Slot) (kind : AccKind) (ja : Word) (size i : Nat) : Mod × Access :=
  match xlate m (k.th / 4) (ctx m k.th).xbase ja with
  | (m, x) => (m, { mkAccess m k.th slot kind ja x size with step := i, bundle := k.pc })

/-- The bytes that a step of TSG writes: the row, or every row's scale bytes (R207). -/
def stepBytes (x : Ctx) (t : Nat) (c : TileCfg) (i : Nat) : List Byte :=
  let rows := tileRows x t c.rows
  if i < c.rows then (rows.drop i).head?.elim [] (fun r => toBytes c.rowBytes r.data)
  else rows.flatMap (fun r => sliceBytes (toBytes c.scale r.scale) 0 4)

def defTlg (i : Issue) (t : BitVec 3) (base stride : Spec) : SlotDef :=
  { slot := .l, guard := i.guard, illegal := specCheck [] [base, stride], sregs := regsOf [base, stride], tregs := [t.toNat]
    fault := fun k => rowsFault k .l t.toNat (k.s .l base) (k.s .l stride)
    onFault := fun k m => if (rowsFault k .l t.toNat (k.s .l base) (k.s .l stride)).any (fun f => f.code == 0x21) then rowsWalk k t.toNat (k.s .l base) (k.s .l stride) m else m
    hold := some {
      kind := fun k => .tlg t.toNat (k.x.tconf t.toNat) (k.s .l base) (k.s .l stride)
      start := fun k from_ m =>
        let c := k.x.tconf t.toNat
        if tileSteps c ≤ from_ then finishHold m k.th
        else (List.range (tileSteps c - from_)).foldl (fun m j =>
          match stepAccess m k .l .tlgRow (stepAddr (k.s .l base) (k.s .l stride) (from_ + j)) (stepSize c (from_ + j)) (from_ + j) with
          | (m, a) => addAccess m { a with dest := .tile t.toNat (from_ + j) }) m } }
/-- TLG: every step is requested; TLG_ROW_ARRIVAL writes it. -/
def execTlg (i : Issue) (t : BitVec 3) (base stride : Spec) (s : State) := issueSlot s i (.tlg i t base stride) (defTlg i t base stride)

def defTsg (i : Issue) (t : BitVec 3) (base stride : Spec) : SlotDef :=
  { slot := .t, guard := i.guard, illegal := specCheck [] [base, stride], sregs := regsOf [base, stride], tregs := [t.toNat], fileReads := 1
    fault := fun k => rowsFault k .t t.toNat (k.s .t base) (k.s .t stride)
    onFault := fun k m => if (rowsFault k .t t.toNat (k.s .t base) (k.s .t stride)).any (fun f => f.code == 0x21) then rowsWalk k t.toNat (k.s .t base) (k.s .t stride) m else m
    hold := some {
      kind := fun k => .tsg t.toNat (k.x.tconf t.toNat) (k.s .t base) (k.s .t stride)
      start := fun k from_ m =>
        let c := k.x.tconf t.toNat
        if tileSteps c ≤ from_ then finishHold m k.th
        else (List.range (tileSteps c - from_)).foldl (fun m j =>
          match stepAccess m k .t .tsgRow (stepAddr (k.s .t base) (k.s .t stride) (from_ + j)) (stepSize c (from_ + j)) (from_ + j) with
          | (m, a) => addAccess m { a with data := (stepBytes k.x t.toNat c (from_ + j)).map (fun b => (b, false)) }) (tileUe m k .t t.toNat) } }
/-- TSG: the tile is read at issue; TSG_STEP_COMPLETE completes each step, whose bytes then go into the lines of the core's data cache (R322, R449). -/
def execTsg (i : Issue) (t : BitVec 3) (base stride : Spec) (s : State) := issueSlot s i (.tsg i t base stride) (defTsg i t base stride)

/-! ## VLDG and VSTG -/

def defVldg (i : Issue) (d base : Spec) (imm : BitVec 16) : SlotDef :=
  { slot := .l, guard := i.guard, illegal := specCheck [] [d, base], sregs := regsOf [base], vregs := regsOf [d]
    fault := fun k => accessFault k .l (jobAddr k .l base imm) 64 64 false
    onFault := fun k => faultWalk k (jobAddr k .l base imm) 64
    eff := fun k m =>
      let ja := jobAddr k .l base imm
      match xlate m (k.th / 4) k.x.xbase ja with
      | (m, x) =>
        let m := setCtx (count m (k.th / 4) 35 1) k.th (fun c => { c with pendV := c.pendV ||| BitVec.ofNat 32 (2 ^ d.toNat) })
        let m := issueLoad m k.th { mkAccess m k.th .l .load ja x 64 with dest := .v d.toNat }
        trainStride m k.th k.pc true k.x.xbase ja }
/-- VLDG. -/
def execVldg (i : Issue) (d base : Spec) (imm : BitVec 16) (s : State) := issueSlot s i (.vldg i d base imm) (defVldg i d base imm)

/-- The control-range offset of the STRM_SUBMIT addresses of a context (R411, R495). -/
def submitOffset (th : Nat) : Nat := 0x10000 * (th / 64) + 0x1000 + 0x800 * (th / 4 % 16) + 0x100 + 0x100 * (th % 4)

/-- Does a VSTG submit a descriptor: it names its own context's STRM_SUBMIT address (R411)? -/
def submits (th : Nat) : XRes → Bool
  | .here a => decide (a = 0x700000000000 + submitOffset th)
  | _ => false

def defVstg (i : Issue) (v base : Spec) (imm : BitVec 16) : SlotDef :=
  { slot := .t, guard := i.guard, illegal := specCheck [] [v, base], sregs := regsOf [base], vregs := regsOf [v]
    stall := fun k =>
      if submits k.th (xlate k.m (k.th / 4) k.x.xbase (jobAddr k .t base imm)).2 && decide (16 ≤ k.x.outstanding) then 9 else 0
    fault := fun k => accessFault k .t (jobAddr k .t base imm) 64 64 true
    onFault := fun k => faultWalk k (jobAddr k .t base imm) 64
    eff := fun k m =>
      let ja := jobAddr k .t base imm
      match xlate m (k.th / 4) k.x.xbase ja with
      | (m, x) =>
        let m := count m (k.th / 4) 36 1
        let m := if submits k.th x then setCtx m k.th (fun c => { c with outstanding := c.outstanding + 1 }) else m
        issueStore m k.th { mkAccess m k.th .t .vstore ja x 64 with data := (vecBytes (k.x.vreg v.toNat)).map (fun b => (b, false)) } }
/-- VSTG; one to the context's own STRM_SUBMIT address takes a descriptor credit and submits. -/
def execVstg (i : Issue) (v base : Spec) (imm : BitVec 16) (s : State) := issueSlot s i (.vstg i v base imm) (defVstg i v base imm)

/-! ## PUT (R437, R438) -/

/-- The Footpath tags that threads hold, those of ended threads returned (R332): one for each PUT of which a packet is under way; a second packet, numbered next, carries step 1 (R438). -/
def putTags (m : Mod) (p : Nat → Bool) : Nat :=
  (m.accs.filter (fun a => a.kind == .put && p a.thread.toNat && ownerHere m a && (a.step == 0 || !m.accs.any (fun b => b.id + 1 == a.id && b.kind == .put && b.step == 0)))).length

/-- Does a PUT find a tag within its thread's share (R340, R341, R438)? -/
def putTagFree (m : Mod) (th : Nat) : Bool :=
  let c := core m (th / 4)
  let mine := putTags m (fun t => t == th)
  decide (putTags m (fun t => t / 4 == th / 4) < 64) &&
  (if quarters c then decide (mine < 16) else decide (c.fcap = 0 ∨ 64 < c.fcap.toNat ∨ mine < c.fcap.toNat))

/-- The packets of a PUT: offset and length of each, split at a 256-byte boundary (R438) (log 50, DEDUCED). -/
def putParts (d : Word) (n : Nat) : List (Nat × Nat) :=
  let room := 256 - d.toNat % 256
  if n ≤ room then [(0, n)] else [(0, room), (room, n - room)]

/-- The faults of PUT that its source decides (R343, R437). -/
def putSource (k : Iss) (l : Word) (n : Nat) : Option Flt :=
  let at_ := l.toNat % 2 ^ 19
  if 2 ^ 19 < at_ + n then some (syncFault .t 0x25 0 (w64 at_))
  else if (core k.m (k.th / 4)).conf && !inQuarter k.th at_ n then some (syncFault .t 0x21 6 0)
  else none

/-- The faults of PUT (R343, R437). -/
def putFault (k : Iss) (d l : Word) (n : Nat) : Option Flt :=
  match putSource k l n with
  | some f => some f
  | none => (putParts d n).findSome? (fun p => accessFault k .t (d + w64 p.1) p.2 1 true)

/-- The walks of the packets of a PUT that takes a fault: those up to the first that raises it (R479, R488). -/
def putWalk (k : Iss) (d : Word) (m : Mod) : List (Nat × Nat) → Mod
  | [] => m
  | p :: t =>
    let m' := faultWalk k (d + w64 p.1) 1 m
    if (accessFault k .t (d + w64 p.1) p.2 1 true).isSome then m' else putWalk k d m' t

/-- The bytes a PUT reads. Its read is an own access (R377): an uncorrectable granule is reported and read as zeros, with SRAM_UE for the thread (R388); a poisoned one
travels poisoned and raises nothing (R439) (log 98, DEDUCED). -/
def putBytes (m : Mod) (k : Iss) (at_ n : Nat) : Mod × List (Byte × Bool) :=
  let a := lmAddr (k.th / 4) at_
  let ues := (granulesOf a n).filter (fun g => granuleOf m g == some .ue)
  let d := (List.range n).map (fun i => if granuleOf m (a + i) = some .ue then (0, false) else (m.mem.byte (a + i), byteBad m (a + i)))
  (ownCheck (reportUe (sramCorrect m a n) a n) k.th .t k.pc ues, d)

def defPut (i : Issue) (d l : Spec) (len1 : BitVec 8) : SlotDef :=
  { slot := .t, guard := i.guard, illegal := specCheck [] [d, l], sregs := regsOf [d, l]
    stall := fun k => if putTagFree k.m k.th then 0 else 9
    fault := fun k => putFault k (k.s .t d) (k.s .t l) (len1.toNat + 1)
    onFault := fun k m =>
      if (putSource k (k.s .t l) (len1.toNat + 1)).isSome then m else putWalk k (k.s .t d) m (putParts (k.s .t d) (len1.toNat + 1))
    banks := fun k =>
      let at_ := (k.s .t l).toNat % 2 ^ 19
      unitBanks at_ (len1.toNat + 1) 0
    eff := fun k m =>
      let da := k.s .t d
      let n := len1.toNat + 1
      match putBytes m k ((k.s .t l).toNat % 2 ^ 19) n with
      | (m, bytes) =>
        let parts := putParts da n
        ((List.range parts.length).zip parts).foldl (fun m p =>
          match xlate m (k.th / 4) k.x.xbase (da + w64 p.2.1) with
          | (m, x) =>
            issueStore m k.th { mkAccess m k.th .t .put (da + w64 p.2.1) x p.2.2 with step := p.1, data := (bytes.drop p.2.1).take p.2.2 })
          (count m (k.th / 4) 44 1) }
/-- PUT. -/
def execPut (i : Issue) (d l : Spec) (len1 : BitVec 8) (s : State) := issueSlot s i (.put i d l len1) (defPut i d l len1)

end Sys2Proof.Machine
end

