-- ==== Sys2Proof/Machine/Access.lean ====
section
/-! DEFINITION. Global accesses at their targets (R446 to R463): loads, stores, rows of TLG and TSG (R207, R208, R321), atomics, PUT, submissions of stream descriptors (R411), commits (R596), fills of the data cache (R399 to R404), scrubbers (R390, R493), walks (R478), timeouts (R598, R543), and the hosts' accesses through BAR4 (R542). -/

namespace Sys2Proof.Machine

/-! ## The response of an access -/

/-- A response without data and without error. -/
def okResp : Resp := { status := 0, data := [], poison := false, ue := false }

/-- An access performed, with its response at the issuer (R447). -/
def answered (m : Mod) (id : Nat) (r : Resp) : Mod := accMod m id (fun a => { a with performed := true, answer := some r })

/-- The response of a target to a read. -/
def readResp (status : Byte) (d : List (Byte × Bool)) (ue : Bool) : Resp :=
  { status := status, data := d.map Prod.fst, poison := d.any (fun b => b.2), ue := ue }

/-- A WRITE_ERROR record: a write answered with an error response (R600, R621). -/
def writeError (m : Mod) (a : Access) (status : Byte) : Mod :=
  let j := a.job.toNat
  logEvent m { type := 4, detail := status.toNat, domain := 0, unit := a.thread.toNat, epoch := fld j 16 8, job := fld j 0 16, addr := a.jobAddr,
               w5 := w64 status.toNat }

/-! ## Submissions and commits (R411, R412, R596) -/

/-- The descriptor that a VSTG submits, with what it captured at issue; it takes the next sequence number of its queue (R412, R442). -/
def submitDesc (m : Mod) (a : Access) : Mod :=
  let t := a.thread.toNat
  let d : SDesc := { seq := (ctx m t).seq, words := bytesWords 8 (a.data.map Prod.fst), job := a.job, xbase := a.xbase, rnd := a.rnd, starts := a.starts,
                     thread := some a.thread, record := a.record }
  enqueue (setCtx m t (fun x => { x with seq := x.seq + 1 })) (t / 64) (t % 64) d

/-- Does the access submit a descriptor: a VSTG to its own context's STRM_SUBMIT address (R411)? -/
def Access.submitsDesc (a : Access) : Bool :=
  a.kind == .vstore && a.peer.isNone && submits a.thread.toNat (.here a.addr)

/-- Does the access write a DBG_COMMIT port (R596, R622)? -/
def Access.commits (a : Access) : Bool :=
  a.peer.isNone && (match regionOf a.addr with | .control o => commitPort o | _ => false)

/-- A commit: a VSTG of a thread of CHECKPOINT work to its own port replaces the record of its item (R594, R596). -/
def commitWrite (m : Mod) (a : Access) : Mod :=
  let t := a.thread.toNat
  let d := a.data.map Prod.fst
  let own := decide (a.addr = ctlAddr (0xF80000 + 64 * t))
  match a.item with
  | some i =>
    if a.kind == .vstore && own && fld a.job.toNat 27 2 == 1 && !m.hq.journalClosed then
      (writeLine { m with hq := { m.hq with commits := tblPut m.hq.commits i (vecOf d) } } (journalBase + 0x200000 + 64 * t) 0 d false).1
    else m
  | none => m

/-! ## Performing an access -/

/-- A row of a TSG behind one whose page is not present is not written (R321). -/
def rowBlocked (m : Mod) (a : Access) : Bool :=
  a.kind == .tsgRow && m.accs.any (fun b => b.kind == .tsgRow && b.thread == a.thread && b.gen == a.gen && decide (b.step < a.step) && !b.present)

/-- May the access go to its target now? -/
def mayPerform (m : Mod) (a : Access) : Bool :=
  !a.performed && !a.viaFill && a.present && a.kind != .amo && !accHeld m a && !rowBlocked m a && (a.peer.isNone || !a.sent)

/-- The port of the host window that an access is for, if it is for one of this module. -/
def Access.window (a : Access) : Option Bool :=
  match a.peer, regionOf a.addr with
  | none, .hostWindow p _ => some p
  | _, _ => none

/-- Are all 16,384 tags of the port that a read of host memory would use held by reads that await their completion (R540)? -/
def tagsOut (m : Mod) (a : Access) : Bool :=
  match a.window with
  | none => false
  | some p => !a.sent && a.kind.reads && decide (16384 ≤ (m.accs.filter (fun x => x.window == some p && x.sent && x.answer.isNone)).length)

/-- A read at a target of this module; one through a host window is sent, and `host` answers it. -/
def readHere (m : Mod) (a : Access) (host : Option HostData) : Mod :=
  let first : Mod × TRead := if a.sent then (m, .sent) else readTarget m a.addr a.size a.issuedAt none
  match first with
  | (m, .done st d ue) => answered m a.id (readResp st d ue)
  | (m, .sent) =>
    let m := accMod m a.id (fun x => { x with sent := true })
    match host with
    | none => m
    | some h =>
      match readTarget m a.addr a.size a.issuedAt (some h) with
      | (m, .done st d ue) => answered m a.id (readResp st d ue)
      | (m, .sent) => m

/-- A frame push whose HBM line is bad is refused (R312, R490). -/
def pushRefused (m : Mod) (a : Access) : Bool :=
  a.kind == .framePush && isHbm a.addr && lineBad m (lineOf a.addr) && !fencedAt m a.addr a.issuedAt

/-- A write at a target of this module. -/
def writeHere (m : Mod) (a : Access) : Mod :=
  if pushRefused m a then answered (readLine m (lineOf a.addr)).m a.id { okResp with status := 2, poison := true }
  else if (a.submitsDesc || a.commits) && !fencedAt m a.addr a.issuedAt then
    answered (if a.submitsDesc then submitDesc m a else commitWrite m a) a.id okResp
  else
    match writeTarget m a.addr a.data a.issuedAt with
    | (m, st) => answered m a.id { okResp with status := st }

/-- The packet of an access to a peer (R514): class 2. -/
def accessPacket (a : Access) (peer : BitVec 16) : Packet :=
  if a.kind.writes then wrPacket peer a.addr a.data 2 a.job else rdPacket peer a.addr a.size a.job

/-- An access sent to a peer. -/
def sendAccess (m : Mod) (a : Access) (peer : BitVec 16) (p : Packet) : Mod :=
  sendRequest (accMod m a.id (fun x => { x with sent := true })) (.access a.id) { p with dst := peer }

/-! ## The units of an access (R450) -/

/-- Is the access performed in units of 8 bytes: a PUT, a frame push or a frame read of a memory (R450)? -/
def Access.byUnits (a : Access) : Bool := (a.kind == .put || a.kind == .framePush || a.kind == .frameRead) && inMemory a.addr

/-- Would the target refuse the whole write? -/
def accessRefused (m : Mod) (a : Access) : Bool := pushRefused m a || writeRefused m a.addr a.data a.issuedAt

/-- Does a turn of `n` units perform the access whole? -/
def Access.whole (m : Mod) (a : Access) (n : Nat) : Bool :=
  !a.byUnits || takesWhole m a.addr (max a.size a.data.length) a.issuedAt n a.unitsDone || (a.unitsDone == 0 && a.kind.writes && accessRefused m a)

/-- Some units of a write performed, in ascending order; the access is performed with its last (log 102, DESIGN CHOICE). -/
def writeUnits (m : Mod) (a : Access) (n : Nat) : Mod :=
  match writeOn m a.addr a.data a.issuedAt n a.unitsDone with
  | (m, i) => if unitCount a.addr a.data.length ≤ i then answered m a.id okResp else accMod m a.id (fun x => { x with unitsDone := i })

/-- Some units of a read performed; the access has its answer with the last. -/
def readUnits (m : Mod) (a : Access) (n : Nat) : Mod :=
  match readMore m a.addr a.size a.issuedAt n a.unitsDone a.got a.gotUe with
  | (m, i, d, ue) =>
    if unitCount a.addr a.size ≤ i then answered m a.id (readResp 0 d ue)
    else accMod m a.id (fun x => { x with unitsDone := i, got := d, gotUe := ue })

/-- A row of a TSG that has been written goes into the lines of its core's data cache (R322, R449). -/
def rowCached (m : Mod) (id : Nat) : Mod :=
  match accFind m id with
  | none => m
  | some a => if a.kind == .tsgRow && a.performed && !a.refused && isHbm a.addr then dcUpdate m (a.thread.toNat / 4) a.addr a.data else m

/-- An access performed at a target of this module: all that is left of it, or `units` of its units. One through a host window is transmitted whole. -/
def performHere (m : Mod) (a : Access) (units : Nat) (host : Option HostData) : Mod :=
  if a.whole m units then (if a.kind.writes then rowCached (writeHere m a) a.id else readHere m a host)
  else if a.kind.writes then writeUnits m a units
  else readUnits m a units

/-- An access goes to its target, once program order lets it (R454, R455). -/
def performAccess (m : Mod) (id units : Nat) (host : Option HostData) : Mod :=
  match accFind m id with
  | none => m
  | some a =>
    if !mayPerform m a || tagsOut m a then m
    else
      match a.peer with
      | some p => sendAccess m a p (accessPacket a p)
      | none => performHere m a units host

/-- GLOBAL_ACCESS_PERFORM. -/
def execGlobalAccessPerform (id : Nat) (host : Option HostData) (ups : Turn) (s : State) : Host.Outcome State Fault Refusal :=
  onMesh s (fun m => performAccess (applyUpsets m ups.upsets) id ups.units host)

/-- STRM_SUBMIT: a submitting VSTG reaches its engine (R411). -/
def execStrmSubmit (id : Nat) (s : State) : Host.Outcome State Fault Refusal :=
  onMesh s (fun m => if (accFind m id).elim false Access.submitsDesc then performAccess m id 1 none else m)

/-- DBG_COMMIT_WRITE: a write reaches a commit port (R596). -/
def execDbgCommitWrite (id : Nat) (s : State) : Host.Outcome State Fault Refusal :=
  onMesh s (fun m => if (accFind m id).elim false Access.commits then performAccess m id 1 none else m)

/-! ## Atomics (R144 to R146, R463) -/

/-- The field op of an AMO packet: the operation, and the width as D 0, W 1, H 2 in the bits above it (log 36, DESIGN CHOICE). -/
def amoCode (op : BitVec 4) (size : Nat) : Byte := BitVec.ofNat 8 ((if size = 8 then 0 else if size = 4 then 1 else 2) * 16 + op.toNat)

/-- Does an operation compare (R101)? -/
def amoCompares (op : Nat) : Bool := op == 5

/-- An AMO as a packet: the operand, and for CAS the comparand, eight bytes each (R514). -/
def amoPacket (a : Access) (peer : BitVec 16) : Packet :=
  let b := toBytes 8 (ofBytes (a.data.map Prod.fst))
  let d := if amoCompares a.op.toNat then b ++ wordBytes a.cmp else b
  tagged { emptyPacket with
    dst := peer, len := BitVec.ofNat 9 d.length, cls := 2, type := 3, op := amoCode a.op a.size, k := kOfAddr a.addr, word2 := w64 a.addr, data := d } a.job

/-- An atomic is performed at its target. -/
def performAmo (m : Mod) (id : Nat) : Mod :=
  match accFind m id with
  | none => m
  | some a =>
    if a.kind != .amo || a.performed || accHeld m a || a.sent then m
    else
      match a.peer with
      | some p => sendAccess m a p (amoPacket a p)
      | none =>
        match amoTarget m a.addr a.size a.op.toNat (ofBytes (a.data.map Prod.fst)) a.cmp.toNat a.issuedAt with
        | (m, r) => answered m id r

/-- AMO_PERFORM. -/
def execAmoPerform (id : Nat) (ups : Upsets) (s : State) : Host.Outcome State Fault Refusal := onMesh s (fun m => performAmo (applyUpsets m ups) id)

/-! ## Acknowledgements (R447, R440, R600) -/

/-- Is the acknowledgement of the write awaited by nothing but its fences: a store, or a row or a frame of a thread that no longer waits for it? -/
def acksAlone (m : Mod) (a : Access) : Bool :=
  a.kind == .store || a.kind == .vstore || ((a.kind == .tsgRow || a.kind == .framePush) && !ownerHere m a)

/-- The acknowledgement of a write reaches its issuer. -/
def writeAck (m : Mod) (id : Nat) : Mod :=
  match accFind m id with
  | none => m
  | some a =>
    match a.answer with
    | some r => if !acksAlone m a then m else if r.status = 0 || a.forgotten then accDel m id else writeError (accDel m id) a r.status
    | none => m

/-- WRITE_ACK. -/
def execWriteAck (id : Nat) (s : State) : Host.Outcome State Fault Refusal := onMesh s (fun m => writeAck m id)

/-- A packet of a PUT is acknowledged: its error is counted and reported (R438, R440). -/
def putAcked (m : Mod) (id : Nat) : Mod :=
  match accFind m id with
  | none => m
  | some a =>
    if a.kind != .put then m
    else
      match a.answer with
      | some r => if r.status = 0 || a.forgotten then accDel m id else writeError (count (accDel m id) (a.thread.toNat / 4) 45 1) a r.status
      | none => m

/-- PUT_ACK. -/
def execPutAck (id : Nat) (s : State) : Host.Outcome State Fault Refusal := onMesh s (fun m => putAcked m id)

/-! ## Steps of TLG and TSG (R207, R208, R320, R321) -/

/-- The access of a step of the H instruction that holds a thread. -/
def stepFind (m : Mod) (t step : Nat) (kind : AccKind) : Option Access :=
  m.accs.find? (fun a => a.kind == kind && a.thread.toNat == t && a.gen == (ctx m t).gen && a.step == step)

/-- The hold of a thread changed. -/
def setHold (m : Mod) (t : Nat) (f : Hold → Hold) : Mod := setCtx m t (fun x => { x with hold := x.hold.map f })

/-- A step fails: of several, the first in order counts (R321). -/
def Hold.fail (h : Hold) (step : Nat) (f : Flt) : Hold :=
  match h.failed with
  | some (s, _) => if step < s then { h with failed := some (step, f) } else h
  | none => { h with failed := some (step, f) }

/-- A row of a TLG written: its data, or for the scale step the scale bytes of every row (R205, R207). -/
def stepRows (cfg : TileCfg) (step : Nat) (d : List Byte) : List RowWrite :=
  if step < cfg.rows then
    [{ row := step, data := vecOf (sliceBytes d 0 cfg.rowBytes), mask := ~~~(0 : Vec), scale := if cfg.scale = 0 then some 0 else none }]
  else
    (List.range cfg.rows).map (fun r =>
      { row := r, data := 0, mask := 0, scale := some (BitVec.ofNat 32 (ofBytes (sliceBytes d (4 * r) cfg.scale))) })

/-- A TLG writes rows in the cycle in which its core stands, which a row's arrival does not move (log 113, DESIGN CHOICE): once for the cycle, its write demand and the extension that comes with it are counted, and the tile's write
generation advances (R220, R221, R223, R224). -/
def tlgCycle (m : Mod) (t tile : Nat) : Mod :=
  let c := t / 4
  let cyc := (core m c).cycle
  if ((ctx m t).hold.bind Hold.wroteAt) == some cyc then m
  else
    let w := ((core m c).tileWrites.filter (· == cyc)).length
    let r := if (core m c).tileReads.1 = cyc then (core m c).tileReads.2 else 0
    let m := setCore m c (fun k => { k with tileWrites := k.tileWrites ++ [cyc] })
    let m := setHold m t (fun h => { h with wroteAt := some cyc })
    count (count (bumpTile m t tile) c 25 1) c 26 (portStretch r (w + 1) - portStretch r w)

/-- The rows of a step put into the tile, where they meet a fixed result of the same cycle with haz (R74, R164): the TLG issued later, or in the later slot. -/
def writeStep (m : Mod) (t tile : Nat) (rows : List RowWrite) : Mod :=
  let m := tlgCycle m t tile
  let hit := (landedHere m t (5, tile)).isSome
  setCtx m t (fun c => { rows.foldl (putRow tile) c with tileBad := c.tileBad.filter (· != tile), haz := c.haz || hit })

/-- A failed step becomes the thread's: PAGE_NP a step fault; DATA_POISON a machine check, which leaves the tile's pending bit set (R140, R143, R321, R326). -/
def stepFails (m : Mod) (t tile : Nat) (f : Flt) : Mod :=
  if f.level = 4 then
    raiseCheck (setCtx (setHold m t (fun h => { h with failed := none })) t (fun x => { x with pendT := x.pendT ||| BitVec.ofNat 8 (2 ^ tile) })) t f
  else setCtx m t (fun x => { x with stepFault := some f })

/-- The steps that follow in order complete; a failed one becomes the thread's, and after the last the thread goes on (R208, R320, R321). -/
def settleSteps (m : Mod) (t : Nat) : Nat → Mod
  | 0 => m
  | n + 1 =>
    match (ctx m t).hold with
    | none => m
    | some h =>
      let go (tile : Nat) (cfg : TileCfg) (load : Bool) : Mod :=
        if tileSteps cfg ≤ h.steps then finishHold m t
        else
          match h.failed.filter (fun p => p.1 == h.steps), tblFind h.got h.steps with
          | some p, _ => stepFails m t tile p.2
          | none, none => m
          | none, some d =>
            let m := if load then writeStep m t tile (stepRows cfg h.steps d) else m
            settleSteps (setHold m t (fun h => { h with steps := h.steps + 1, got := tblDel h.got h.steps })) t n
      match h.kind with
      | .tlg tile cfg _ _ => go tile cfg true
      | .tsg tile cfg _ _ => go tile cfg false
      | .evwait _ _ => m

/-- PAGE_NP of a step: 0 for a read, 1 for a write (R139, R321). -/
def stepNotPresent (slot : Slot) (detail : Nat) (a : Access) : Flt := syncFault slot 0x26 detail a.jobAddr

/-- DATA_POISON of a step of TLG (R315, R600). -/
def stepPoison (bundle : Word) (a : Access) (status : Byte) : Flt :=
  { machineCheck 0x31 (slotNum .l) 1 bundle a.jobAddr with status := status }

/-- The response to a step of TLG: its data are held until the earlier steps have completed. -/
def rowAnswered (m : Mod) (t step : Nat) (a : Access) (r : Resp) : Mod :=
  let m := accDel m a.id
  if r.status != 0 || r.poison || r.ue then setHold m t (fun h => h.fail step (stepPoison h.bundle a r.status))
  else setHold m t (fun h => { h with got := tblPut h.got step r.data })

/-- The data of a step of TLG arrive; a target on this module is read now if it has not been. -/
def rowArrives (m : Mod) (t step : Nat) : Mod :=
  match stepFind m t step .tlgRow with
  | none => m
  | some a =>
    let m := if !a.present then setHold (accDel m a.id) t (fun h => h.fail step (stepNotPresent .l 0 a))
      else
        let m := if a.peer.isNone then performAccess m a.id 1 none else m
        match accFind m a.id with
        | none => m
        | some a => match a.answer with
          | none => m
          | some r => rowAnswered m t step a r
    settleSteps m t 18

/-- TLG_ROW_ARRIVAL: at S3 an H instruction stops at its step boundary (R654). -/
def execTlgRowArrival (thread : ThreadId) (step : Nat) (ups : Upsets) (s : State) : Host.Outcome State Fault Refusal :=
  if coresRun s.mod then .next { s with mod := rowArrives (applyUpsets s.mod ups) thread.toNat step } else .next s

/-- A step of TSG has been written at its target; a target on this module is written now if it has not been. An error response completes the step, and is reported (R457, R600). -/
def stepComplete (m : Mod) (t step : Nat) : Mod :=
  match stepFind m t step .tsgRow with
  | none => m
  | some a =>
    if !ownerHere m a then m
    else
      let m := if !a.present then setHold m t (fun h => h.fail step (stepNotPresent .t 1 a))
        else
          let m := if a.peer.isNone then performAccess m a.id 1 none else m
          match accFind m a.id with
          | none => m
          | some a => match a.answer with
            | none => m
            | some r =>
              let m := setHold (accDel m a.id) t (fun h => { h with got := tblPut h.got step [] })
              if r.status = 0 then m else writeError m a r.status
      settleSteps m t 18

/-- TSG_STEP_COMPLETE. -/
def execTsgStepComplete (thread : ThreadId) (step : Nat) (s : State) : Host.Outcome State Fault Refusal :=
  if coresRun s.mod then .next { s with mod := stepComplete s.mod thread.toNat step } else .next s

/-! ## Fills of the data cache (R398 to R404) -/

/-- The loads that a fill serves, when it is the oldest of its line in flight. -/
def fillLoads (m : Mod) (c : Nat) (f : DFill) : List Access :=
  m.accs.filter (fun a => a.viaFill && !a.performed && a.thread.toNat / 4 == c && lineOf a.addr == f.addr && f.closed.elim true (fun n => decide (a.id < n)))

/-- Must the fill wait: a load it serves follows an access to the same bytes that is not performed, not merged in the fill and not served by it; or it would install
a line that an AMO of the core has invalidated and not yet changed (R144, R399, R404, R454)? -/
def fillHeld (m : Mod) (c : Nat) (f : DFill) (loads : List Access) : Bool :=
  loads.any (fun a => m.accs.any (fun b => mustFollow a b && !f.merged.any (fun x => x.id == b.id) && !loads.any (fun x => x.id == b.id))) ||
  (f.closed.isNone && m.accs.any (fun b => b.kind == .amo && !b.performed && b.present && b.peer.isNone && b.thread.toNat / 4 == c && lineOf b.addr == f.addr))

/-- The line of a fill installed: the bytes stored that the read of the line cannot have replace those read; a store into a poisoned line leaves it without data (R399, R404,
R449). -/
def installFill (m : Mod) (c : Nat) (f : DFill) (data : List Byte) (poison : Bool) : Mod :=
  if f.closed.isSome then m
  else
    let late := lateMerges m f.merged
    let m := dcInstall m c f.addr (poison || late.any DMerge.poison) f.prefetch (applyMerges f.addr data late (m.nextAcc + 1))
    if poison && !late.isEmpty then dcInvalidate m c f.addr else m

/-- A line arrives in a core's data cache. -/
def fillArrives (m : Mod) (c line : Nat) : Mod :=
  match fillFind m c line with
  | none => m
  | some f =>
    let loads := fillLoads m c f
    if fillHeld m c f loads then m
    else
      let closeFill (m : Mod) : Mod := setCore m c (fun k => { k with dfills := removeFirst (fun x => x.addr == line) k.dfills })
      match readTarget m line 64 m.now none with
      | (m, .done 0 d _) =>
        let data := d.map Prod.fst
        let poison := d.any (fun b => b.2)
        let late := lateMerges m f.merged
        let m := loads.foldl (fun m a =>
          answered m a.id { status := 0, data := sliceBytes (applyMerges line data late a.id) (a.addr % 64) a.size,
                            poison := poison || late.any (fun x => decide (x.id < a.id) && x.poison), ue := false }) m
        installFill (closeFill m) c f data poison
      | (m, .done st _ _) => closeFill (loads.foldl (fun m a => answered m a.id (errorResp st)) m)
      | (m, .sent) => m

/-- DATA_CACHE_FILL. -/
def execDataCacheFill (core : CoreId) (line : Nat) (ups : Upsets) (s : State) : Host.Outcome State Fault Refusal :=
  onMesh s (fun m => fillArrives (applyUpsets m ups) core.toNat line)

/-! ## Scrubbers (R390, R493) -/

/-- Is the granule in the CM of a cluster, or in the LM or SDM of one of its cores? -/
def scrubbed (q g : Nat) : Bool :=
  match regionOf g with
  | .cm k _ => k == q
  | .lm c _ | .sdm c _ => c / 16 == q
  | _ => false

/-- The patrol scrubber of a cluster reads a granule: corrects it, or reports it. -/
def scrubGranule (m : Mod) (q g : Nat) (up : Option Upset) : Mod :=
  if !scrubbed q g then m
  else
    let g := g / 8 * 8
    let m := match up with
      | some u => applyUpsets m { granules := [(g, u)] }
      | none => m
    sramCorrect (reportUe m g 8) g 8

/-- SRAM_PATROL_SCRUB. -/
def execSramPatrolScrub (cluster : ClusterId) (granule : Nat) (up : Option Upset) (s : State) : Host.Outcome State Fault Refusal :=
  onMesh s (fun m => scrubGranule m cluster.toNat granule up)

/-- The patrol scrubber of a port reads a line: corrects it, or records a new uncorrectable one. -/
def scrubLine (m : Mod) (q line : Nat) (symbols : List (Nat × BitVec 16)) : Mod :=
  let line := lineOf line
  if !isHbm line || (portOf m line).1 != q then m
  else
    let m := applyUpsets m { symbols := symbols.map (fun s => (line, s.1, s.2)) }
    let bad := m.mem.decode line == .uncorrectable
    let known := (cluster m q).ueLines.contains line
    let m := (readLine m line).m
    let m := setCluster m q (fun c => { c with ueLines := if bad then (if known then c.ueLines else c.ueLines ++ [line]) else c.ueLines.filter (· != line) })
    if bad && !known then memCheck m 0 line else m

/-- HBM_PATROL_SCRUB. -/
def execHbmPatrolScrub (port : ClusterId) (line : Nat) (symbols : List (Nat × BitVec 16)) (s : State) : Host.Outcome State Fault Refusal :=
  onMesh s (fun m => scrubLine m port.toNat line symbols)

/-! ## Walks (R478, R479) -/

/-- A translation of a local mapped job address for a core, which fills its TLBs. -/
def walkFor (m : Mod) (c : Nat) (xbase addr : Word) : Mod :=
  if bitOf xbase.toNat 0 && fld addr.toNat 47 17 == 0 then (xlateCore m c xbase addr.toNat).1 else m

/-- TRANSLATION_WALK. -/
def execTranslationWalk (core : CoreId) (xbase addr : Word) (s : State) : Host.Outcome State Fault Refusal := onMesh s (fun m => walkFor m core.toNat xbase addr)

/-! ## Timeouts (R598, R543) -/

/-- An access to a target on this module has had no response for DBG_RECCTL.mto (R598): time moves on to the deadline. Deadlines stand still at S3 and S4 (R654). -/
def meshTimeout (m : Mod) (id : Nat) : Mod :=
  match accFind m id with
  | none => m
  | some a =>
    if a.answer.isSome || a.peer.isSome || !a.present || a.window.isSome || !coresRun m || (a.kind.writes && a.unitsDone != 0) then m
    else
      let at_ := a.issuedAt + 1000 * max 1 m.rcv.mto.toNat + (m.pwr.pausedTotal - a.paused)
      answered (toTime m at_) id (errorResp 5)

/-- A core's instruction fetch has had no response for DBG_RECCTL.mto: DATA_POISON with the status TIMEOUT (R598, R600). -/
def codeTimeout (m : Mod) (c : Nat) : Mod :=
  match (core m c).fetching with
  | none => m
  | some (_, pc) =>
    if !coresRun m then m
    else
      let k := core m c
      let m := toTime m (k.fetchAt + 1000 * max 1 m.rcv.mto.toNat + (m.pwr.pausedTotal - k.fetchPaused))
      fetchPoison (setCore m c (fun k => { k with fetching := none })) c pc 5

/-- A request to a target on this module times out. -/
def requestTimeout (m : Mod) : MeshReq → Mod
  | .access id => meshTimeout m id
  | .chunk q tag => chunkTimeout m q.toNat tag
  | .fetch c => codeTimeout m c.toNat

/-- MESH_TRANSACTION_TIMEOUT. -/
def execMeshTransactionTimeout (req : MeshReq) (s : State) : Host.Outcome State Fault Refusal := .next { s with mod := requestTimeout s.mod req }

/-- A read through a host window has had no completion for 50 ms (R543). -/
def windowTimeout (m : Mod) (id : Nat) : Mod :=
  match accFind m id with
  | none => m
  | some a =>
    match a.window with
    | none => m
    | some p => if a.sent && a.answer.isNone then answered (aerError (toTime m (a.issuedAt + 50000000)) p 14) id (errorResp 2) else m

/-- HOST_WINDOW_READ_TIMEOUT. -/
def execHostWindowReadTimeout (id : Nat) (s : State) : Host.Outcome State Fault Refusal := onMesh s (fun m => windowTimeout m id)

/-! ## The hosts' accesses through BAR4 (R542) -/

/-- A read of module memory for a host: a poisoned or an aborted completion, or the bytes. -/
def barRead (m : Mod) (a n : Nat) : Mod :=
  match readTarget m a n m.now none with
  | (m, .done 0 d _) => { m with answer := .bytes 0 (d.map Prod.fst) (d.any (fun b => b.2)) }
  | (m, _) => { m with answer := .completerAbort }

/-- A write of a host: a poisoned TLP poisons every byte (R491), and writes no register (log 64). -/
def barWrite (m : Mod) (a : Nat) (d : List Byte) (poison : Bool) : Mod :=
  match writeTarget m a (d.map (fun b => (b, poison))) m.now with
  | (m, 0) => { m with answer := .none }
  | (m, _) => { m with answer := .completerAbort }

/-- An access at a module address. -/
def barAccess (m : Mod) (a : Nat) : BarOp → Mod
  | .read n => barRead m a n
  | .write d poison => barWrite m a d poison

/-- A host's access at the module address that its offset in BAR4 is; before READY it is aborted (R542, R667). One that arrives at S4 waits at its port; whether a read waits
so long that it is aborted is free (R656) (log 120, DESIGN CHOICE). -/
def bar4Access (m : Mod) (p : Bool) (a : Nat) (op : BarOp) : Mod :=
  if m.sec.stage != 3 then { m with answer := .completerAbort }
  else
    match regionOf a with
    | .reserved | .hostWindow _ _ => { m with answer := .unsupportedRequest }
    | .control o => if ctlServed m (.host p) o then barAccess m a op else m
    | _ =>
      if m.pwr.state != 0 then { m with answer := .completerAbort }
      else if meshRuns m then (if (ingressOf m a).all (stewardReaches m) then barAccess m a op else m)
      else match op with
        | .read _ => if Config.readAborts m.free then { m with free := m.free + 1, answer := .completerAbort } else { m with free := m.free + 1 }
        | .write _ _ => m

/-- What AER reports of a host's access: a poisoned write, a completer abort or an unsupported request that answers it (R540; log 106, PRESUMED). -/
def barReported (m : Mod) (p : Bool) (op : BarOp) : Mod :=
  let m := match op with
    | .write _ true => aerError m p 12
    | _ => m
  match m.answer with
  | .completerAbort => aerError m p 15
  | .unsupportedRequest => aerError m p 20
  | _ => m

/-- A host's access through BAR4. Nothing answers while the port or the module is held in reset or without power. -/
def bar4 (m : Mod) (p : Bool) (a : Nat) (op : BarOp) : Mod :=
  if !m.pwr.aoOn || m.pwr.down || (portOfHost m p).perst || disabled m 5 then m else barReported (bar4Access { m with answer := .none } p a op) p op

/-- HOST_BAR4_ACCESS. -/
def execHostBar4Access (port : Bool) (addr : Nat) (op : BarOp) (ups : Upsets) (s : State) : Host.Outcome State Fault Refusal :=
  .next { s with mod := bar4 (applyUpsets s.mod ups) port addr op }

end Sys2Proof.Machine
end

