-- ==== Sys2Proof/Machine/UserOp.lean ====
section
/-! DEFINITION. User-defined opcodes (R115, R185 to R194): the evaluation of a decode-table entry's micro-operations, and the command. -/

namespace Sys2Proof.Machine

/-! ## S entries -/

/-- What an execution of an S entry sees: the context, d and the operands at issue, the temporaries, the result, the flags and draws. -/
structure SEnv where
  x : Ctx
  d : Word
  a : Word
  b : Word
  c : Word
  tmp : Tbl Word
  res : Word
  st : RedState

/-- A source specifier of a micro-operation (R190). -/
def SEnv.src (e : SEnv) (r : Nat) : Word :=
  if r < 32 then e.x.sreg r
  else if r = 56 then e.d
  else if r = 57 then e.a
  else if r = 58 then e.b
  else if r = 59 then e.c
  else tblGet 0 e.tmp r

/-- A result written to specifier 56 or to a temporary. -/
def SEnv.put (e : SEnv) (d : Nat) (v : Word) : SEnv := if d = 56 then { e with res := v } else { e with tmp := tblPut e.tmp d v }

/-- An integer micro-operation of the S slot with operands `a` and `b`; predicates are 0 or 1 (R98, R190). -/
def microInt (op : Nat) (a b : Word) : Word :=
  let p (q : Bool) : Word := if q then 1 else 0
  match op with
  | 0x01 => a + b
  | 0x02 => a - b
  | 0x03 => a &&& b
  | 0x04 => a ||| b
  | 0x05 => a ^^^ b
  | 0x06 => opShl a b
  | 0x07 => opShr a b
  | 0x08 => opSra a b
  | 0x0B => p (a == b)
  | 0x0C => p (a != b)
  | 0x0D => p (a.slt b)
  | 0x0E => p (a.ult b)
  | 0x0F => p (a.sle b)
  | 0x10 => p (a.ule b)
  | 0x30 => a * b
  | 0x31 => opMulh false a b
  | 0x32 => opMulh true a b
  | _ => a

/-- The register form of an immediate opcode (R98). -/
def immForm (op : Nat) : Nat :=
  match op with
  | 0x20 => 0x01
  | 0x21 => 0x03
  | 0x22 => 0x04
  | 0x23 => 0x05
  | 0x24 => 0x06
  | 0x25 => 0x07
  | 0x26 => 0x08
  | 0x27 => 0x0B
  | 0x28 => 0x0D
  | _ => 0x0E

/-- A floating micro-operation of the S slot (R99, R100): its result and whether it rounds. -/
def microFp (strict : Bool) (mode : Rnd) (r op m c : Nat) (a b cc : Word) : FRes :=
  let dbl := decide (op < 0x50)
  let f := dblFmt dbl
  let n (x : Word) := fpBits dbl x
  if op = 0x5C then opFcvt strict mode r (c % 16) a
  else
    match op % 16 with
    | 0 => fAdd strict mode r f (bitOf m 0) (n a) (n b)
    | 1 => fMul strict mode r f (bitOf m 1) (n a) (n b)
    | 2 => fFma strict mode r f (bitOf m 1) (bitOf m 0) (n a) (n b) (n cc)
    | 5 => fMinMax strict false f (n a) (n b)
    | 6 => fMinMax strict true f (n a) (n b)
    | _ =>
      let v := fCmp strict f (m % 4) (n a) (n b)
      { bits := b1 v.1, fl := v.2 }

/-- Does a floating micro-operation of the S slot round (R287)? -/
def microRounds (op : Nat) : Bool := op == 0x5C || decide (op % 16 ≤ 2)

/-- One micro-operation of an S entry; `im` is the m field of the instruction (R188, R190). -/
def microS (ent : List Byte) (im : Nat) (e : SEnv) (j : Nat) : SEnv :=
  let u := microOp ent j
  let op := fld u 28 8
  let d := fld u 22 6
  let m := if entryMtake ent j then im else fld u 0 4
  let a := e.src (fld u 16 6)
  let b := e.src (fld u 10 6)
  let c := e.src (fld u 4 6)
  if 0x20 ≤ op ∧ op ≤ 0x29 then e.put d (microInt (immForm op) a (signExt 16 (fld u 0 16)))
  else if op = 0x2A then e.put d (signExt 22 (fld u 0 22))
  else if op = 0x2B then e.put d (opMovk (e.src d) (fld u 16 2) (BitVec.ofNat 16 (fld u 0 16)))
  else if op = 0x0A then e.put d (if e.x.pred (m % 8) then a else b)
  else if op = 0x38 then e.put d (opBfx a (fld u 10 6) (fld u 4 6 + 1) (bitOf m 0))
  else if op = 0x3A then e.put d (opBfi (e.src d) a (fld u 10 6) (fld u 4 6 + 1))
  else if op = 0x3B then e.put d (opClz a)
  else if op = 0x3C then e.put d (opBperm a b c)
  else if 0x40 ≤ op then
    let mode := rndCode (BitVec.ofNat 2 (m / 4)) e.x.rnd
    match stepDraw (microRounds op && decide (mode = .stoch)) e.st with
    | (r, st) =>
      let v := microFp e.x.strict mode r op m (fld u 4 6) a b c
      { e with st := { st with fl := st.fl ||| v.fl } }.put d (w64 v.bits)
  else e.put d (microInt op a b)

/-! ## V entries -/

/-- What an execution of a V entry sees; a mask stands in the low 32 bits (R190). -/
structure VEnv where
  x : Ctx
  d : Vec
  a : Vec
  b : Vec
  c : Vec
  tmp : Tbl Vec
  res : Vec
  st : RedState

/-- A source specifier: `msk` for a mask register. A mask source of 8 to 31 names the register of its low three bits: R190 admits it, and the spec has no such
register (log 93, DESIGN CHOICE). A mask source 57 to 59 reads bits [31:0] of the vector that a, b or c names (log 111, DESIGN CHOICE). -/
def VEnv.src (e : VEnv) (msk : Bool) (r : Nat) : Vec :=
  if r < 32 then (if msk then (e.x.vmask (r % 8)).setWidth 512 else e.x.vreg r)
  else if r = 56 then e.d
  else if r = 57 then e.a
  else if r = 58 then e.b
  else if r = 59 then e.c
  else tblGet 0 e.tmp r

/-- A masked result, merged into what its destination held. -/
def VEnv.put (e : VEnv) (d : Nat) (r : Vec × Vec) : VEnv :=
  if d = 56 then { e with res := merge e.res r.1 r.2 } else { e with tmp := tblPut e.tmp d (merge (tblGet 0 e.tmp d) r.1 r.2) }

/-- A mask result as a vector: its bits and which are written; the rest is zero. -/
def wideMask (r : BitVec 32 × BitVec 32) : Vec × Vec := (r.1.setWidth 512, r.2.setWidth 512 ||| ~~~(0xFFFFFFFF : Vec))

/-- The lane format of a floating opcode of the V slot (R105). -/
def vFmtOf (op : Nat) : FFmt := if op < 0x28 then fp32 else if op < 0x30 then fp64 else bf16

/-- One micro-operation of a V entry. -/
def microV (ent : List Byte) (e : VEnv) (j : Nat) : VEnv :=
  let u := microOp ent j
  let op := fld u 28 8
  let d := fld u 22 6
  let cf := fld u 4 6
  let m := fld u 0 4
  let vm := e.x.vmask (m / 2)
  let z := bitOf m 0
  let act (i : Nat) : Bool := vm.getLsbD i
  let src (r : Nat) : Vec := e.src false r
  let a := src (fld u 16 6)
  let b := src (fld u 10 6)
  let w := (laneWidth (cf % 8)).getD 64
  if op ≤ 0x08 then
    e.put d (maskVec vm z w ((List.range (512 / w)).map (fun i => laneInt2 op w (lane w a i) (lane w b i))) (512 / w))
  else if op = 0x09 then e.put d (maskVec vm z 32 (lanes 32 a) 16)
  else if 0x0B ≤ op ∧ op ≤ 0x0D then e.put d (wideMask (maskBits vm z (512 / w) (fun i => laneCmp op w (lane w a i) (lane w b i))))
  else if op = 0x0E then
    e.put d (wideMask (opVmop (cf % 8) ((e.src true (fld u 16 6)).setWidth 32) ((e.src true (fld u 10 6)).setWidth 32), 0xFFFFFFFF))
  else if op = 0x40 then
    match cvtLanes e.x.strict (rndCode (BitVec.ofNat 2 (fld u 8 2)) e.x.rnd) (fld u 13 3) (fld u 10 3) act a e.st with
    | (l, st) => { e with st := st }.put d (maskVec vm z ((laneWidth (fld u 10 3)).getD 64) l (cvtCount (fld u 13 3) (fld u 10 3)))
  else if op = 0x42 then e.put d (maskVec vm z w (permLanes w a b) (512 / w))
  else
    let f := vFmtOf op
    if op % 8 = 5 then
      match cmpLanes e.x.strict f (cf % 4) act a b e.st with
      | (l, st) => { e with st := st }.put d (wideMask (maskBits vm z (512 / f.width) (fun i => l.getD i false)))
    else
      match fpLanes (op % 8) e.x.strict (rndOf e.x.rnd) f (bitOf cf 0) act a b (src cf) e.st with
      | (l, st) => { e with st := st }.put d (maskVec vm z f.width l (512 / f.width))

/-! ## The instruction -/

/-- The registers that an entry reads by absolute number, scalar or vector. -/
def entryRegs (vslot : Bool) (ent : List Byte) : List Nat :=
  (List.range (entryCount ent)).flatMap (fun j =>
    match uShape vslot (microOp ent j) with
    | none => []
    | some s =>
      let f := uFields (microOp ent j)
      if vslot && fld (microOp ent j) 28 8 == 0x0E then []
      else ((if s.rdA then [f.2.1] else []) ++ (if s.rdB then [f.2.2.1] else []) ++ (if s.rdC then [f.2.2.2] else [])).filter (fun r => decide (r < 32)))

/-- The ILLEGAL of a user-defined instruction: the entry not valid, a specifier the entry does not allow, a nonzero field it does not use (R115, R194). -/
def userIllegal (ent : List Byte) (o : VR) : Option Nat :=
  let fs := [o.a.toNat, o.b.toNat, o.c.toNat]
  let bad (f r : Nat) : Bool := entryUsed ent f && decide (32 ≤ r) && !(entryQwin ent f && decide (r < 48))
  if !entryValid ent then some 4
  else if (List.range 3).any (fun f => bad f (fs.getD f 0)) || (entryKind ent == 0 && decide (32 ≤ o.d.toNat)) then some 2
  else if (List.range 3).any (fun f => !entryUsed ent f && fs.getD f 0 != 0) then some 1
  else none

/-- The fields that an instruction uses. -/
def usedFields (ent : List Byte) (o : VR) : List Spec :=
  (if entryUsed ent 0 then [o.a] else []) ++ (if entryUsed ent 1 then [o.b] else []) ++ (if entryUsed ent 2 then [o.c] else [])

/-- The effect of an S entry. A predicate d read as 56 is zero-extended (log 111, DESIGN CHOICE). -/
def userS (ent : List Byte) (o : VR) (k : Iss) (md : Mod) : Mod :=
  let pd := entryKind ent == 1
  let d0 : Word := if pd then w64 (b1 (k.x.pred (o.d.toNat % 8))) else k.x.sreg o.d.toNat
  let opnd (f : Nat) (r : Spec) : Word := if entryUsed ent f then k.s .s r else 0
  let e0 : SEnv := { x := k.x, d := d0, a := opnd 0 o.a, b := opnd 1 o.b, c := opnd 2 o.c, tmp := [], res := d0, st := redOf md k.th }
  let e := (List.range (entryCount ent)).foldl (microS ent o.m.toNat) e0
  let md := keepDraws md k.th e.st
  let n := entryLat ent
  landFl k (if pd then landP k md n o.d (e.res.getLsbD 0) else landS k md n o.d e.res) n .s e.st.fl

/-- What a temporary holds before a masked write has filled all its lanes: a value the spec leaves open, one for every execution (R302) (log 5, DESIGN CHOICE). -/
def freshTemps : Tbl Vec :=
  (List.range 4).map (fun t => (60 + t, vecOf ((List.range 8).flatMap (fun i => wordBytes (Config.tempWord (8 * t + i))))))

/-- The effect of a V entry: the final write of d is masked at the entry's lane width (R193). A mask d read as 56 is zero-extended (log 111, DESIGN CHOICE). Where the first micro-operation that writes 56 is masked, its inactive
lanes keep d as read at issue: the spec gives them no value (log 94, DESIGN CHOICE). -/
def userV (ent : List Byte) (o : VR) (k : Iss) (md : Mod) : Mod :=
  let mk := entryKind ent == 1
  let d0 : Vec := if mk then (k.x.vmask (o.d.toNat % 8)).setWidth 512 else k.x.vreg o.d.toNat
  let opnd (f : Nat) (r : Spec) : Vec := if entryUsed ent f then k.v r else 0
  let e0 : VEnv := { x := k.x, d := d0, a := opnd 0 o.a, b := opnd 1 o.b, c := opnd 2 o.c, tmp := freshTemps, res := d0, st := redOf md k.th }
  let e := (List.range (entryCount ent)).foldl (microV ent) e0
  let md := keepDraws md k.th e.st
  let n := entryLat ent
  let w := 16 * 2 ^ entryLanew ent
  let vm := vmOf k.x o.m
  let r : Write :=
    if mk then
      let q := maskBits vm (zeroing o.m) (512 / w) (fun i => e.res.getLsbD i)
      .vm (o.d.toNat % 8) q.1 q.2
    else
      let q := maskVec vm (zeroing o.m) w (lanes w e.res) (512 / w)
      .v o.d.toNat q.1 q.2
  landFl k (land md k.th k.cyc n .v k.pc r) n .v e.st.fl

/-- A user-defined instruction under a decode-table entry. -/
def userDef (i : Issue) (vslot : Bool) (ent : List Byte) (o : VR) : SlotDef :=
  let used := usedFields ent o
  let regs := regsOf (used ++ (if entryKind ent == 0 then [o.d] else [])) ++ entryRegs vslot ent
  { slot := if vslot then .v else .s
    guard := i.guard
    illegal := userIllegal ent o
    sregs := if vslot then [] else regs
    vregs := if vslot then regs else []
    wins := winsOf (used.map (fun r => (r, if vslot then 8 else 1)))
    eff := fun k md => if vslot then userV ent o k md else userS ent o k md }

/-- The entry of opcode 0xE0 + `e` of a slot (R185). -/
def entryIndex (vslot : Bool) (e : BitVec 5) : Nat := 32 * b1 vslot + e.toNat

/-- A user-defined instruction as a core sees it in a cycle. -/
def defUserDefinedOpcode (c : Core) (cyc : Nat) (i : Issue) (vslot : Bool) (e : BitVec 5) (o : VR) : SlotDef :=
  userDef i vslot (entryAt c (entryIndex vslot e) cyc) o

/-- USER_DEFINED_OPCODE: opcode 0xE0 + e of the S or the V slot. -/
def execUserDefinedOpcode (i : Issue) (vslot : Bool) (e : BitVec 5) (o : VR) (s : State) : Host.Outcome State Fault Refusal :=
  let b : Bundle := { quiet := false, slots := [.ok (.userDefinedOpcode i vslot e o)] }
  .next { s with mod := issueBundle s.mod i.thread.toNat b [] (fun cyc => [defUserDefinedOpcode (core s.mod (i.thread.toNat / 4)) cyc i vslot e o]) }

end Sys2Proof.Machine
end

