-- ==== Sys2Proof/Machine/Bundle.lean ====
section
/-! DEFINITION. The bundle: its 256 bits decoded into slot commands (R83 to R92, R97 to R115), and the slot that each command is to the core. -/

namespace Sys2Proof.Machine

/-! ## Decoding -/

/-- The guard of 40 slot bits (R89). -/
def guardBits (u : Nat) : Guard := { inv := bitOf u 39, pred := BitVec.ofNat 3 (fld u 36 3) }

/-- A 6-bit register field at a bit position. -/
def sp (u lo : Nat) : Spec := BitVec.ofNat 6 (fld u lo 6)

/-- The fields of the format VR, and of SR (R97, R104). -/
def vrFields (u : Nat) : VR := { d := sp u 22, a := sp u 16, b := sp u 10, c := sp u 4, m := BitVec.ofNat 4 (fld u 0 4) }

/-- The forms of a load by the low opcode bits (R98). -/
def loadForm (n : Nat) : Option LoadForm :=
  match n with
  | 0 => some .b
  | 1 => some .bu
  | 2 => some .h
  | 3 => some .hu
  | 4 => some .w
  | 5 => some .wu
  | 6 => some .d
  | _ => none

/-- The forms of a store. -/
def storeForm (n : Nat) : Option StoreForm :=
  match n with
  | 0 => some .b
  | 1 => some .h
  | 2 => some .w
  | 3 => some .d
  | _ => none

/-- The scalar floating-point opcodes 0x40 to 0x47 and 0x50 to 0x57 (R98, R99). -/
def decodeScalarFp (i : Issue) (dbl : Bool) (op : Nat) (o : VR) : Option Instr :=
  match op with
  | 0 => some (.fadd i dbl o.d o.a o.b o.m)
  | 1 => some (.fmul i dbl o.d o.a o.b o.m)
  | 2 => some (.fma i dbl o.d o.a o.b o.c o.m)
  | 3 => some (.fdiv i dbl o.d o.a o.b o.m)
  | 4 => some (.fsqrt i dbl o.d o.a o.m)
  | 5 => some (.fmin i dbl o.d o.a o.b)
  | 6 => some (.fmax i dbl o.d o.a o.b)
  | _ => some (.fcmp i dbl o.d o.a o.b o.m)

/-- The opcodes of the S slot below 0x40 (R98). -/
def decodeSLow (i : Issue) (u : Nat) (o : VR) : Option Instr :=
  let imm : BitVec 16 := BitVec.ofNat 16 (fld u 0 16)
  match fld u 28 8 with
  | 0x00 => some (.nop i .s)
  | 0x01 => some (.add i o.d o.a (.reg o.b))
  | 0x02 => some (.sub i o.d o.a o.b)
  | 0x03 => some (.and i o.d o.a (.reg o.b))
  | 0x04 => some (.or i o.d o.a (.reg o.b))
  | 0x05 => some (.xor i o.d o.a (.reg o.b))
  | 0x06 => some (.shl i o.d o.a (.reg o.b))
  | 0x07 => some (.shr i o.d o.a (.reg o.b))
  | 0x08 => some (.sra i o.d o.a (.reg o.b))
  | 0x09 => some (.mov i o.d (.reg o.a))
  | 0x0A => some (.sel i o.d o.a o.b o.m)
  | 0x0B => some (.cmpeq i o.d o.a (.reg o.b))
  | 0x0C => some (.cmpne i o.d o.a o.b)
  | 0x0D => some (.cmplt i o.d o.a (.reg o.b))
  | 0x0E => some (.cmpltu i o.d o.a (.reg o.b))
  | 0x0F => some (.cmple i o.d o.a o.b)
  | 0x10 => some (.cmpleu i o.d o.a o.b)
  | 0x20 => some (.add i o.d o.a (.imm imm))
  | 0x21 => some (.and i o.d o.a (.imm imm))
  | 0x22 => some (.or i o.d o.a (.imm imm))
  | 0x23 => some (.xor i o.d o.a (.imm imm))
  | 0x24 => some (.shl i o.d o.a (.imm imm))
  | 0x25 => some (.shr i o.d o.a (.imm imm))
  | 0x26 => some (.sra i o.d o.a (.imm imm))
  | 0x27 => some (.cmpeq i o.d o.a (.imm imm))
  | 0x28 => some (.cmplt i o.d o.a (.imm imm))
  | 0x29 => some (.cmpltu i o.d o.a (.imm imm))
  | 0x2A => some (.mov i o.d (.imm (BitVec.ofNat 22 (fld u 0 22))))
  | 0x2B => some (.movk i o.d o.a imm)
  | 0x30 => some (.mul i o.d o.a o.b)
  | 0x31 => some (.mulh i false o.d o.a o.b)
  | 0x32 => some (.mulh i true o.d o.a o.b)
  | 0x33 => some (.div i false o.d o.a o.b)
  | 0x34 => some (.div i true o.d o.a o.b)
  | 0x35 => some (.rem i false o.d o.a o.b)
  | 0x36 => some (.rem i true o.d o.a o.b)
  | 0x38 => some (.bfx i o.d o.a o.b o.c o.m)
  | 0x3A => some (.bfi i o.d o.a o.b o.c o.m)
  | 0x3B => some (.clz i o.d o.a)
  | 0x3C => some (.bperm i o.d o.a o.b o.c)
  | _ => none

/-- The opcodes of the S slot from 0x70 to 0xDF (R98). -/
def decodeSHigh (i : Issue) (u : Nat) (o : VR) : Option Instr :=
  let imm : BitVec 16 := BitVec.ofNat 16 (fld u 0 16)
  let op := fld u 28 8
  match op with
  | 0x8C => some (.amo i .d o.d o.a o.b o.c o.m)
  | 0x8D => some (.amo i .w o.d o.a o.b o.c o.m)
  | 0x8E => some (.amo i .h o.d o.a o.b o.c o.m)
  | 0x90 => some (.cpre i o.a imm)
  | 0x91 => some (.cinv i o.a imm)
  | 0xA0 => some (.br i (BitVec.ofNat 28 (fld u 0 28)))
  | 0xA1 => some (.call i o.d (BitVec.ofNat 22 (fld u 0 22)))
  | 0xA2 => some (.bri i o.a)
  | 0xA3 => some (.calli i o.d o.a)
  | 0xA4 => some (.loop i o.d (BitVec.ofNat 2 (fld u 20 2)) (BitVec.ofNat 20 (fld u 0 20)))
  | 0xA5 => some (.loopi i (BitVec.ofNat 12 (fld u 16 12)) (BitVec.ofNat 2 (fld u 14 2)) (BitVec.ofNat 14 (fld u 0 14)))
  | 0xB0 => some (.crr i o.d (BitVec.ofNat 12 (fld u 0 12)))
  | 0xB1 => some (.crw i o.d (BitVec.ofNat 12 (fld u 0 12)))
  | 0xB8 => some (.rte i)
  | 0xB9 => some (.wdt i o.a o.b)
  | _ =>
    if 0x70 ≤ op ∧ op ≤ 0x77 then (loadForm (op - 0x70)).map (fun f => .lds i f o.d o.a imm)
    else if 0x78 ≤ op ∧ op ≤ 0x7F then (storeForm (op - 0x78)).map (fun f => .sts i f o.d o.a imm)
    else if 0x80 ≤ op ∧ op ≤ 0x87 then (loadForm (op - 0x80)).map (fun f => .ldg i f o.d o.a imm)
    else if 0x88 ≤ op ∧ op ≤ 0x8B then (storeForm (op - 0x88)).map (fun f => .stg i f o.d o.a imm)
    else none

/-- An S slot (R98); none where the opcode is unassigned. -/
def decodeS (i : Issue) (u : Nat) : Option Instr :=
  let op := fld u 28 8
  let o := vrFields u
  if op < 0x40 then decodeSLow i u o
  else if op < 0x48 then decodeScalarFp i true (op - 0x40) o
  else if op < 0x50 then none
  else if op < 0x58 then decodeScalarFp i false (op - 0x50) o
  else if op = 0x5C then some (.fcvt i o.d o.a o.c o.m)
  else if op < 0xE0 then decodeSHigh i u o
  else some (.userDefinedOpcode i false (BitVec.ofNat 5 op) o)

/-- A V slot (R105). -/
def decodeV (i : Issue) (u : Nat) : Option Instr :=
  let op := fld u 28 8
  let o := vrFields u
  let fp (f : FpFmt) (k : Nat) : Option Instr :=
    match k with
    | 0 => some (.vfadd i f o)
    | 1 => some (.vfmul i f o)
    | 2 => some (.vfma i f o)
    | 3 => some (.vmin i f o)
    | 4 => some (.vmax i f o)
    | 5 => some (.vfcmp i f o)
    | _ => none
  match op with
  | 0x00 => some (.nop i .v)
  | 0x01 => some (.vadd i o)
  | 0x02 => some (.vsub i o)
  | 0x03 => some (.vand i o)
  | 0x04 => some (.vor i o)
  | 0x05 => some (.vxor i o)
  | 0x06 => some (.vshl i o)
  | 0x07 => some (.vshr i o)
  | 0x08 => some (.vsra i o)
  | 0x09 => some (.vmov i o)
  | 0x0A => some (.vbcast i o)
  | 0x0B => some (.vcmpeq i o)
  | 0x0C => some (.vcmplt i o)
  | 0x0D => some (.vcmpltu i o)
  | 0x0E => some (.vmop i o)
  | 0x0F => some (.vms i o)
  | 0x10 => some (.vsm i o)
  | 0x40 => some (.vcvt i o.d o.a (BitVec.ofNat 3 (fld u 13 3)) (BitVec.ofNat 3 (fld u 10 3)) (BitVec.ofNat 2 (fld u 8 2)) o.m)
  | 0x41 => some (.vred i o)
  | 0x42 => some (.vperm i o)
  | 0x48 => some (.vtr i o)
  | 0x49 => some (.trv i o)
  | _ =>
    if 0x20 ≤ op ∧ op < 0x28 then fp .s (op - 0x20)
    else if 0x28 ≤ op ∧ op < 0x30 then fp .d (op - 0x28)
    else if 0x30 ≤ op ∧ op < 0x38 then fp .bf (op - 0x30)
    else if 0xE0 ≤ op then some (.userDefinedOpcode i true (BitVec.ofNat 5 op) o)
    else none

/-- An M slot (R106). -/
def decodeM (i : Issue) (u : Nat) : Option Instr :=
  match fld u 28 8 with
  | 0x00 => some (.nop i .m)
  | 0x01 => some (.tcfg i (BitVec.ofNat 3 (fld u 25 3)) (BitVec.ofNat 4 (fld u 21 4)) (BitVec.ofNat 6 (fld u 15 6)) (BitVec.ofNat 4 (fld u 11 4)) (BitVec.ofNat 3 (fld u 8 3)))
  | 0x02 => some (.acfg i (BitVec.ofNat 2 (fld u 26 2)) (BitVec.ofNat 2 (fld u 24 2)))
  | 0x10 => some (.mma i (BitVec.ofNat 4 (fld u 24 4)) (BitVec.ofNat 2 (fld u 22 2)) (BitVec.ofNat 3 (fld u 19 3)) (BitVec.ofNat 3 (fld u 16 3)))
  | 0x20 => some (.accrd i (BitVec.ofNat 3 (fld u 25 3)) (BitVec.ofNat 2 (fld u 23 2)) (BitVec.ofNat 4 (fld u 19 4)) (BitVec.ofNat 2 (fld u 17 2)) (bitOf u 16))
  | 0x21 => some (.accz i (BitVec.ofNat 2 (fld u 26 2)))
  | 0x30 => some (.tcvt i (BitVec.ofNat 3 (fld u 25 3)) (BitVec.ofNat 3 (fld u 22 3)) (BitVec.ofNat 4 (fld u 18 4)) (BitVec.ofNat 2 (fld u 16 2)))
  | 0x31 => some (.ttr i (BitVec.ofNat 3 (fld u 25 3)) (BitVec.ofNat 3 (fld u 22 3)))
  | _ => none

/-- A local-memory operand whose lm13 field begins at a bit position: sd, mode and lm13 stand together (R113). -/
def lmFields (u lo : Nat) : LmOp :=
  { sd := BitVec.ofNat 3 (fld u (lo + 15) 3), mode := BitVec.ofNat 2 (fld u (lo + 13) 2), lm13 := BitVec.ofNat 13 (fld u lo 13) }

/-- An L slot (R113). -/
def decodeL (i : Issue) (u : Nat) : Option Instr :=
  match fld u 28 8 with
  | 0x00 => some (.nop i .l)
  | 0x01 => some (.tll i (BitVec.ofNat 3 (fld u 25 3)) (lmFields u 7))
  | 0x02 => some (.vld i (sp u 22) (lmFields u 4))
  | 0x08 => some (.tlg i (BitVec.ofNat 3 (fld u 25 3)) (sp u 19) (sp u 13))
  | 0x09 => some (.vldg i (sp u 22) (sp u 16) (BitVec.ofNat 16 (fld u 0 16)))
  | _ => none

/-- A T slot (R113). -/
def decodeT (i : Issue) (u : Nat) : Option Instr :=
  match fld u 28 8 with
  | 0x00 => some (.nop i .t)
  | 0x01 => some (.tsl i (BitVec.ofNat 3 (fld u 25 3)) (lmFields u 7))
  | 0x02 => some (.vst i (sp u 22) (lmFields u 4))
  | 0x03 => some (.accst i (BitVec.ofNat 2 (fld u 26 2)) (lmFields u 8) (BitVec.ofNat 4 (fld u 4 4)) (BitVec.ofNat 2 (fld u 2 2)) (bitOf u 1))
  | 0x08 => some (.tsg i (BitVec.ofNat 3 (fld u 25 3)) (sp u 19) (sp u 13))
  | 0x09 => some (.vstg i (sp u 22) (sp u 16) (BitVec.ofNat 16 (fld u 0 16)))
  | 0x10 => some (.put i (sp u 22) (sp u 16) (BitVec.ofNat 8 (fld u 8 8)))
  | _ => none

/-- A Y slot (R114). -/
def decodeY (i : Issue) (u : Nat) : Option Instr :=
  let ch : BitVec 7 := BitVec.ofNat 7 (fld u 21 7)
  match fld u 28 8 with
  | 0x00 => some (.nop i .y)
  | 0x01 => some (.send i ch (sp u 15) (sp u 9))
  | 0x02 => some (.sendt i ch (sp u 15) (sp u 9) (BitVec.ofNat 3 (fld u 6 3)))
  | 0x03 => some (.commit i ch)
  | 0x08 => some (.qsel i (sp u 22) (sp u 16) (sp u 10) (BitVec.ofNat 4 (fld u 6 4)) (bitOf u 5))
  | 0x10 => some (.fork i (sp u 22) (sp u 16) (sp u 10))
  | 0x11 => some (.join i (sp u 16))
  | 0x12 => some (.exit i)
  | 0x18 => some (.barArrive i (BitVec.ofNat 8 (fld u 20 8)))
  | 0x19 => some (.barWait i (BitVec.ofNat 8 (fld u 20 8)))
  | 0x20 => some (.fenceC i)
  | 0x21 => some (.fenceM i)
  | 0x22 => some (.fenceF i)
  | 0x28 => some (.evwait i (sp u 16) (sp u 10))
  | _ => none

/-- Bits [hi : lo] of a bundle that hold a slot, and its present bit in the header (R84, R85). -/
def slotAt : Slot → Nat × Nat
  | .s => (200, 254)
  | .v => (160, 253)
  | .m => (120, 252)
  | .l => (80, 251)
  | .t => (40, 250)
  | .y => (0, 249)

/-- A present slot decoded; an unassigned opcode is ILLEGAL 0x0 (R86, R87). -/
def decodeSlot (th : Nat) (w : Slot) (u : Nat) : SlotCode :=
  let i : Issue := { thread := BitVec.ofNat 13 th, guard := guardBits u }
  let r := match w with
    | .s => decodeS i u
    | .v => decodeV i u
    | .m => decodeM i u
    | .l => decodeL i u
    | .t => decodeT i u
    | .y => decodeY i u
  match r with
  | some c => .ok c
  | none => .illegal w 0

/-- A bundle decoded: an absent slot is not looked at (R83 to R86). -/
def decodeBundle (th n : Nat) : Bundle :=
  { quiet := bitOf n 255
    slots := [Slot.s, .v, .m, .l, .t, .y].filterMap (fun w =>
      if bitOf n (slotAt w).2 then some (decodeSlot th w (fld n (slotAt w).1 40)) else none) }

/-- The slots that decode alone finds illegal. -/
def Bundle.bad (b : Bundle) : List (Slot × Nat) :=
  b.slots.filterMap (fun c => match c with
    | .illegal w d => some (w, d.toNat)
    | .ok _ => none)

/-! ## The slot of a command -/

/-- The S-slot commands. -/
def slotDefS : Instr → Option SlotDef
  | .nop i w => some (defNop i w)
  | .add i d a b => some (defAdd i d a b)
  | .sub i d a b => some (defSub i d a b)
  | .and i d a b => some (defAnd i d a b)
  | .or i d a b => some (defOr i d a b)
  | .xor i d a b => some (defXor i d a b)
  | .shl i d a b => some (defShl i d a b)
  | .shr i d a b => some (defShr i d a b)
  | .sra i d a b => some (defSra i d a b)
  | .mov i d x => some (defMov i d x)
  | .movk i d h x => some (defMovk i d h x)
  | .sel i d a b m => some (defSel i d a b m)
  | .cmpeq i d a b => some (defCmpeq i d a b)
  | .cmpne i d a b => some (defCmpne i d a b)
  | .cmplt i d a b => some (defCmplt i d a b)
  | .cmpltu i d a b => some (defCmpltu i d a b)
  | .cmple i d a b => some (defCmple i d a b)
  | .cmpleu i d a b => some (defCmpleu i d a b)
  | .mul i d a b => some (defMul i d a b)
  | .mulh i u d a b => some (defMulh i u d a b)
  | .div i u d a b => some (defDiv i u d a b)
  | .rem i u d a b => some (defRem i u d a b)
  | .bfx i d a p n m => some (defBfx i d a p n m)
  | .bfi i d a p n m => some (defBfi i d a p n m)
  | .clz i d a => some (defClz i d a)
  | .bperm i d a b c => some (defBperm i d a b c)
  | .fadd i f d a b m => some (defFadd i f d a b m)
  | .fmul i f d a b m => some (defFmul i f d a b m)
  | .fma i f d a b c m => some (defFma i f d a b c m)
  | .fdiv i f d a b m => some (defFdiv i f d a b m)
  | .fsqrt i f d a m => some (defFsqrt i f d a m)
  | .fmin i f d a b => some (defFmin i f d a b)
  | .fmax i f d a b => some (defFmax i f d a b)
  | .fcmp i f d a b m => some (defFcmp i f d a b m)
  | .fcvt i d a c m => some (defFcvt i d a c m)
  | .lds i f d a x => some (defLds i f d a x)
  | .sts i f d a x => some (defSts i f d a x)
  | .ldg i f d a x => some (defLdg i f d a x)
  | .stg i f d a x => some (defStg i f d a x)
  | .amo i f d a b c m => some (defAmo i f d a b c m)
  | .cpre i a x => some (defCpre i a x)
  | .cinv i a x => some (defCinv i a x)
  | .br i x => some (defBr i x)
  | .call i d x => some (defCall i d x)
  | .bri i a => some (defBri i a)
  | .calli i d a => some (defCalli i d a)
  | .loop i a l e => some (defLoop i a l e)
  | .loopi i n l e => some (defLoopi i n l e)
  | .crr i r n => some (defCrr i r n)
  | .crw i r n => some (defCrw i r n)
  | .rte i => some (defRte i)
  | .wdt i a b => some (defWdt i a b)
  | _ => none

/-- The V-slot commands but the user-defined ones. -/
def slotDefV : Instr → Option SlotDef
  | .vadd i o => some (defVadd i o)
  | .vsub i o => some (defVsub i o)
  | .vand i o => some (defVand i o)
  | .vor i o => some (defVor i o)
  | .vxor i o => some (defVxor i o)
  | .vshl i o => some (defVshl i o)
  | .vshr i o => some (defVshr i o)
  | .vsra i o => some (defVsra i o)
  | .vmov i o => some (defVmov i o)
  | .vbcast i o => some (defVbcast i o)
  | .vcmpeq i o => some (defVcmpeq i o)
  | .vcmplt i o => some (defVcmplt i o)
  | .vcmpltu i o => some (defVcmpltu i o)
  | .vmop i o => some (defVmop i o)
  | .vms i o => some (defVms i o)
  | .vsm i o => some (defVsm i o)
  | .vfadd i f o => some (defVfadd i f o)
  | .vfmul i f o => some (defVfmul i f o)
  | .vfma i f o => some (defVfma i f o)
  | .vmin i f o => some (defVmin i f o)
  | .vmax i f o => some (defVmax i f o)
  | .vfcmp i f o => some (defVfcmp i f o)
  | .vcvt i d a x y r m => some (defVcvt i d a x y r m)
  | .vred i o => some (defVred i o)
  | .vperm i o => some (defVperm i o)
  | .vtr i o => some (defVtr i o)
  | .trv i o => some (defTrv i o)
  | _ => none

/-- The commands of the M, L, T and Y slots. -/
def slotDefM : Instr → Option SlotDef
  | .tcfg i t r b f s => some (defTcfg i t r b f s)
  | .acfg i a ty => some (defAcfg i a ty)
  | .mma i f a x y => some (defMma i f a x y)
  | .accrd i t a f r h => some (defAccrd i t a f r h)
  | .accz i a => some (defAccz i a)
  | .tcvt i d a f r => some (defTcvt i d a f r)
  | .ttr i d a => some (defTtr i d a)
  | .tll i t o => some (defTll i t o)
  | .vld i d o => some (defVld i d o)
  | .tlg i t b s => some (defTlg i t b s)
  | .vldg i d b x => some (defVldg i d b x)
  | .tsl i t o => some (defTsl i t o)
  | .vst i v o => some (defVst i v o)
  | .accst i a o f r h => some (defAccst i a o f r h)
  | .tsg i t b s => some (defTsg i t b s)
  | .vstg i v b x => some (defVstg i v b x)
  | .put i d l n => some (defPut i d l n)
  | .send i c a b => some (defSend i c a b)
  | .sendt i c a b p => some (defSendt i c a b p)
  | .commit i c => some (defCommit i c)
  | .qsel i d a b w r => some (defQsel i d a b w r)
  | .fork i d a b => some (defFork i d a b)
  | .join i a => some (defJoin i a)
  | .exit i => some (defExit i)
  | .barArrive i g => some (defBarArrive i g)
  | .barWait i g => some (defBarWait i g)
  | .fenceC i => some (defFenceC i)
  | .fenceM i => some (defFenceM i)
  | .fenceF i => some (defFenceF i)
  | .evwait i a b => some (defEvwait i a b)
  | _ => none

/-- The slot that a command is to core `c` in a cycle: none for a command of no slot. -/
def slotDef (c : Core) (cyc : Nat) (x : Instr) : Option SlotDef :=
  match x with
  | .userDefinedOpcode i v e o => some (defUserDefinedOpcode c cyc i v e o)
  | _ => match slotDefS x with
    | some d => some d
    | none => match slotDefV x with
      | some d => some d
      | none => slotDefM x

/-- The slots of a bundle in a cycle. -/
def Bundle.defs (b : Bundle) (c : Core) (cyc : Nat) : List SlotDef :=
  b.slots.filterMap (fun k => match k with
    | .ok x => slotDef c cyc x
    | .illegal _ _ => none)

end Sys2Proof.Machine
end

