-- ==== Sys2Proof/Machine/Debug.lean ====
section
/-! DEFINITION. The completion of a core's debug operations (R344 to R348): HALT, RESUME, SAVE with the thread save area, RESTORE, and the others. -/

namespace Sys2Proof.Machine

/-! ## The thread save area (R347) -/

/-- The tile configuration word (R200). -/
def cfgWord (c : TileCfg) : Nat := (c.rows - 1) * 2 ^ 13 + (c.rowBytes - 1) * 2 ^ 7 + c.fmt.toNat * 8 + c.scale

/-- The configuration of a tile configuration word. A saved word that R201 does not allow is taken by its fields as it stands (log 112, DESIGN CHOICE). -/
def cfgOfWord (w : Nat) : TileCfg :=
  { rows := fld w 13 4 + 1, rowBytes := fld w 7 6 + 1, fmt := BitVec.ofNat 4 (fld w 3 4), scale := fld w 0 3 }

/-- The type of an accumulator as a byte. -/
def tyByte : AccTy → Nat
  | .fp32 => 0
  | .int32 => 1
  | .fp64 => 2

/-- The type that a byte names. -/
def tyOfByte (b : Nat) : AccTy := if b = 1 then .int32 else if b = 2 then .fp64 else .fp32

/-- The control registers of the save area, in order; the bypass bit is not saved. -/
def savedRegs (x : Ctx) : List Word :=
  [crStatus { x with bypass := false }, crArith x, x.sr0, x.sr1, w64 x.mask.toNat, x.cause, x.epc, x.ssp, x.vbase, x.tprog, w64 (b1 x.prio), w64 x.job.toNat, x.xbase]

/-- A tile in the save area: the data of its rows, then their scale bytes, 1,088 bytes. -/
def tileBytes (x : Ctx) (t : Nat) : List Byte :=
  (List.range 16).flatMap (fun r => vecBytes (x.tdata t r)) ++ (List.range 16).flatMap (fun r => toBytes 4 (x.tsc t r).toNat)

/-- Zero bytes from one offset to another. -/
def gap (lo hi : Nat) : List Byte := List.replicate (hi - lo) 0

/-- A binding of a queue window as a byte. -/
def windowByte (x : Ctx) (w : Nat) : Byte :=
  match tblFind x.windows w with
  | some q => BitVec.ofNat 8 (128 + q.toNat)
  | none => 0

/-- The 16 KiB of a context's save area. -/
def saveArea (x : Ctx) : List Byte :=
  (List.range 32).flatMap (fun r => wordBytes (x.sreg r)) ++
  (List.range 32).flatMap (fun r => vecBytes (x.vreg r)) ++
  (List.range 8).flatMap (fun r => toBytes 4 (x.vmask r).toNat) ++
  (List.range 8).map (fun r => BitVec.ofNat 8 (b1 (x.pred r))) ++
  (List.range 8).flatMap (fun t => toBytes 4 (cfgWord (x.tconf t))) ++
  (List.range 4).map (fun a => BitVec.ofNat 8 (tyByte (x.aty a))) ++
  gap 0x94C 0x980 ++
  (List.range 8).flatMap (fun r => wordBytes (x.sdesc r)) ++
  (List.range 4).flatMap (fun k => wordBytes (tblGet 0 x.lps k)) ++
  (List.range 4).flatMap (fun k => wordBytes (tblGet 0 x.lpe k)) ++
  (List.range 4).flatMap (fun k => toBytes 8 (tblGet 0 x.lpc k).toNat) ++
  (savedRegs x).flatMap wordBytes ++
  toBytes 8 x.qcount ++
  (List.range 16).map (windowByte x) ++
  toBytes 4 x.pendS.toNat ++ toBytes 4 x.pendV.toNat ++ toBytes 1 x.pendT.toNat ++
  gap 0xAA9 0xAB0 ++
  toBytes 8 (x.mpMask.toNat * 65536 + x.pendInt.toNat) ++
  [BitVec.ofNat 8 x.rotPtr.toNat, BitVec.ofNat 8 x.toll] ++
  gap 0xABA 0xAC0 ++
  toBytes 8 (x.sendBuf.length * 256 + x.sendCh.toNat) ++
  gap 0xAC8 0xB00 ++
  (List.range 4).flatMap (fun i => toBytes 16 (x.sendBuf.getD i 0).toNat) ++
  gap 0xB40 0xC00 ++
  (List.range 8).flatMap (tileBytes x) ++
  (List.range 4).flatMap (fun a => (List.range 256).flatMap (fun c => toBytes 4 (x.acell a c).toNat)) ++
  gap 0x3E00 0x4000

/-- A number of `n` bytes at an offset of a save area. -/
def areaNum (d : List Byte) (off n : Nat) : Nat := ofBytes (sliceBytes d off n)

/-- The entries of a table read from a save area: `n` entries of `size` bytes from `off` on. -/
def areaTbl {α : Type} (d : List Byte) (off size n : Nat) (f : Nat → α) : Tbl α := (List.range n).map (fun i => (i, f (areaNum d (off + size * i) size)))

/-- The rows of the tiles: data. -/
def areaRows (d : List Byte) : Tbl Vec :=
  (List.range 128).map (fun k => (k, vecOf (sliceBytes d (0xC00 + 1088 * (k / 16) + 64 * (k % 16)) 64)))

/-- The rows of the tiles: scale bytes. -/
def areaScales (d : List Byte) : Tbl (BitVec 32) :=
  (List.range 128).map (fun k => (k, BitVec.ofNat 32 (areaNum d (0xC00 + 1088 * (k / 16) + 1024 + 4 * (k % 16)) 4)))

/-- The windows bound. -/
def areaWindows (d : List Byte) : Tbl (BitVec 7) :=
  (List.range 16).filterMap (fun w =>
    let b := areaNum d (0xA90 + w) 1
    if bitOf b 7 then some (w, BitVec.ofNat 7 b) else none)

/-- The bits of cr.cause that can be 1 (R314). -/
def causeMask : Word := 0x00000000FEFFFFFF

/-- A bundle address: bits [4:0] read as zero (R166, R167, R316). -/
def bundleAddr (w : Nat) : Word := w64 w &&& ~~~(0x1F : Word)

/-- The registers of a context as a save area holds them: reserved bits and values that no CRW could write are not taken (R52). -/
def restoreRegs (d : List Byte) (x : Ctx) : Ctx :=
  let r (i : Nat) : Word := w64 (areaNum d (0xA20 + 8 * i) 8)
  let st := (r 0).toNat
  let ar := (r 1).toNat
  { x with
    haz := bitOf st 15, sup := bitOf st 0
    flags := BitVec.ofNat 5 (fld ar 16 5), rnd := if fld ar 4 2 = 3 then x.rnd else BitVec.ofNat 2 (fld ar 4 2), strict := bitOf ar 0
    sr0 := r 2, sr1 := r 3, mask := if fld (r 4).toNat 0 3 ≤ 4 then BitVec.ofNat 3 (r 4).toNat else x.mask
    cause := r 5 &&& causeMask, epc := bundleAddr (r 6).toNat, ssp := r 7, vbase := r 8 &&& ~~~(0x7FF : Word), tprog := r 9 &&& tprogMask, prio := bitOf (r 10).toNat 0
    job := BitVec.ofNat 29 (r 11).toNat, xbase := r 12 &&& xbaseMask }

/-- The context with everything that a save area holds (R347, R348). Tile configurations and accumulator types that no instruction leaves are taken as they stand (log 112, DESIGN CHOICE). -/
def restoreArea (d : List Byte) (now : Nat) (x : Ctx) : Ctx :=
  let x := restoreRegs d x
  { x with
    s := areaTbl d 0 8 32 w64
    v := (List.range 32).map (fun r => (r, vecOf (sliceBytes d (0x100 + 64 * r) 64)))
    vm := areaTbl d 0x900 4 8 (BitVec.ofNat 32)
    p := areaTbl d 0x920 1 8 (fun b => bitOf b 0)
    tcfg := areaTbl d 0x928 4 8 cfgOfWord
    accTy := areaTbl d 0x948 1 4 tyOfByte
    sd := areaTbl d 0x980 8 8 (fun w => w64 w &&& sdMask)
    lps := areaTbl d 0x9C0 8 4 bundleAddr
    lpe := areaTbl d 0x9E0 8 4 bundleAddr
    lpc := areaTbl d 0xA00 8 4 (BitVec.ofNat 32)
    qcount := areaNum d 0xA88 8
    windows := areaWindows d
    pendS := BitVec.ofNat 32 (areaNum d 0xAA0 4), pendV := BitVec.ofNat 32 (areaNum d 0xAA4 4), pendT := BitVec.ofNat 8 (areaNum d 0xAA8 1)
    pendInt := BitVec.ofNat 6 (areaNum d 0xAB0 2), mpMask := BitVec.ofNat 16 (areaNum d 0xAB2 2)
    rotPtr := BitVec.ofNat 7 (areaNum d 0xAB8 1)
    toll := min 4 (fld (areaNum d 0xAB9 1) 0 3), tollAt := now, tollQ := []
    sendCh := BitVec.ofNat 7 (areaNum d 0xAC0 1)
    sendBuf := (List.range (min 4 (fld (areaNum d 0xAC1 1) 0 3))).map (fun i => BitVec.ofNat 128 (areaNum d (0xB00 + 16 * i) 16))
    trow := areaRows d, tscale := areaScales d
    acc := areaTbl d 0x2E00 4 1024 (BitVec.ofNat 32)
    accBad := [], tileBad := [] }

/-- The module address of a context's save area (R345). -/
def saveAt (m : Mod) (t : Nat) : Nat := (core m (t / 4)).saveBase.toNat + 0x4000 * (t % 4)

/-! ## Completion (R344, R346) -/

/-- The operation of a core is over. -/
def dbgEnd (m : Mod) (c : Nat) (status : BitVec 4) : Mod := setCore m c (fun k => { k with dbgBusy := false, dbgOp := none, dbgStatus := status })

/-- HALT at a bundle or step boundary, as an interrupt would: fixed results land, cr.epc names the bundle at which the thread goes on, and cr.tprog tells the progress
of an H instruction (R231, R310, R320, R346) (log 34, DEDUCED). It is a switch point of the current thread (R335). -/
def haltThread (m : Mod) (t : Nat) : Mod :=
  let m := dropRows m t
  let m := advance m (t / 4) (settledAt (ctx m t) (core m (t / 4)).cycle)
  leaveTurn (setCtx m t (fun x =>
    let tp := entryTprog x
    { leaveWait x with
      halted := true, pc := resumePc x, epc := resumePc x, tprog := tp, qcount := 0, resume := if bitOf tp.toNat 63 then some tp else none, stepFault := x.stepFault })) t

/-- Is the thread at a boundary where it can halt? -/
def canHalt (m : Mod) (t : Nat) : Bool := (ctx m t).entry.isNone && (ctx m t).rteAt.isNone && rowsSettled m t && coresRun m

/-- May the state of a halted context be saved: its results have arrived, and its messages have left the Toll queue (R346)? -/
def canSave (m : Mod) (t : Nat) : Bool :=
  !m.accs.any (fun a => (a.kind == .load || a.kind == .amo) && a.thread.toNat == t && a.gen == (ctx m t).gen) &&
  !(ctx m t).tollQ.any (fun c => c.kind == .msg)

/-- The accumulators of a context, each FP64 pair once, that hold a cell whose parity fails: a save reads every cell (R209, R248). -/
def badAccs (x : Ctx) : List Nat :=
  (List.range 4).filter (fun a => !(x.aty a == .fp64 && a % 2 == 1) && accParity x (x.aty a) a (fun _ _ => true))

/-- The context as a save reads it: the poison value in every cell of an accumulator whose parity fails (R248). -/
def savedCtx (x : Ctx) : Ctx :=
  (badAccs x).foldl (fun y a =>
    (accMembers (x.aty a) a).foldl (fun y b =>
      { y with acc := (List.range 256).foldl (fun tb c => tblPut tb (256 * b + c) (poisonWord (x.aty a) (b % 2 == 1))) y.acc }) y) x

/-- A parity failure that a context save meets: counted, and a MAC_CHECK that the thread takes before it issues another bundle; the frame names the bundle
at which the thread stands, and no slot (R249, R250, R313). -/
def saveChecks (m : Mod) (t : Nat) : Mod :=
  (badAccs (ctx m t)).foldl (fun m a => raiseCheck (count m (t / 4) 34 1) t (machineCheck 0x30 7 (4 + a) (resumePc (ctx m t)) 0)) m

/-- SAVE writes the area; the status says whether it could. -/
def saveThread (m : Mod) (c t : Nat) : Mod :=
  match writeMany (saveChecks m t) (saveAt m t) (clean (saveArea (savedCtx (ctx m t)))) with
  | (m, st) => dbgEnd m c (if st = 0 then 0 else 2)

/-- RESTORE makes a free context live and halted, with a new generation (R346, R347, R348). It goes on at the bundle that cr.epc names (log 34, DEDUCED), in
double-fault state where cr.cause.df is 1 and cr.mask is 4 (log 86, DESIGN CHOICE). -/
def restoreThread (m : Mod) (c t : Nat) : Mod :=
  if !isFree m t then dbgEnd m c 1
  else
    match readMany m (saveAt m t) 0x4000 with
    | (m, st, d) =>
      if st != 0 || d.any (fun b => b.2) then dbgEnd m c 2
      else
        let m := setCtx m t (fun x =>
          let y := restoreArea (d.map Prod.fst) m.tb.ticks
            { Ctx.reset t with
              bypass := x.bypass, starts := x.starts, ctrs := x.ctrs, seq := x.seq, outstanding := x.outstanding, barmem := x.barmem, arrived := x.arrived,
              eps := x.eps }
          { y with
            live := true, halted := true, gen := x.gen + 1, pc := y.epc, dbl := bitOf y.cause.toNat 31 && y.mask == 4, dblEpc := y.epc
            stdHandler := y.vbase == Config.standardHandler, resume := if bitOf y.tprog.toNat 63 then some y.tprog else none })
        dbgEnd ((List.range 8).foldl (fun m k => bumpTile m t k) (touchTile m (t / 64))) c 0

/-- RESUME: the context is ready, and the watchdogs of a core with no other running context count from now on; the WAITDOG has stood at zero while it was
halted (R350). -/
def resumeThread (m : Mod) (c t : Nat) : Mod :=
  let m := if (runningThreads m c).isEmpty then wakeCore m c else setCore m c (fun k => { k with wdFrom := k.cycle })
  dbgEnd (setCtx m t (fun x => { x with halted := false })) c 0

/-- The operation in progress completes where it can; a HALT or RESUME not at S3 (R654). -/
def dbgComplete (m : Mod) (c : Nat) : Mod :=
  match (core m c).dbgOp with
  | none => m
  | some o =>
    let t := 4 * c + o.ctx.toNat
    let x := ctx m t
    match o.op.toNat with
    | 1 => if !x.live then dbgEnd m c 1 else if canHalt m t then dbgEnd (haltThread m t) c 0 else m
    | 2 => if !x.live then dbgEnd m c 1 else if coresRun m then resumeThread m c t else m
    | 3 => if !x.live then dbgEnd m c 1 else if canSave m t then saveThread m c t else m
    | 4 => restoreThread m c t
    | 5 => if x.live && x.starts == o.starts then m else dbgEnd m c 0
    | _ => dbgEnd m c 0

/-- DEBUG_OPERATION_COMPLETE. -/
def execDebugOperationComplete (core : CoreId) (s : State) : Host.Outcome State Fault Refusal := onMesh s (fun m => dbgComplete m core.toNat)

end Sys2Proof.Machine
end

