-- ==== Sys2Proof/Machine/FabricCmd.lean ====
section
/-! DEFINITION. The commands of the fabric (R496 to R539): codewords, replays, links up and down, packets performed and passed on, floods (R529 to R531, R617 to R620), time exchange (R533, R628, R629). -/

namespace Sys2Proof.Machine

/-! ## The end of a reset -/

/-- A reset is complete: its RESET_DONE record, and the result in DBG_RESET where it was started there (R605, R624). -/
def endReset (m : Mod) (d : Domain) : Mod :=
  match m.rcv.resets.find? (fun r => r.d == d && !r.draining) with
  | none => m
  | some r =>
    let m := { m with rcv := { m.rcv with resets := removeFirst (fun r => r.d == d && !r.draining) m.rcv.resets } }
    let m := resetEvent m 5 d
    if r.dbg then { m with rcv := { m.rcv with busy := false, result := if r.escalated then 1 else 0 } } else m

/-! ## The correction of the timebase (R533, R628, R629) -/

/-- May the timebase step (R628)? -/
def mayStep (m : Mod) : Bool := !m.tb.exchanged || (!m.tb.mps.any (fun e => e.2.en) && (jobsInStep m).isEmpty)

/-- The correction of a timebase by an offset in units of 1/16 ns (R628, R629). -/
def correct (m : Mod) (o : Int) : Mod :=
  let ns : Int := (o + 8) / 16
  let near := decide (o.natAbs ≤ 16 * m.tb.stepmin.toNat)
  let run := if o.natAbs ≤ 64 then m.tb.lockRun + 1 else 0
  let t : Timebase := { m.tb with exchanged := true, lockRun := run, locked := decide (16 ≤ run) }
  let t : Timebase :=
    if near then (if m.tb.slew then { t with slewLeft := ns } else t)
    else if mayStep m then { t with time := t.time + wInt ns, slewLeft := 0, slewAt := 0 }
    else { t with unsync := true, slewLeft := ns }
  latchDue { m with tb := t }

/-- Does the module steer its timebase by the offset of a link: the lowest-numbered up link of its parent bundle (R533)? -/
def steers (m : Mod) (l : Nat) : Bool := !m.fab.root && (upLink m m.fab.parent.toNat).map (fun k => 8 * m.fab.parent.toNat + k) == some l

/-- A time reply: flight and offset; an offset of the parent link steers the timebase (log 60, DEDUCED). -/
def takeReply (m : Mod) (l : Nat) (t2 t3 : Int) : Mod :=
  match (linkOf m l).t1 with
  | none => m
  | some t1 =>
    let t4 := time16 m
    let flight := ((t4 - t1) - (t3 - t2)) / 2
    let offset := ((t2 - t1) - (t4 - t3)) / 2
    let m := setLink m l (fun k => { k with t1 := none, flight := BitVec.ofNat 8 (min 255 (flight / 16).toNat) })
    if steers m l then correct { m with fab := { m.fab with offset := BitVec.ofInt 32 offset } } offset else m

/-! ## The link layer (R503 to R508) -/

/-- The codewords up to `ack` are acknowledged; what waits may go (R508). -/
def takeAck (m : Mod) (l : Nat) (ack : Byte) : Mod :=
  let k := linkOf m l
  if !k.window.any (fun w => w.1 == ack) then m
  else
    let rest := (k.window.dropWhile (fun w => w.1 != ack)).drop 1
    let m := setLink m l (fun k => { k with window := rest, ackAt := m.now, replays := 0 })
    pumpAll m l

/-- A replay: every codeword that is not acknowledged is sent again, the first marked REPLAY. Once sixteen in a row have made no progress, the link goes DOWN (R508). -/
def replay (m : Mod) (l : Nat) : Mod :=
  let k := linkOf m l
  match k.window with
  | [] => m
  | w :: rest =>
    if 16 ≤ k.replays then linkDown m l
    else
    let m := setLink m l (fun k =>
      { k with replays := k.replays + 1, retries := satAdd 8 k.retries 1, telReplays := k.telReplays + 1, ackAt := m.now })
    rest.foldl (fun m x => sendKind m l 0 x.1 x.2) (sendKind m l 2 w.1 w.2)

/-- A codeword of a stream is discarded: every later one too until the REPLAY that is expected, and one NAK goes back, whose seq is ignored (R507, R508). -/
def discardCodeword (m : Mod) (l : Nat) : Mod :=
  if (linkOf m l).discarding then m else sendKind (setLink m l (fun k => { k with discarding := true })) l 3 0 []

/-- A codeword that cannot be corrected is counted, in its millisecond too (R505, R532). -/
def countUce (m : Mod) (l : Nat) : Mod :=
  setLink m l (fun k =>
    let fresh := decide (k.uceFrom + 1000000 ≤ m.now)
    { k with uce := satAdd 8 k.uce 1, telUce := k.telUce + 1, uceMs := if fresh then 1 else k.uceMs + 1, uceFrom := if fresh then m.now else k.uceFrom })

/-- A packet of a reserved type is counted in FAB_LSTAT.uce; it is no codeword, and counts towards no limit (R514, R532). -/
def countReserved (m : Mod) (l : Nat) : Mod := setLink m l (fun k => { k with uce := satAdd 8 k.uce 1 })

/-- A packet of a type that is assigned waits in the receive buffer; one of a reserved type is discarded and counted, and its credits return (R510, R514). One of class 0
for this module wakes it (R502). -/
def bufferPacket (m : Mod) (l : Nat) (p : Packet) : Mod :=
  if !typeKnown p.type.toNat then countReserved (returnBuffer m l p) l
  else
    let m := setLink m l (fun k => { k with rxq := k.rxq ++ [p] })
    if p.cls == 0 && p.dst == m.fab.id && p.src != m.fab.id then wakeUp m else m

/-- Credits return for each virtual channel, VC a then VC b of classes 0 to 4 (R510, R516). -/
def returnCredits (m : Mod) (l : Nat) (counts : List (BitVec 16)) : Mod :=
  pumpAll (setLink m l (fun k =>
    { k with credits := (List.range 10).foldl (fun t vc => tblPut t vc (min (bufferOf vc) (creditOf k vc + (counts.getD vc 0).toNat))) k.credits })) l

/-- May a link run in a mode: none wider than FAB_CTL.mode, and full mode with every lane (R501)? -/
def modeAllowed (m : Mod) (l : Nat) (mode : BitVec 2) : Bool :=
  mode != 3 && decide (m.fab.mode.toNat ≤ mode.toNat) && (mode != 0 || (linkOf m l).lanes == 0xF)

/-- A link goes on in a mode that both ends have agreed (R501). -/
def linkMode (m : Mod) (l : Nat) (mode : BitVec 2) : Mod :=
  if modeAllowed m l mode then pumpAll (setLink m l (fun k => { k with mode := mode })) l else m

/-- The peer agrees a mode through LCTRL: this end agrees it in turn, and the link goes on in it (R501, R516; log 103). -/
def takeMode (m : Mod) (l : Nat) (mode : BitVec 2) : Mod :=
  if (linkOf m l).mode = mode then m else if modeAllowed m l mode then linkMode (ctlQueue m l (.mode mode)) l mode else m

/-- A time request: the reply carries the time of its arrival and that of its own departure (R533) (log 41, DESIGN CHOICE). -/
def takeTimeRequest (m : Mod) (l : Nat) : Mod := ctlQueue m l (.reply (time16 m))

/-- A LCTRL taken from the stream: what its subtype says is done (R516). -/
def takeCtl (m : Mod) (l : Nat) (d : List Byte) : Mod :=
  match (d.getD 1 0).toNat with
  | 1 => returnCredits m l ((List.range 10).map (fun i => BitVec.ofNat 16 (ofBytes (sliceBytes d (2 + 2 * i) 2))))
  | 2 => takeTimeRequest m l
  | 3 => takeReply m l (Config.lctrlTimes (d.drop 2)).1 (Config.lctrlTimes (d.drop 2)).2
  | 4 => takeMode m l (Config.lctrlModeOf (d.drop 2))
  | _ => m

/-- The packet space of an accepted codeword continues the stream of packets (R512). -/
def takeBytes (m : Mod) (l : Nat) (d : List Byte) : Mod :=
  let all := (linkOf m l).rxBytes ++ d
  match parseStream all.length all with
  | (ps, rest) =>
    ps.foldl (fun m x => match x with
      | .inl p => bufferPacket m l p
      | .inr c => takeCtl m l c) (setLink m l (fun k => { k with rxBytes := rest }))

/-- A DATA or REPLAY codeword is accepted in sequence, and acknowledged in an IDLE at the latest; or it is discarded (R507, R508). -/
def takeData (m : Mod) (l : Nat) (cw : Codeword) : Mod :=
  let k := linkOf m l
  if cw.seq = k.rxNext ∧ (k.discarding = false ∨ cw.kind = 2) then
    let m := takeBytes (setLink m l (fun k => { k with rxNext := k.rxNext + 1, discarding := false })) l (sliceBytes cw.bytes 0 636)
    sendKind m l 1 0 []
  else discardCodeword m l

/-- A codeword arrives: decoded, checked and accepted (R503 to R508) (log 77, DESIGN CHOICE). -/
def receive (m : Mod) (l : Nat) (cw : Codeword) : Mod :=
  if (linkOf m l).state != 2 then m
  else if 15 < cw.symbolErrors ∨ 4 < cw.kind.toNat then discardCodeword (countUce m l) l
  else if !cwCrcOk cw then discardCodeword m l
  else
    let m := setLink m l (fun k => { k with lastValid := m.now })
    if cw.kind = 4 then m
    else
      let m := takeAck m l cw.ack
      if cw.kind = 3 then replay m l
      else if cw.kind = 1 then m
      else takeData m l cw

/-- CODEWORD_RECEIVE. -/
def execCodewordReceive (link : BitVec 7) (cw : Codeword) (s : State) : Host.Outcome State Fault Refusal := .next { s with mod := receive s.mod link.toNat cw }

/-- An up link's event. -/
def onUp (s : State) (l : BitVec 7) (f : Mod → Nat → Mod) : Host.Outcome State Fault Refusal :=
  .next { s with mod := if (linkOf s.mod l.toNat).state = 2 then f s.mod l.toNat else s.mod }

/-- NAK: what follows `ack` is sent again (R508) (log 7, DESIGN CHOICE). -/
def execNak (link : BitVec 7) (ack : Byte) (s : State) : Host.Outcome State Fault Refusal := onUp s link (fun m l => replay (takeAck m l ack) l)

/-- REPLAY_TIMEOUT: no progress for 2 us with codewords outstanding (R508). -/
def execReplayTimeout (link : BitVec 7) (s : State) : Host.Outcome State Fault Refusal :=
  onUp s link (fun m l => if (linkOf m l).window.isEmpty then m else replay (toTime m ((linkOf m l).ackAt + 2000)) l)

/-- LINK_SILENCE_TIMEOUT: no valid codeword for 100 us (R532). -/
def execLinkSilenceTimeout (link : BitVec 7) (s : State) : Host.Outcome State Fault Refusal :=
  onUp s link (fun m l => linkDown (toTime m ((linkOf m l).lastValid + 100000)) l)

/-- LINK_UCE_LIMIT: more uncorrectable codewords in a millisecond than FAB_CTL.uce (R532). -/
def execLinkUceLimit (link : BitVec 7) (s : State) : Host.Outcome State Fault Refusal :=
  onUp s link (fun m l => if m.fab.uceLimit.toNat < (linkOf m l).uceMs then linkDown m l else m)

/-! ## Training and modes (R501, R532, R604) -/

/-- The mode of a link with some lanes good: full needs all four (R501). -/
def modeFor (m : Mod) (lanes : BitVec 4) : BitVec 2 := if lanes = 0xF then m.fab.mode else if m.fab.mode = 0 then 1 else m.fab.mode

/-- A link completes its training and comes UP: its reset ends, and LINKSTATE is flooded (R532, R604). -/
def trained (m : Mod) (l : Nat) (peer : BitVec 16) (pbundle lanes : BitVec 4) (margin : Byte) : Mod :=
  if (linkOf m l).state != 1 || !mayTrain m l then m
  else
    let m := setLink m l (fun k =>
      { k.fresh 2 with peer := peer, pbundle := pbundle, lanes := lanes, margin := margin, mode := modeFor m lanes, lastValid := m.now, uceFrom := m.now,
                       timeAt := m.now + 1000 })
    let m := { m with fab := { m.fab with lost := m.fab.lost.filter (fun b => b.toNat != l / 8) } }
    let m := endReset m (.link (BitVec.ofNat 7 l))
    let m := noteLinks m m.fab.id.toNat (l / 8) (2 ^ (l % 8)) true
    flood m 0x23 true (2 ^ (l % 8)) (l / 8) m.fab.id.toNat 0 0 0

/-- LINK_TRAINED. -/
def execLinkTrained (link : BitVec 7) (peer : BitVec 16) (pbundle lanes : BitVec 4) (margin : Byte) (s : State) : Host.Outcome State Fault Refusal :=
  .next { s with mod := trained s.mod link.toNat peer pbundle lanes margin }

/-- LANE_FAILURE: a full-mode link goes on at width 1; the lane is reported bad (R501). -/
def execLaneFailure (link : BitVec 7) (lane : BitVec 2) (s : State) : Host.Outcome State Fault Refusal :=
  onUp s link (fun m l => setLink m l (fun k =>
    { k with lanes := k.lanes &&& ~~~(BitVec.ofNat 4 (2 ^ lane.toNat)), mode := if k.mode = 0 then 1 else k.mode }))

/-- LINK_MODE_CHANGE: both ends have agreed a mode, or the idle lanes are retrained for the full one (R501). -/
def execLinkModeChange (link : BitVec 7) (mode : BitVec 2) (s : State) : Host.Outcome State Fault Refusal :=
  onUp s link (fun m l => linkMode m l mode)

/-- LCTRL_CREDIT_RETURN. -/
def execLctrlCreditReturn (link : BitVec 7) (counts : List (BitVec 16)) (s : State) : Host.Outcome State Fault Refusal :=
  onUp s link (fun m l => returnCredits m l counts)

/-! ## Time (R533, R628, R629) -/

/-- TIME_EXCHANGE_TIMER: a time request leaves, every 1 us on each link (R533). Time moves on to the link's next one. -/
def execTimeExchangeTimer (link : BitVec 7) (s : State) : Host.Outcome State Fault Refusal :=
  onUp s link (fun m l =>
    ctlQueue (setLink (toTime m (linkOf m l).timeAt) l (fun k => { k with timeAt := k.timeAt + 1000 })) l .request)

/-- TIME_REQUEST. -/
def execTimeRequest (link : BitVec 7) (s : State) : Host.Outcome State Fault Refusal := onUp s link takeTimeRequest

/-- TIME_REPLY. -/
def execTimeReply (link : BitVec 7) (t2 t3 : Int) (s : State) : Host.Outcome State Fault Refusal := onUp s link (fun m l => takeReply m l t2 t3)

/-! ## Requests and responses (R514 to R518) -/

/-- A request of a job at a stale epoch (R16, R517), or one that meets the fence of the whole module (R618), is answered at once (log 61, DEDUCED). -/
def refusedAt (m : Mod) (p : Packet) : Option Byte :=
  if m.rcv.resets.any (fun r => r.d == .module) then some 1
  else if staleTags m p.job.toNat p.epoch then some 4
  else none

/-- The module address in word 2 of a packet. -/
def packetAt (p : Packet) : Nat := fld p.word2.toNat 0 47

/-- Is the packet of a type, and for this module? -/
def packetFor (m : Mod) (p : Packet) (ty : Byte) : Bool := p.type == ty && p.dst == m.fab.id

/-- A request performed at its target once the mesh runs (R656). -/
def onRequest (s : State) (link : BitVec 7) (p : Packet) (ty : Byte) (ups : Upsets) (f : Mod → Mod) : Host.Outcome State Fault Refusal :=
  if !packetFor s.mod p ty then .next s
  else if !meshRuns s.mod then .next { s with mod := if p.cls == 0 then wakeUp s.mod else s.mod }
  else
    let m := applyUpsets s.mod ups
    match (if m.fab.parts.any (fun x => x.link == link.toNat && x.p == p) then none else refusedAt m p) with
    | some st => .next { s with mod := answerTo (takeRx m link.toNat p) p st false [] }
    | none => .next { s with mod := f m }

/-- How far a packet of a peer has been performed (R450). -/
def partOfPacket (m : Mod) (l : Nat) (p : Packet) : PartPacket :=
  (m.fab.parts.find? (fun x => x.link == l && x.p == p)).getD { link := l, p := p, done := 0, got := [] }

/-- A packet of which no part is performed any more. -/
def forgetPart (m : Mod) (l : Nat) (p : Packet) : Mod := { m with fab := { m.fab with parts := removeFirst (fun x => x.link == l && x.p == p) m.fab.parts } }

/-- A packet of which a part has been performed stays in its buffer. -/
def keepPart (m : Mod) (x : PartPacket) : Mod := let m := forgetPart m x.link x.p; { m with fab := { m.fab with parts := m.fab.parts ++ [x] } }

/-- Does a turn of `n` units perform the transfer of a packet whole? One over a 4 KiB boundary is performed whole (log 102, DESIGN CHOICE). -/
def packetWhole (m : Mod) (p : Packet) (size n i : Nat) : Bool :=
  takesWhole m (packetAt p) size m.now n i || decide (1 < (blocks (packetAt p) size).length)

/-- A WR performed, poisoned where it is marked (R518), `units` units of it. One of class 4 is a stream's, and writes host memory with relaxed ordering (R514, R540). -/
def packetWrite (m : Mod) (l : Nat) (p : Packet) (units : Nat) : Mod :=
  let d := p.data.map (fun b => (b, p.poison))
  let i := (partOfPacket m l p).done
  if packetWhole m p d.length units i || (i == 0 && writeRefused m (packetAt p) d m.now) then
    match writeMany (takeRx m l p) (packetAt p) d (p.cls == 4) with
    | (m, st) => answerTo m p st false []
  else
    match writeOn m (packetAt p) d m.now units i with
    | (m, j) =>
      if unitCount (packetAt p) d.length ≤ j then answerTo (takeRx (forgetPart m l p) l p) p 0 false []
      else keepPart m { link := l, p := p, done := j, got := [] }

/-- WR. -/
def execWr (link : BitVec 7) (p : Packet) (ups : Turn) (s : State) : Host.Outcome State Fault Refusal :=
  onRequest s link p 1 ups.upsets (fun m => packetWrite m link.toNat p ups.units)

/-- An RD performed, `units` units of it, and answered with RDR. One of host memory waits for what the host answers (R543). -/
def packetRead (m : Mod) (l : Nat) (p : Packet) (units : Nat) (host : Option HostData) : Mod :=
  match regionOf (packetAt p) with
  | .hostWindow _ _ =>
    let c : ChunkPart := { off := 0, n := p.len.toNat, peer := none, at_ := packetAt p }
    match engineRead m c host with
    | (m, .done st d _) => answerTo (takeRx m l p) p st (d.any (fun b => b.2)) (d.map Prod.fst)
    | (_, .sent) => m
  | _ =>
    let x := partOfPacket m l p
    if packetWhole m p p.len.toNat units x.done then
      match readMany (takeRx m l p) (packetAt p) p.len.toNat with
      | (m, st, d) => if st = 0 then answerTo m p 0 (d.any (fun b => b.2)) (d.map Prod.fst) else answerTo m p st false []
    else
      match readMore m (packetAt p) p.len.toNat m.now units x.done x.got false with
      | (m, j, d, _) =>
        if unitCount (packetAt p) p.len.toNat ≤ j then answerTo (takeRx (forgetPart m l p) l p) p 0 (d.any (fun b => b.2)) (d.map Prod.fst)
        else keepPart m { x with done := j, got := d }

/-- RD. -/
def execRd (link : BitVec 7) (p : Packet) (host : Option HostData) (ups : Turn) (s : State) : Host.Outcome State Fault Refusal :=
  onRequest s link p 2 ups.upsets (fun m => packetRead m link.toNat p ups.units host)

/-- The width that an AMO packet names (log 36, DESIGN CHOICE). -/
def amoWidth (op : Byte) : Nat := match op.toNat / 16 with | 0 => 8 | 1 => 4 | 2 => 2 | _ => 0

/-- An AMO performed and answered with AMOR: an operation that no AMO has is an error at the target. -/
def packetAmo (m : Mod) (l : Nat) (p : Packet) : Mod :=
  let n := amoWidth p.op
  let op := p.op.toNat % 16
  let m := takeRx m l p
  if n = 0 ∨ 11 ≤ op ∨ (n = 2 ∧ op ≠ 10) ∨ (packetAt p) % n ≠ 0 then answerTo m p 2 false []
  else
    match amoTarget m (packetAt p) n op (ofBytes (sliceBytes p.data 0 n)) (ofBytes (sliceBytes p.data 8 n)) m.now with
    | (m, r) => if r.status = 0 then answerTo m p 0 (r.poison || r.ue) (toBytes 8 (ofBytes r.data)) else answerTo m p r.status false []

/-- AMO_REQUEST. -/
def execAmoRequest (link : BitVec 7) (p : Packet) (ups : Upsets) (s : State) : Host.Outcome State Fault Refusal :=
  onRequest s link p 3 ups (fun m => packetAmo m link.toNat p)

/-- EVADD: the increment is added to the event counter (R570); one of a stale epoch is dropped (R16) (log 37, DEDUCED). -/
def execEvadd (link : BitVec 7) (p : Packet) (s : State) : Host.Outcome State Fault Refusal :=
  if !packetFor s.mod p 7 then .next s
  else
    let m := takeRx s.mod link.toNat p
    .next { s with mod := if staleTags m p.job.toNat p.epoch then m else addEvc m (fld p.word2.toNat 0 16) (BitVec.ofNat 32 (ofBytes (sliceBytes p.data 0 8))) }

/-- A response reaches its requester. -/
def onResponse (s : State) (link : BitVec 7) (p : Packet) (ty : Byte) : Host.Outcome State Fault Refusal :=
  if !packetFor s.mod p ty || !meshRuns s.mod then .next s
  else
    .next { s with mod := endRequest (takeRx s.mod link.toNat p) p.k p.ftag { status := p.status, data := p.data, poison := p.poison, ue := false } }

/-- ACK. -/
def execAck (link : BitVec 7) (p : Packet) (s : State) : Host.Outcome State Fault Refusal := onResponse s link p 0x10
/-- RDR. -/
def execRdr (link : BitVec 7) (p : Packet) (s : State) : Host.Outcome State Fault Refusal := onResponse s link p 0x11
/-- AMOR. -/
def execAmor (link : BitVec 7) (p : Packet) (s : State) : Host.Outcome State Fault Refusal := onResponse s link p 0x12

/-! ## Transit and its limits (R499, R517, R525, R526) -/

/-- Is the packet a flood (R529)? -/
def isFlood (p : Packet) : Bool := decide (0x20 ≤ p.type.toNat ∧ p.type.toNat ≤ 0x23)

/-- A packet for another module goes on through this die's router alone (R499, R525). -/
def passOn (m : Mod) (l : Nat) (p : Packet) : Mod :=
  if p.dst = m.fab.id ∨ isFlood p = true then m
  else if !typeKnown p.type.toNat then countReserved (takeRx m l p) l
  else
    match forward (takeRx m l p) p with
    | (m, true) => m
    | (m, false) => answerDown m p

/-- BYPASS. -/
def execBypass (link : BitVec 7) (p : Packet) (s : State) : Host.Outcome State Fault Refusal := .next { s with mod := passOn s.mod link.toNat p }

/-- TRANSACTION_TIMEOUT: a request has had no response for FAB_CTL.txto (R517). -/
def execTransactionTimeout (ftag : FabTag) (s : State) : Host.Outcome State Fault Refusal :=
  match s.mod.fab.reqs.find? (fun q => q.die == ftag.die && q.ftag == ftag.tag) with
  | none => .next s
  | some q => .next { s with mod := endRequest (toTime s.mod (q.at_ + txtoNs s.mod)) ftag.die ftag.tag (errorResp 5) }

/-- The packet that has waited longest at an output is discarded once it has waited longer than FAB_CTL.stuck (R526). -/
def stuckPacket (m : Mod) (l : Nat) : Mod :=
  match (linkOf m l).txq with
  | [] => m
  | x :: rest =>
    let m := toTime m (x.2 + 1000 * max 1 m.fab.stuck.toNat)
    let m := setLink m l (fun k => { k with txq := rest })
    answerDown { m with fab := { m.fab with stuckCount := satAdd 16 m.fab.stuckCount 1 } } x.1

/-- PACKET_STUCK. -/
def execPacketStuck (link : BitVec 7) (s : State) : Host.Outcome State Fault Refusal := .next { s with mod := stuckPacket s.mod link.toNat }

/-! ## Floods (R529 to R532, R617 to R620) -/

/-- The shared jobs, or the one job, of which a flood names an epoch that is current, aborted as by a ROADBLOCK: ROADBLOCK_RECEIVED is written (R617). -/
def takeRoadblock (m : Mod) (j reason : Nat) (epoch : Byte) (src : Nat) : Mod :=
  let now := (jobFind m j).filter (fun x => x.epoch == epoch)
  let hit := now.any (fun x => isMemberOf m x src)
  let m := now.elim m (fun x => (readMembers m x).1)
  let m := if hit then abortWork m j m.hq.nextRec 7 7 else m
  logEvent m { type := 9, detail := reason, domain := 6, epoch := epoch.toNat, job := j }

/-- A PEER_LOST: every open job with the module among its members is aborted, and endpoints towards it are broken (R619). -/
def takePeerLost (m : Mod) (peer : Nat) : Mod :=
  let m := m.hq.jobs.foldl (fun m e => if isMemberOf m e.2 peer then takeRoadblock m e.1 0 e.2.epoch peer else (readMembers m e.2).1) m
  breakEndpoints (logEvent m { type := 0xA, domain := 6 }) (fun p _ => p.toNat == peer)

/-- A flood delivered to the steward. -/
def stewardFlood (m : Mod) (p : Packet) : Mod :=
  let w := p.word2.toNat
  let subject := fld w 32 16
  let reason := fld w 0 8
  if p.type = 0x20 then
    let m := if reason = 2 then { m with fab := { m.fab with resetRoadblocks := (p.src, m.now) :: m.fab.resetRoadblocks.filter (fun e => e.1 != p.src) } } else m
    takeRoadblock m p.job.toNat reason p.epoch p.src.toNat
  else if p.type = 0x21 then takePeerLost m subject
  else if p.type = 0x22 then
    let id : BitVec 16 := BitVec.ofNat 16 subject
    logEvent { m with fab := { m.fab with readies := (id, m.now) :: m.fab.readies.filter (fun e => e.1 != id) } } { type := 0xB, domain := 6 }
  else
    let m := noteLinks m subject (fld w 48 4) (fld w 52 8) (bitOf w 60)
    if bitOf w 60 then m else breakUnreachable m

/-- The keys that the router of a die holds. -/
def keysOf (m : Mod) (die : Nat) : List FloodEntry := tblGet [] m.fab.keys die

/-- A key entered; with 64 held the oldest gives way (log 62, DESIGN CHOICE). -/
def addKey (m : Mod) (die : Nat) (key : FloodKey) : Mod :=
  let l := keysOf m die
  { m with fab := { m.fab with keys := tblPut m.fab.keys die ((if l.length < 64 then l else l.drop 1) ++ [{ key := key, at_ := m.now }]) } }

/-- The flood packets of other modules that wait at the ports of a die's router, however many ports a packet waits at. -/
def floodsWaiting (m : Mod) (die : Nat) : Nat :=
  let all := (List.range 12).flatMap (fun b => ((linkOf m (8 * b + die)).txq.filter (fun x => isFlood x.1 && x.1.src != m.fab.id)).map (fun x => floodKey x.1))
  (all.foldl (fun l k => if l.contains k then l else k :: l) []).length

/-- A flood goes on over every up bundle but the one it came by (R530). -/
def forwardFlood (m : Mod) (l : Nat) (p : Packet) : Mod :=
  if 16 ≤ floodsWaiting m (l % 8) then { m with fab := { m.fab with floodDrop := satAdd 16 m.fab.floodDrop 1 } }
  else
    ((List.range 12).filter (fun b => b != l / 8)).foldl (fun m b =>
      let k := if (linkOf m (8 * b + l % 8)).state = 2 then some (l % 8) else upLink m b
      match k with
      | some k => portQueue m (8 * b + k) { p with k := BitVec.ofNat 3 k }
      | none => m) m

/-- A flood at a link router (R530): a key already held is discarded; else the steward has it once, and it goes on while hops are left. -/
def takeFlood (m : Mod) (l : Nat) (p : Packet) : Mod :=
  let m := takeRx m l p
  let key := floodKey p
  if (keysOf m (l % 8)).any (fun e => e.key == key) then m
  else
    let m := addKey m (l % 8) key
    let m := if m.fab.stewardKeys.contains key then m
      else stewardFlood { m with fab := { m.fab with stewardKeys := key :: m.fab.stewardKeys } } p
    let hops := fld p.word2.toNat 8 8 - 1
    if hops = 0 then m else forwardFlood m l { p with word2 := setFld p.word2 8 8 hops }

/-- A flood of a type arrives; the steward and the link routers are powered in P2 (R648). -/
def onFlood (s : State) (link : BitVec 7) (p : Packet) (ty : Byte) : Host.Outcome State Fault Refusal :=
  .next { s with mod := if p.type == ty && s.mod.pwr.aoOn && !s.mod.pwr.down then takeFlood s.mod link.toNat p else s.mod }

/-- ROADBLOCK (R617). -/
def execRoadblock (link : BitVec 7) (p : Packet) (s : State) : Host.Outcome State Fault Refusal := onFlood s link p 0x20
/-- PEER_LOST (R619). -/
def execPeerLost (link : BitVec 7) (p : Packet) (s : State) : Host.Outcome State Fault Refusal := onFlood s link p 0x21
/-- READY (R620). -/
def execReady (link : BitVec 7) (p : Packet) (s : State) : Host.Outcome State Fault Refusal := onFlood s link p 0x22
/-- LINKSTATE (R523). -/
def execLinkstate (link : BitVec 7) (p : Packet) (s : State) : Host.Outcome State Fault Refusal := onFlood s link p 0x23

/-- When a neighbour counts as lost: 500 us after the last of its bundle's links went down; after a module reset of the peer that it announced, 10 s after that, unless
it has been READY since (R532). None while it is not lost. -/
def lostAt (m : Mod) (b : Nat) (peer : BitVec 16) : Option Nat :=
  let ls := (List.range 8).map (fun k => linkOf m (8 * b + k))
  if !ls.all (fun k => k.state == 0 || k.state == 1) then none
  else
    let t := ls.foldl (fun a k => max a k.downAt) 0 + 500000
    match m.fab.resetRoadblocks.find? (fun e => e.1 == peer) with
    | none => some t
    | some e =>
      if e.2 + 10000000000 < t then some t
      else if m.fab.readies.any (fun r => r.1 == peer && decide (e.2 ≤ r.2)) then none
      else some (max t (e.2 + 10000000000))

/-- A neighbour is found lost: PEER_LOST is flooded once, and taken here too. -/
def detectLost (m : Mod) (b : Nat) : Mod :=
  let peer : BitVec 16 := BitVec.ofNat 16 (neighbour m m.fab.id.toNat (b / 2) (b % 2 == 0))
  if !m.fab.en || decide (12 ≤ b) || m.fab.lost.any (fun x => x.toNat == b) then m
  else
    match lostAt m b peer with
    | none => m
    | some t =>
      let m := toTime { m with fab := { m.fab with lost := m.fab.lost ++ [BitVec.ofNat 4 b] } } t
      takePeerLost (flood m 0x21 false 0 0 peer.toNat 0 0 0) peer.toNat

/-- PEER_LOST_DETECT. -/
def execPeerLostDetect (bundle : BitVec 4) (s : State) : Host.Outcome State Fault Refusal := .next { s with mod := detectLost s.mod bundle.toNat }

/-- The oldest key of a die's router has been held for 10 ms (R530). -/
def expireKey (m : Mod) (die : Nat) : Mod :=
  match keysOf m die with
  | [] => m
  | e :: rest => let m := toTime m (e.at_ + 10000000); { m with fab := { m.fab with keys := tblPut m.fab.keys die rest } }

/-- FLOOD_KEY_EXPIRY. -/
def execFloodKeyExpiry (die : BitVec 3) (s : State) : Host.Outcome State Fault Refusal := .next { s with mod := expireKey s.mod die.toNat }

end Sys2Proof.Machine
end

