-- ==== Sys2Proof/Machine/HostQ.lean ====
section
/-! DEFINITION. The host queue engine (R544 to R569, R573): doorbells, fetch and check, start, launches, moves, counters, jobs, completion entries. -/

namespace Sys2Proof.Machine

/-! ## The engine and its ports -/

/-- Does the host queue engine run: the steward READY, HBM awake, no module reset under way (R556, R610, R649, R651, R667)? -/
def engineOn (m : Mod) : Bool := meshRuns m && m.sec.stage == 3 && !m.rcv.resets.any (fun r => r.d == .module)

/-- May the engine use a port: a Function Level Reset stops it until Bus Master Enable is set (R544)? -/
def portMaster (m : Mod) (p : Bool) : Bool := portLive m p && (portOfHost m p).bme

/-- The time that deadlines have stood still (R654), up to now. -/
def pausedNow (m : Mod) : Nat := m.pwr.pausedTotal + m.pwr.pausedFrom.elim 0 (fun t => m.now - t)

/-! ## Doorbells (R549, R550) -/

/-- SUBMISSION_DOORBELL. -/
def execSubmissionDoorbell (port : Bool) (ring : BitVec 12) (size : Nat) (value : Word) (s : State) : Host.Outcome State Fault Refusal :=
  .next { s with mod := submit s.mod port ring.toNat size value }

/-- COMPLETION_DOORBELL. -/
def execCompletionDoorbell (port : Bool) (ring : BitVec 12) (size : Nat) (value : Word) (s : State) : Host.Outcome State Fault Refusal :=
  .next { s with mod := consume s.mod port ring.toNat size value }

/-! ## The check at fetch (R553 to R555, R561) -/

/-- 64 and 32 bits that a body uses. -/
def all64 : Nat := 2 ^ 64 - 1
def all32 : Nat := 2 ^ 32 - 1

/-- The bits of word 0 of a COPY's or FILL's body that are not reserved: rows, cluster, conv, rnd, formats, op (R414, R561). -/
def moveBits : Nat := 0x7F * 2 ^ 48 + 0xFFFF * 2 ^ 32 + 0xBFFF

/-- The bits of words 2 to 7 that are not reserved, by opcode; none for a reserved opcode (R554, R561). -/
def bodyBits (op : Nat) : Option (List Nat) :=
  match op with
  | 0x01 => some [2 ^ 37 - 1, all64, all64, all64, 0xFFF, 0]
  | 0x02 => some [all64, all32, all64, all64, all64, all64]
  | 0x03 => some [moveBits, all64, all64, all32, all64, 0]
  | 0x04 => some [moveBits, 0, all64, all32, all64, all64]
  | 0x05 => some [0xFFFF, all32, 0, 0, 0, 0]
  | 0x06 => some [0xFFFF000000000000 + 0x1FFFF, all32, 0, 0, 0, 0]
  | 0x07 => some [all64, all32, 1, 0, 0, 0]
  | 0x08 => some [all64, all64, 0, 0, 0, 0]
  | 0x09 => some [all64, all64, all32, all64, 0xFFFF, 0]
  | 0x0A => some [0, 0, 0, 0, 0, 0]
  | 0x0B => some [all32, 0, 0, 0, 0, 0]
  | _ => none

/-- The threads per core of image A (of the one image of a LAUNCH), and of image B. -/
def Rec.tA (x : Rec) : Nat := if x.op = 1 then fld (x.w 2) 32 2 + 1 else fld (x.w 3) 0 2 + 1
def Rec.tB (x : Rec) : Nat := if x.op = 1 then 0 else fld (x.w 3) 2 2 + 1

/-- The argument bytes of image A, and of image B. -/
def Rec.nA (x : Rec) : Nat := if x.op = 1 then fld (x.w 6) 0 12 else fld (x.w 3) 10 11
def Rec.nB (x : Rec) : Nat := if x.op = 1 then 0 else fld (x.w 3) 21 11

/-- Words 0 to 7 of the stream descriptor of a COPY or FILL: words 0 to 5 from the body, the cluster's bits apart (R561, R565). -/
def moveWords (x : Rec) : List Word := [w64 (x.w 2 - x.cluster * 2 ^ 48)] ++ (x.words.drop 3).take 5 ++ [0, 0]

/-- Is the stream descriptor of a COPY or FILL one that R415 calls invalid? -/
def moveInvalid (x : Rec) : Bool := descInvalid { seq := 0, words := moveWords x, job := 0, xbase := 0, rnd := 0 }

/-- Does a body hold a value that its opcode forbids (R414, R561, R578)? -/
def forbidden (x : Rec) : Bool :=
  match x.op with
  | 0x01 => fld (x.w 2) 35 2 == 3 || decide (3840 < x.nA) || (x.w 4 == 0 && x.w 5 == 0)
  | 0x02 =>
    decide (4 < x.tA + x.tB) || fld (x.w 3) 5 2 == 3 || fld (x.w 3) 8 2 == 3 || decide (1920 < x.nA) || decide (1920 < x.nB) ||
      (x.w 4 == 0 && x.w 5 == 0)
  | 0x03 => fld (x.w 2) 0 4 != 1 || moveInvalid x
  | 0x04 => fld (x.w 2) 0 4 != 4 || moveInvalid x
  | 0x07 => x.w 2 % 4096 != 0
  | 0x08 => x.w 2 % 2 ^ 21 != 0 || x.w 3 % 2 ^ 21 != 0
  | 0x09 => x.w 3 % 64 != 0 || x.w 4 % 64 != 0 || x.w 5 % 2 != 0
  | _ => false

/-- Are bits set in the body outside those of its opcode? -/
def bodyReserved (x : Rec) (masks : List Nat) : Bool := (List.range 6).any (fun i => x.w (2 + i) &&& masks.getD i 0 != x.w (2 + i))

/-- Is a descriptor INVALID (R555)? -/
def recInvalid (x : Rec) : Bool :=
  match bodyBits x.op with
  | none => true
  | some masks =>
    fld (x.w 0) 60 4 != 0 || fld (x.w 0) 42 6 != 0 || fld (x.w 0) 29 3 != 0 || x.cls == 3 || bodyReserved x masks || forbidden x ||
      (x.job == 0 && x.op != 5 && x.op != 6 && x.op != 7)

/-- The first status of R555 that applies; none for a descriptor that may start. -/
def checkRec (m : Mod) (x : Rec) : Option Byte :=
  if recInvalid x then some 5
  else if x.op = 9 ∨ x.job = 0 then none
  else match jobEpoch m x.job with
    | none => some 0xA
    | some e => if e = x.ep then none else some 0xB

/-! ## Fetch (R551, R556) -/

/-- The descriptors that one read fetches: up to eight that are ready and consecutive in the ring. -/
def fetchCount (r : SRing) : Nat :=
  let size := ringSize r.lsize
  min 8 (min ((size + r.tail.toNat - r.head.toNat) % size) (size - r.head.toNat))

/-- May the engine fetch from a ring? -/
def mayFetch (m : Mod) (p : Bool) (n : Nat) : Bool :=
  engineOn m && portMaster m p && (sringOf m p n).en && fetchCount (sringOf m p n) != 0 && decide (m.hq.owed.length < 4096)

/-- A descriptor recorded in the journal; head advances past it, and the check of R555 may complete it. -/
def recordDesc (m : Mod) (p : Bool) (n : Nat) (words : List Word) : Mod :=
  let r := m.hq.nextRec
  let x : Rec := { port := p, ring := BitVec.ofNat 12 n, words := words, at_ := m.now, paused := pausedNow m }
  let m := { m with hq := { m.hq with recs := tblPut m.hq.recs r x, nextRec := r + 1 } }
  let m := setSring m p n (fun k => { k with head := BitVec.ofNat 16 ((k.head.toNat + 1) % ringSize k.lsize) })
  match checkRec m x with
  | some st => completePlain m r st 0
  | none => m

/-- A fetch read and what host memory answers: an error or poison stops the ring and records nothing. -/
def fetchDescs (m : Mod) (p : Bool) (n : Nat) (d : HostData) : Mod :=
  if !mayFetch m p n then m
  else
    let r := sringOf m p n
    let k := fetchCount r
    let m := hostReads m p (r.base.toNat + 64 * r.head.toNat) (64 * k)
    match d with
    | .bytes b => (List.range k).foldl (fun m i => recordDesc m p n (bytesWords 8 (sliceBytes b (64 * i) 64))) m
    | .poison => setSring (aerError m p 12) p n (fun r => r.stop 2)
    | .error => setSring m p n (fun r => r.stop 2)

/-- DESCRIPTOR_FETCH. -/
def execDescriptorFetch (port : Bool) (ring : BitVec 12) (d : HostData) (s : State) : Host.Outcome State Fault Refusal :=
  .next { s with mod := fetchDescs s.mod port ring.toNat d }

/-- A fetch that has no completion within 50 ms: time moves on to its end. -/
def fetchTimeout (m : Mod) (p : Bool) (n : Nat) : Mod :=
  if !mayFetch m p n then m
  else
    let r := sringOf m p n
    let m := hostReads m p (r.base.toNat + 64 * r.head.toNat) (64 * fetchCount r)
    setSring (aerError (toTime m (m.now + 50000000)) p 14) p n (fun r => r.stop 2)

/-- DESCRIPTOR_FETCH_TIMEOUT. -/
def execDescriptorFetchTimeout (port : Bool) (ring : BitVec 12) (s : State) : Host.Outcome State Fault Refusal :=
  .next { s with mod := fetchTimeout s.mod port ring.toNat }

/-! ## Start (R557, R558) -/

/-- The number of a ring among those of both ports. -/
def Rec.key (x : Rec) : Nat := 4096 * b1 x.port + x.ring.toNat

/-- Is an earlier descriptor of the ring incomplete? -/
def earlierOpen (m : Mod) (r : Nat) (x : Rec) : Bool := m.hq.recs.any (fun e => decide (e.1 < r) && e.2.key == x.key && e.2.state != .done)

/-- The condition of a WAIT (R566). -/
def waitHolds (m : Mod) (x : Rec) : Bool := decide ((evCounter m (fld (x.w 2) 0 16) - BitVec.ofNat 32 (x.w 3)).toNat < 2 ^ 31)

/-- Does a descriptor wait (R557)? -/
def recWaits (m : Mod) (r : Nat) (x : Rec) : Bool :=
  (x.fence && earlierOpen m r x) || (x.op == 5 && !waitHolds m x) || (x.op == 9 && decide (4096 ≤ m.hq.jobs.length))

/-- Is a recorded descriptor the next of its ring? -/
def isNext (m : Mod) (r : Nat) (x : Rec) : Bool :=
  x.state == .recorded && !m.hq.recs.any (fun e => decide (e.1 < r) && e.2.key == x.key && e.2.state == .recorded)

/-- Does a ring start descriptors: enabled, or stopped by an error or a Function Level Reset after the fetch (R544, R547, R558)? (log 65, DEDUCED). -/
def ringStarts (m : Mod) (x : Rec) : Bool :=
  let k := sringOf m x.port x.ring.toNat
  k.en || k.err != 0 || x.flr

/-- The descriptors that could start now. -/
def startable (m : Mod) : List (Nat × Rec) := m.hq.recs.filter (fun e => isNext m e.1 e.2 && ringStarts m e.2 && !recWaits m e.1 e.2)

/-- The priority level of a descriptor's ring. -/
def recPrio (m : Mod) (x : Rec) : Nat := (sringOf m x.port x.ring.toNat).prio.toNat

/-- How far a ring lies after the ring last served at its level. -/
def turnOf (m : Mod) (x : Rec) : Nat := (x.key + 8191 - tblGet 8191 m.hq.lastRing (recPrio m x)) % 8192

/-- The descriptor that starts next (R558). -/
def nextStart (m : Mod) : Option (Nat × Rec) :=
  (startable m).foldl (fun acc e => match acc with
    | none => some e
    | some b =>
      let p := recPrio m e.2
      let q := recPrio m b.2
      if q < p ∨ (p = q ∧ turnOf m e.2 < turnOf m b.2) then some e else some b) none

/-- The order number that a descriptor takes as it starts. -/
def nextOrder (m : Mod) : Nat := m.hq.recs.foldl (fun n e => max n e.2.order) 0 + 1

/-- A descriptor starts; a WAIT observes its counter (R566). -/
def startRec (m : Mod) (r : Nat) (x : Rec) : Mod :=
  let n := nextOrder m
  let v : Word := if x.op = 5 then w64 (evCounter m (fld (x.w 2) 0 16)).toNat else 0
  setRec { m with hq := { m.hq with lastRing := tblPut m.hq.lastRing (recPrio m x) x.key } } r
    (fun x => { x with state := .started, order := n, result := v })

/-- The engine starts the next descriptor. -/
def startNext (m : Mod) : Mod :=
  if !engineOn m then m else match nextStart m with | some (r, x) => startRec m r x | none => m

/-- DESCRIPTOR_START. -/
def execDescriptorStart (s : State) : Host.Outcome State Fault Refusal := .next { s with mod := startNext s.mod }

/-- The command of a started descriptor with one of the opcodes. -/
def withStarted (s : State) (r : Nat) (ops : List Nat) (f : Mod → Rec → Mod) : Host.Outcome State Fault Refusal :=
  match recFind s.mod r with
  | some x => if x.state = .started ∧ engineOn s.mod ∧ ops.contains x.op then .next { s with mod := f s.mod x } else .next s
  | none => .next s

/-! ## WAIT and SIGNAL (R566) -/

/-- WAIT: the descriptor passes with the value it observed at its start. -/
def execWait (rec : Nat) (s : State) : Host.Outcome State Fault Refusal := withStarted s rec [5] (fun m x => completeRec m rec 0 x.result)

/-- A WAIT that held its ring starts on its turn, once its condition holds, and completes. -/
def passWait (m : Mod) (r : Nat) : Mod :=
  if !engineOn m then m
  else match nextStart m with
    | some (k, x) =>
      if k = r ∧ x.op = 5 then completeRec (startRec m r x) r 0 (w64 (evCounter m (fld (x.w 2) 0 16)).toNat) else m
    | none => m

/-- WAIT_PASS. -/
def execWaitPass (rec : Nat) (s : State) : Host.Outcome State Fault Refusal := .next { s with mod := passWait s.mod rec }

/-- The EVADD packet of a remote SIGNAL (R514, R566). -/
def evaddPacket (x : Rec) : Packet :=
  tagged { emptyPacket with
    dst := BitVec.ofNat 16 (fld (x.w 2) 48 16), len := 8, cls := 1, type := 7, k := BitVec.ofNat 3 (x.w 2), word2 := w64 (fld (x.w 2) 0 16),
    data := toBytes 8 (fld (x.w 3) 0 32) } x.tags

/-- The packets that wait at the ports. -/
def packetsWaiting (m : Mod) : Nat := m.fab.links.foldl (fun n l => n + l.2.txq.length) 0

/-- A SIGNAL adds to a counter here, or sends an EVADD; while its port cannot send that, it goes on waiting. -/
def signal (m : Mod) (r : Nat) (x : Rec) : Mod :=
  if !bitOf (x.w 2) 16 || fld (x.w 2) 48 16 == m.fab.id.toNat then
    completeRec (addEvc m (fld (x.w 2) 0 16) (BitVec.ofNat 32 (x.w 3))) r 0 0
  else
    -- ERROR where no route exists; a packet that meets a link that is DOWN has been sent, and is discarded (R525, R566).
    let st : Byte := if (chooseRoute m m.fab.id.toNat (fld (x.w 2) 48 16) (x.w 2 % 8)).isSome then 0 else 3
    let m' := (fabSend m (evaddPacket x)).1
    if packetsWaiting m < packetsWaiting m' then m else completeRec m' r st 0

/-- SIGNAL. -/
def execSignal (rec : Nat) (s : State) : Host.Outcome State Fault Refusal := withStarted s rec [6] (fun m x => signal m rec x)

/-! ## The engine's reads of job addresses (R562, R579) -/

/-- A job address translated by the steward: a walk of the table, through no TLB. -/
def xlateSteward (m : Mod) (xbase a : Word) : Mod × XRes :=
  xlateWith (fun m x =>
    match walk m xbase x with
    | (m, none) => (m, none)
    | (m, some p) => (m, some { base := tagBase xbase, page := p.page, bits := p.bits, target := p.target })) m xbase a

/-- A piece of a range of job addresses: its offset and length, and where it leads. -/
structure JobPiece where
  off : Nat
  n : Nat
  res : XRes
  deriving DecidableEq, Repr

/-- The pieces of a range at every 4 KiB boundary, each translated. -/
def jobPieces (m : Mod) (xbase a : Word) (n : Nat) : Mod × List JobPiece :=
  (pieces4k a n).foldl (fun p c =>
    match xlateSteward p.1 xbase (a + w64 c.1) with
    | (m, r) => (m, p.2 ++ [{ off := c.1, n := c.2, res := r }])) (m, [])

/-- Does a piece lie in host memory? -/
def JobPiece.host (c : JobPiece) : Bool := match c.res with | .here a => (match regionOf a with | .hostWindow _ _ => true | _ => false) | _ => false

/-- The host's answer for a piece: the bytes of the whole range, from the piece's offset on. -/
def hostFrom (h : Option HostData) (off : Nat) : Option HostData :=
  match h with
  | some (.bytes d) => some (.bytes (d.drop off))
  | h => h

/-- A piece read on this module. -/
def readPiece (m : Mod) (a off n : Nat) (host : Option HostData) : Mod × TRead :=
  engineRead m { off := off, n := n, peer := none, at_ := a } (hostFrom host off)

/-- The reads that wait for host memory leave through their windows. -/
def askHost (m : Mod) (l : List JobPiece) : Mod :=
  l.foldl (fun m c => match c.res with | .here a => if c.host then (readTarget m a c.n m.now none).1 else m | _ => m) m

/-! ## Argument blocks (R562) -/

/-- A piece of an argument block read, or sent for. -/
def readArg (m : Mod) (r : Nat) (x : Rec) (second : Bool) (host : Option HostData) (c : JobPiece) : Mod :=
  let add (m : Mod) (st : Byte) (poison : Bool) (d : List Byte) :=
    setRec m r (fun x => { x with argParts := x.argParts ++ [{ second := second, off := c.off, status := st, poison := poison, data := d }] })
  match c.res with
  | .notPresent => add m 2 false []
  | .peer p b => (pieces256 c.n).foldl (fun m y =>
      sendRequest m (.args r second (c.off + y.1) y.2) (rdPacket p (b + y.1) y.2 x.tags)) m
  | .here a =>
    match readPiece m a c.off c.n host with
    | (m, .done st d _) => add m (if st = 0 then 0 else 3) (d.any (fun b => b.2)) (d.map Prod.fst)
    | (m, .sent) => m

/-- Is a part of an argument block still on its way? -/
def argsOut (m : Mod) (r : Nat) : Bool := asked m (fun o => match o with | .args k _ _ _ => k == r | _ => false)

/-- The parts of a block in address order. -/
def blockParts (x : Rec) (second : Bool) : List ArgPart := sortBy ArgPart.off (x.argParts.filter (fun p => p.second == second))

/-- The status of the first part that fails: a status of its own, ERROR for a peer's error response, POISONED (R562). -/
def firstBad (l : List ArgPart) : Option Byte :=
  (l.find? (fun p => p.status != 0 || p.poison)).map (fun p => if p.status = 2 ∧ p.data.isEmpty then 2 else if p.status != 0 then 3 else 1)

/-- The bytes of a block. -/
def blockBytes (l : List ArgPart) : List Byte := l.flatMap ArgPart.data

/-! ## Launches (R559, R562, R563) -/

/-- A valid handle of the job or of job 0 (R580). -/
def handleFor (m : Mod) (h job : Nat) : Option Handle :=
  match tblFind m.hq.handles (h % 4096) with
  | some k => if k.valid ∧ k.seq = h / 4096 ∧ (k.job = 0 ∨ k.job.toNat = job) then some k else none
  | none => none

/-- The handles that a launch names. -/
def Rec.hA (x : Rec) : Nat := fld (x.w 2) 0 32
def Rec.hB (x : Rec) : Nat := fld (x.w 2) 32 32

/-- The cores of a placement. -/
def placement (x : Rec) : List Nat :=
  ((List.range 128).filter (fun q => if q < 64 then bitOf (x.w 4) q else bitOf (x.w 5) (q - 64))).flatMap
    (fun q => (List.range 16).map (fun i => 16 * q + i))

/-- The launch handed to the dispatchers of its placement. -/
def handOver (m : Mod) (r : Nat) (x : Rec) : Mod :=
  let cs := placement x
  let m := setRec m r (fun y => { y with state := .running, todo := cs, args := blockBytes (blockParts y false), argsB := blockBytes (blockParts y true) })
  cs.foldl (fun m c => setCore m c (fun k => { k with launches := k.launches ++ [r] })) m

/-- The argument blocks have been read: the launch is handed over, or it completes with the status of the first failing part. -/
def argsRead (m : Mod) (r : Nat) : Mod :=
  match recFind m r with
  | none => m
  | some x =>
    if argsOut m r then m
    else match (firstBad (blockParts x false)).orElse (fun _ => firstBad (blockParts x true)) with
      | some st => completeRec m r st 0
      | none => handOver m r x

/-- A launch reads its argument blocks, once; without the host's data, blocks in host memory wait. -/
def launchArgs (m : Mod) (r : Nat) (x : Rec) (j : Job) (hostA hostB : Option HostData) : Mod :=
  if x.argsAsked then argsRead m r
  else
    let aA := x.words.getD (if x.op = 1 then 3 else 6) 0
    match jobPieces m j.xbase aA x.nA with
    | (m, pA) => match jobPieces m j.xbase (x.words.getD 7 0) x.nB with
      | (m, pB) =>
        let owedA := hostA.isNone && pA.any JobPiece.host
        let owedB := hostB.isNone && pB.any JobPiece.host
        if owedA || owedB then askHost m ((if owedA then pA else []) ++ (if owedB then pB else []))
        else
          let m := setRec m r (fun x => { x with argsAsked := true })
          let m := pA.foldl (fun m c => readArg m r x false hostA c) m
          argsRead (pB.foldl (fun m c => readArg m r x true hostB c) m) r

/-- A LAUNCH or PAIRED_LAUNCH: INVALID for a handle that is not one of its job's, or for two images whose table sections differ (log 38, DESIGN CHOICE). -/
def launchRec (m : Mod) (r : Nat) (x : Rec) (hostA hostB : Option HostData) : Mod :=
  match jobFind m x.job, handleFor m x.hA x.job with
  | none, _ => completeRec m r 0xA 0
  | _, none => completeRec m r 5 0
  | some j, some a =>
    if x.op = 1 then launchArgs m r x j hostA none
    else match handleFor m x.hB x.job with
      | none => completeRec m r 5 0
      | some b =>
        if a.table != [] && b.table != [] && a.table != b.table then completeRec m r 5 0
        else launchArgs m r x j hostA hostB

/-- LAUNCH. -/
def execLaunch (rec : Nat) (host : Option HostData) (s : State) : Host.Outcome State Fault Refusal := withStarted s rec [1] (fun m x => launchRec m rec x host none)

/-- PAIRED_LAUNCH. -/
def execPairedLaunch (rec : Nat) (hostA hostB : Option HostData) (s : State) : Host.Outcome State Fault Refusal :=
  withStarted s rec [2] (fun m x => launchRec m rec x hostA hostB)

/-! ## A launch on a core (R186, R328, R330, R396, R559, R562) -/

/-- The table section of the image that a thread belongs to. -/
def threadTable (m : Mod) (t : Nat) : List (Nat × List Byte) :=
  match (ctx m t).launch.bind (recFind m), (ctx m t).item.bind (tblFind m.hq.items) with
  | some x, some i => ((tblFind m.hq.handles ((if i.imageB then x.hB else x.hA) % 4096)).map Handle.table).getD []
  | _, _ => []

/-- Is the core's decode table in use by threads with a table section (R186)? -/
def tableInUse (m : Mod) (c : Nat) : Bool := (liveThreads m c).any (fun t => threadTable m t != [])

/-- May an image with a table section start on a core? -/
def tableAllows (m : Mod) (c : Nat) (sec : List (Nat × List Byte)) : Bool := sec.isEmpty || !tableInUse m c || (core m c).tableSec == sec

/-- The dispatcher sets the table for an image: every entry takes its section's value or none, whatever a WDT has written or still writes (R186). -/
def setTable (m : Mod) (c : Nat) (sec : List (Nat × List Byte)) : Mod :=
  if sec.isEmpty || tableInUse m c then m else setCore m c (fun k => { k with dtable := sec, wdtPend := [], tableSec := sec })

/-- A context that a thread may start in: free, and behind no Kerb fence. -/
def startContexts (m : Mod) (c : Nat) : List Nat := (freeContexts m c).filter (fun t => !m.rcv.resets.any (fun r => domainHolds r.d t))

/-- Does a lost work item await its replay on the core (R608)? Not one whose descriptor has completed, or ends without it. -/
def replayWaits (m : Mod) (c : Nat) : Bool :=
  m.hq.items.any (fun e => e.2.core == c && e.2.lost && !e.2.ended && !e.2.failed &&
    (recFind m e.2.record).any (fun x => x.state != .done && x.blame.isNone))

/-- Has a launch still to start on a core: it is handed over and the core has not started it, or it has started and still reads its argument blocks (R559, R562)? -/
def launchOwed (c : Nat) (x : Rec) : Bool := (x.state == .running && x.todo.contains c) || (x.state == .started && x.isLaunch && (placement x).contains c)

/-- The launch that a core starts next: of those handed to it the one that the engine started first, unless the core is to start one that the engine started earlier and has
not handed over yet (R559). -/
def nextLaunch (m : Mod) (c : Nat) : Option (Nat × Rec) :=
  ((core m c).launches.find? (fun r => (recFind m r).elim false (fun x => launchOwed c x && m.hq.recs.all (fun e => decide (x.order ≤ e.2.order) || !launchOwed c e.2)))).bind
    (fun r => (recFind m r).map (fun x => (r, x)))

/-- The values that a thread of a launch starts with (R330, R562, R583). -/
def launched (t r i : Nat) (x : Rec) (j : Job) (h : Handle) (b : Bool) (pos : Nat) (y : Ctx) : Ctx :=
  let strict := if x.op = 1 then bitOf (x.w 2) 34 else bitOf (x.w 3) (if b then 7 else 4)
  let rnd := if x.op = 1 then fld (x.w 2) 35 2 else fld (x.w 3) (if b then 8 else 5) 2
  { y.setS 1 (w64 pos) with
    pc := h.codeBase + w64 (32 * h.entry), strict := strict, rnd := BitVec.ofNat 2 rnd, job := x.tags, xbase := j.xbase,
    prio := bitOf (x.w 0) 26, ssp := j.stackBase + w64 (t + 1) * j.stackBytes,
    vbase := if h.sup then h.codeBase + w64 (32 * h.handler) else Config.standardHandler, stdHandler := !h.sup, bypass := h.bypass,
    launch := some r, item := some i }

/-- A thread of a launch starts as a work item of its own (R592). -/
def startItem (m : Mod) (t r : Nat) (x : Rec) (j : Job) (h : Handle) (b : Bool) (pos : Nat) : Mod :=
  let i := m.hq.nextItem
  let m := { m with hq := { m.hq with items := tblPut m.hq.items i { record := r, core := t / 4, imageB := b, pos := pos }, nextItem := i + 1 } }
  startThread m t (launched t r i x j h b pos)

/-- The image of a launch, as R396 counts it. -/
def Rec.image (x : Rec) : ImageKey := if x.op = 1 then .one x.hA else .pair x.hA x.hB

/-- The caches before the first bundle of a launch (R396, R403). -/
def launchCaches (m : Mod) (c : Nat) (x : Rec) : Mod :=
  let same := (core m c).lastImage == some x.image
  let m := if same && !(core m c).mappedSince.contains x.job then m else setCore m c (fun k => { k with icache := [], iprefetch := [] })
  let m := if same then m else unlockAll m c
  setCore m c (fun k => { k with lastImage := some x.image, mappedSince := [] })

/-- The argument blocks copied to SDM (R562, R563). -/
def copyArgs (m : Mod) (c : Nat) (x : Rec) : Mod :=
  let m := (writeSram m (sdmAddr c 0xF000) (clean x.args)).1
  (writeSram m (sdmAddr c 0xF780) (clean x.argsB)).1

/-- A dispatcher starts the next launch on a core: enough free contexts, and a table that allows it; not before a replay, nor during a search (R608, R612). -/
def startOnCore (m : Mod) (c : Nat) : Mod :=
  match nextLaunch m c with
  | none => m
  | some (r, x) =>
    let free := startContexts m c
    match jobFind m x.job, tblFind m.hq.handles (x.hA % 4096) with
    | some j, some a =>
      let b := (tblFind m.hq.handles (x.hB % 4096)).getD a
      let sec := if x.op = 1 ∨ a.table != [] then a.table else b.table
      if disabled m 2 || free.length < x.tA + x.tB || !tableAllows m c sec || replayWaits m c || (cluster m (c / 16)).search.isSome || (core m c).inReset || !stewardReaches m (c / 16) then m
      else
        let m := copyArgs (launchCaches (setTable m c sec) c x) c x
        let m := (List.range x.tA).foldl (fun m i => startItem m (free.getD i 0) r x j a false i) m
        let m := (List.range x.tB).foldl (fun m i => startItem m (free.getD (x.tA + i) 0) r x j b true i) m
        let m := setRec m r (fun x => { x with todo := x.todo.filter (· != c) })
        setCore m c (fun k => { k with launches := k.launches.filter (· != r) })
    | _, _ => m

/-- LAUNCH_CORE_START. -/
def execLaunchCoreStart (core : CoreId) (s : State) : Host.Outcome State Fault Refusal :=
  if engineOn s.mod then .next { s with mod := startOnCore s.mod core.toNat } else .next s

/-- Is a work item of a descriptor settled: ended, failed, or lost with no replay to come (R609)? -/
def itemSettled (x : Rec) (i : Item) : Bool := i.ended || i.failed || (i.lost && x.blame.isSome)

/-- Has every thread of a launch ended, and every access and transfer of its items been performed (R564, R575, R592)? -/
def launchOver (m : Mod) (r : Nat) (x : Rec) : Bool :=
  x.todo.isEmpty && m.hq.items.all (fun e => e.2.record != r || itemSettled x e.2) && (recordThreads m r).isEmpty &&
    m.accs.all (fun a => a.record != some r || a.counted) &&
    m.clusters.all (fun c => c.2.dqs.all (fun q => q.2.all (fun d => d.record != some r)))

/-- A launch completes with OK, or with the status that applies first (R564, R615). -/
def endLaunch (m : Mod) (r : Nat) : Mod :=
  match recFind m r with
  | none => m
  | some x =>
    if x.state = .running ∧ x.isLaunch ∧ launchOver m r x then
      let o := x.blame.getD (0, 0)
      completeRec (settleItems m r) r o.1 o.2
    else m

/-- LAUNCH_COMPLETE. -/
def execLaunchComplete (rec : Nat) (s : State) : Host.Outcome State Fault Refusal :=
  if engineOn s.mod then .next { s with mod := endLaunch s.mod rec } else .next s

/-! ## COPY and FILL (R565) -/

/-- The stream descriptor of a COPY or FILL. -/
def moveDesc (r : Nat) (x : Rec) (j : Job) : SDesc :=
  { seq := BitVec.ofNat 16 r, words := moveWords x, job := x.tags, xbase := j.xbase,
    rnd := 0, record := some r }

/-- A COPY or FILL enters the host queue of its engine, which holds 16; behind a fence of the engine it waits (R602). -/
def startMove (m : Mod) (r : Nat) (x : Rec) : Mod :=
  match jobFind m x.job with
  | none => completeRec m r 0xA 0
  | some j =>
    if 16 ≤ (descsOf m x.cluster 64).length || queueHeld m x.cluster 64 then m
    else
      let i := m.hq.nextItem
      let it : Item := { record := r, core := 2048 + x.cluster, imageB := false, pos := 0 }
      let m := { m with hq := { m.hq with items := tblPut m.hq.items i it, nextItem := i + 1 } }
      enqueue (setRec m r (fun x => { x with state := .running })) x.cluster 64 (moveDesc r x j)

/-- COPY. -/
def execCopy (rec : Nat) (s : State) : Host.Outcome State Fault Refusal := withStarted s rec [3] (fun m x => startMove m rec x)

/-- FILL. -/
def execFill (rec : Nat) (s : State) : Host.Outcome State Fault Refusal := withStarted s rec [4] (fun m x => startMove m rec x)

/-! ## MAP (R568) -/

/-- Does a TLB entry of a table base cover part of a range? -/
def tlbCovers (base : Word) (lo n : Nat) (e : TlbEntry) : Bool :=
  e.base == base && (n == 0 || overlaps lo n (e.page * 2 ^ e.bits) (2 ^ e.bits))

/-- MAP's effect: the entries removed, and the job marked as mapped for every core that has run a launch (R396). -/
def mapRec (m : Mod) (r : Nat) (x : Rec) : Mod :=
  match jobFind m x.job with
  | none => completeRec m r 0xA 0
  | some j =>
    let keep (l : List TlbEntry) := l.filter (fun e => !tlbCovers (tagBase j.xbase) (x.w 2) (x.w 3) e)
    let m := { m with
      cores := m.cores.map (fun c => (c.1, { c.2 with
        tlb := keep c.2.tlb, mappedSince := if c.2.lastImage.isSome then c.2.mappedSince ++ [x.job] else c.2.mappedSince }))
      clusters := m.clusters.map (fun c => (c.1, { c.2 with tlb2 := keep c.2.tlb2 })) }
    completeRec m r 0 0

/-- MAP. -/
def execMap (rec : Nat) (s : State) : Host.Outcome State Fault Refusal := withStarted s rec [8] (fun m x => mapRec m rec x)

/-! ## Jobs (R569) -/

/-- JOB_OPEN's effect: INVALID when the job is open (log 75, DESIGN CHOICE). -/
def openJob (m : Mod) (r : Nat) (x : Rec) : Mod :=
  if (jobFind m x.job).isSome then completeRec m r 5 0
  else if 4096 ≤ m.hq.jobs.length then m
  else
    let j : Job := { epoch := x.ep, xbase := x.words.getD 2 0 &&& xbaseMask, stackBase := x.words.getD 3 0, stackBytes := w64 (fld (x.w 4) 0 32),
                     members := x.w 5, count := fld (x.w 6) 0 16 }
    let m := settleStreams m x.job
    completeRec { m with hq := { m.hq with jobs := tblPut m.hq.jobs x.job j } } r 0 0

/-- JOB_OPEN. -/
def execJobOpen (rec : Nat) (s : State) : Host.Outcome State Fault Refusal := withStarted s rec [9] (fun m x => openJob m rec x)

/-- Have all descriptors of the job that started before this one completed? -/
def earlierDone (m : Mod) (r : Nat) (x : Rec) : Bool :=
  m.hq.recs.all (fun e => e.1 == r || e.2.job != x.job || e.2.order == 0 || decide (x.order ≤ e.2.order) || e.2.state == .done)

/-- JOB_CLOSE: once every descriptor of the job that started before it has completed. -/
def execJobClose (rec : Nat) (s : State) : Host.Outcome State Fault Refusal :=
  withStarted s rec [0x0A] (fun m x =>
    if (jobFind m x.job).isNone then completeRec m rec 0xA 0
    else if earlierDone m rec x then closeJob (completeRec m rec 0 0) x.job
    else m)

/-- Another ABORT_JOB of the same job and epoch that runs. -/
def otherAbort (r : Nat) (x : Rec) (e : Nat × Rec) : Bool :=
  e.1 != r && e.2.op == 0x0B && e.2.job == x.job && e.2.ep == x.ep && e.2.state == .running

/-- ABORT_JOB's start: DISPATCH on the job's threads, and the grace time; a second one aborts nothing more. -/
def abortJob (m : Mod) (r : Nat) (x : Rec) : Mod :=
  if (jobFind m x.job).isNone then completeRec m r 0xA 0
  else if m.hq.recs.any (otherAbort r x) then setRec m r (fun x => { x with state := .running })
  else
    let m := (jobThreads m x.job).foldl (fun m t => setCtx m t (fun y => { y with pendInt := y.pendInt ||| 8 })) m
    setRec m r (fun x => { x with state := .running, graceAt := some (m.now + 1000 * fld (x.w 2) 0 32) })

/-- ABORT_JOB. -/
def execAbortJob (rec : Nat) (s : State) : Host.Outcome State Fault Refusal := withStarted s rec [0x0B] (fun m x => abortJob m rec x)

/-- The end of the grace time: the job's work is aborted at its epoch unless the epoch has advanced, and every ABORT_JOB of the job and epoch completes
(R569, R616, R617). -/
def graceExpiry (m : Mod) (r : Nat) : Mod :=
  match recFind m r with
  | none => m
  | some x =>
    match x.graceAt with
    | none => m
    | some t =>
      if x.op != 0x0B || x.state != .running then m
      else
        let m := toTime m t
        let m := if jobEpoch m x.job = some x.ep then
            abortWork (if isShared m x.job then sendRoadblock m x.job 3 (descWord x) else m) x.job r 6 0xB
          else m
        (m.hq.recs.filter (otherAbort r x)).foldl (fun m e => completeRec m e.1 0 0) (completeRec m r 0 0)

/-- ABORT_GRACE_EXPIRY. -/
def execAbortGraceExpiry (rec : Nat) (s : State) : Host.Outcome State Fault Refusal :=
  if engineOn s.mod then .next { s with mod := graceExpiry s.mod rec } else .next s

/-! ## Completion entries (R551, R552, R573, R575) -/

/-- Is an entry owed to a completion ring? -/
def entryFor (p : Bool) (n : Nat) (e : CEntry) : Bool := e.port == p && e.cring.toNat == n

/-- The two words of an entry. -/
def entryWords (e : CEntry) (phase : Bool) (head : Nat) : List Word :=
  [w64 (e.ring.toNat * 2 ^ 40 + e.status.toNat * 2 ^ 32 + e.tag.toNat), w64 (b1 phase * 2 ^ 63 + e.result.toNat % 2 ^ 47 * 65536 + head)]

/-- Has a completion ring room for an entry (R551)? -/
def CRing.room (k : CRing) : Bool :=
  let size := ringSize k.lsize
  decide ((size + k.tail.toNat - k.head.toNat % size) % size < size - 1)

/-- The ring's interrupt is sent, and its count and timer start again (R552). -/
def ringInterrupt (m : Mod) (p : Bool) (n : Nat) : Mod :=
  setCring (sendMsix m p (cringOf m p n).vector.toNat) p n (fun k => { k with since := 0, firstAt := none })

/-- The entry written at tail, which advances and inverts phase at the wrap. -/
def putEntry (m : Mod) (p : Bool) (n : Nat) (e : CEntry) : Mod :=
  let k := cringOf m p n
  let size := ringSize k.lsize
  let head := if e.old then 0 else (sringOf m p e.ring.toNat).head.toNat
  let m := hostWrites m p (k.base.toNat + 16 * k.tail.toNat) (((entryWords e k.phase head).flatMap wordBytes).map (fun b => (b, false))) false
  let wrap := decide (size ≤ k.tail.toNat + 1)
  let m := setCring m p n (fun k =>
    { k with tail := BitVec.ofNat 16 ((k.tail.toNat + 1) % size), phase := k.phase != wrap, since := k.since + 1, firstAt := some (k.firstAt.getD m.now) })
  if k.ithresh != 0 && decide (k.ithresh.toNat ≤ k.since + 1) then ringInterrupt m p n else m

/-- The first entry owed to a ring is written, or discarded and counted where the ring has en 0 (R555); one kept over a module reset waits for en (R610). -/
def writeEntry (m : Mod) (p : Bool) (n : Nat) : Mod :=
  let k := cringOf m p n
  if !portMaster m p || m.sec.stage != 3 then m
  else match m.hq.owed.find? (entryFor p n) with
    | none => m
    | some e =>
      let drop (m : Mod) : Mod := { m with hq := { m.hq with owed := removeFirst (entryFor p n) m.hq.owed } }
      if !k.en then (if e.old then m else setPort (drop m) p (fun q => { q with noCq := q.noCq + 1 }))
      else if k.room then putEntry (drop m) p n e
      else m

/-- COMPLETION_ENTRY_WRITE. -/
def execCompletionEntryWrite (port : Bool) (cring : BitVec 12) (s : State) : Host.Outcome State Fault Refusal :=
  .next { s with mod := writeEntry s.mod port cring.toNat }

/-- The interrupt timer of a completion ring ends (R552): time moves on to its end. A ring with ithresh 0 sends no interrupt (R548). -/
def cqTimer (m : Mod) (p : Bool) (n : Nat) : Mod :=
  let k := cringOf m p n
  match k.firstAt with
  | none => m
  | some t => if k.itime = 0 || k.ithresh = 0 || !portMaster m p then m else ringInterrupt (toTime m (t + 1000 * k.itime.toNat)) p n

/-- CQ_INTERRUPT_TIMER. -/
def execCqInterruptTimer (port : Bool) (cring : BitVec 12) (s : State) : Host.Outcome State Fault Refusal :=
  .next { s with mod := cqTimer s.mod port cring.toNat }

/-! ## Function Level Reset (R544) -/

/-- The effects of a Function Level Reset of a port: its registers and its MSI-X table at reset, Bus Master Enable clear, the entries of its descriptors discarded. The
payload size and the AER status stay (log 106, PRESUMED). -/
def flr (m : Mod) (p : Bool) : Mod :=
  let m := setPort m p (fun k => { bme := false, perst := k.perst, noCq := k.noCq, payload := k.payload, aer := k.aer })
  { m with hq := { m.hq with
    recs := m.hq.recs.map (fun e => if e.2.port == p && e.2.state != .done then (e.1, { e.2 with flr := true }) else e)
    owed := m.hq.owed.filter (fun e => e.port != p) } }

/-- A configuration request: a port that is not enabled answers it with Request Retry Status (R668). -/
def configured (m : Mod) (p : Bool) (f : Mod → Mod) : Mod :=
  if portLive m p then f { m with answer := .none } else if portUp m p then { m with answer := .retryStatus } else m

/-- FUNCTION_LEVEL_RESET. -/
def execFunctionLevelReset (port : Bool) (s : State) : Host.Outcome State Fault Refusal :=
  .next { s with mod := configured s.mod port (fun m => flr m port) }

/-- BUS_MASTER_ENABLE_SET: the port's window, fetching, entries and messages resume. -/
def execBusMasterEnableSet (port : Bool) (s : State) : Host.Outcome State Fault Refusal :=
  .next { s with mod := configured s.mod port (fun m => setPort m port (fun k => { k with bme := true })) }

end Sys2Proof.Machine
end

