-- ==== Sys2Proof/Machine/WayFlow.lean ====
section
/-! DEFINITION. What the Waymark verifier sees of an instruction (R585, R587): the operand bits it uses, the registers it reads, and those it writes with the cycles their results land in (R66). -/

namespace Sys2Proof.Machine

/-! ## Register keys (R587) -/

/-- A register as an item of a report names it, class in [8:6] and number in [5:0], with a part above: 0 its contents, 1 the configuration of a tile or accumulator
(R199), 2 the result of an MMA in the engine (R77, R233). -/
def wkey (part cls num : Nat) : Nat := part * 512 + cls * 64 + num % 64

def keyS (r : Nat) : Nat := wkey 0 0 r
def keyV (r : Nat) : Nat := wkey 0 1 r
def keyT (t : Nat) : Nat := wkey 0 4 t
def keyTc (t : Nat) : Nat := wkey 1 4 t
def keyA (a : Nat) : Nat := wkey 0 5 a
def keyAt (a : Nat) : Nat := wkey 1 5 a
def keyMma (a : Nat) : Nat := wkey 2 5 a
def keySd (n : Nat) : Nat := wkey 0 6 n

/-- Scalar and vector registers among fields; windows are none. -/
def keysS (l : List Spec) : List Nat := (regsOf l).map keyS
def keysV (l : List Spec) : List Nat := (regsOf l).map keyV

/-- Predicates and lane masks; p0 and vm0 are constant (R51). -/
def keysP (p : Nat) : List Nat := if p % 8 = 0 then [] else [wkey 0 2 (p % 8)]
def keysM (p : Nat) : List Nat := if p % 8 = 0 then [] else [wkey 0 3 (p % 8)]

/-- The lane mask that an m field names (R104). -/
def maskKey (m : BitVec 4) : List Nat := keysM (m.toNat / 2)

/-- A result: its register, the cycle offsets it may land at, and whether it is a pending result, which no later bundle overtakes (R68, R140). -/
structure WWrite where
  key : Nat
  lats : List Nat
  pending : Bool := false
  deriving DecidableEq, Repr

/-- What an instruction reads and writes. -/
structure WFlow where
  reads : List Nat := []
  writes : List WWrite := []
  deriving DecidableEq, Repr

/-- Results of latency `n`. -/
def lands (n : Nat) (ks : List Nat) : List WWrite := ks.map (fun k => { key := k, lats := [n] })

/-- Pending results, the earliest after `n` cycles. -/
def pends (n : Nat) (ks : List Nat) : List WWrite := ks.map (fun k => { key := k, lats := [n], pending := true })

/-! ## What is known on entry (R585) -/

/-- The entry state of a bundle: landing offsets by register, known configurations and values, and the engine: cycles until the array is free, and the landings of the
last two MMAs. -/
structure WState where
  fl : Tbl (List Nat)
  cfg : List (Option TileCfg)
  ty : List (Option AccTy)
  sv : List (Option Word)
  sd : List (Option Word)
  eng : Nat × Nat × Nat
  deriving DecidableEq, Repr

def WState.tile (w : WState) (t : BitVec 3) : Option TileCfg := w.cfg.getD t.toNat none
def WState.acc (w : WState) (a : Nat) : Option AccTy := w.ty.getD a none
def WState.sreg (w : WState) (r : Spec) : Option Word := w.sv.getD r.toNat none
def WState.sdesc (w : WState) (n : BitVec 3) : Option Word := w.sd.getD n.toNat none

/-- The cycle counts that an MMA of a format may have: that of its tile, in either mode, or every one a tile of the format allows (R228). -/
def mmaNs (f : Fmt) (c : Option TileCfg) : List Nat :=
  let rbs := match c with
    | some c => [c.rowBytes]
    | none => (List.range 65).filter (fun rb => rb != 0 && f.validBytes rb)
  rbs.flatMap (fun rb => [mmaCycles f (f.elems rb) false, mmaCycles f (f.elems rb) true])

/-- The accumulators that an MMA of a format writes (R209, R233). -/
def mmaAccs (f : Fmt) (acc : BitVec 2) : List Nat := if f = .fp64 then [acc.toNat / 2 * 2, acc.toNat / 2 * 2 + 1] else [acc.toNat]

/-- The members that a readout, ACCZ or ACFG of an accumulator concerns. -/
def WState.members (w : WState) (acc : Nat) (pair : Bool) : List Nat :=
  if pair || w.acc acc == some .fp64 then [acc / 2 * 2, acc / 2 * 2 + 1] else [acc]

/-- The latency of TLL: from the rows of its tile (R66). -/
def tllLats (c : Option TileCfg) : List Nat := match c with | some c => [ceilDiv c.rows 2] | none => (List.range 8).map (· + 1)

/-! ## Local-memory operands (R108 to R112) -/

/-- The stride descriptor read: for a tile always, for one unit in the modes that use it. -/
def lmReads (o : LmOp) (tile : Bool) : List Nat := if tile || o.mode != 0 then [keySd o.sd.toNat] else []
/-- The update of mode 0b10. -/
def lmWrites (o : LmOp) : List WWrite := if o.mode = 2 then lands 1 [keySd o.sd.toNat] else []

/-! ## User-defined instructions (R191, R197) -/

/-- The registers that a micro-operation reads by absolute number, d at issue, and its predicate or mask; `take` where it has the m field of the instruction (R188). -/
def microReads (vslot : Bool) (o : VR) (kind : Nat) (take : Bool) (u : Nat) : List Nat :=
  match uShape vslot u with
  | none => []
  | some s =>
    let f := uFields u
    let op := fld u 28 8
    let masks := vslot && op == 0x0E
    let one (on : Bool) (r : Nat) : List Nat :=
      if !on then []
      else if r < 32 then (if masks then keysM r else if vslot then [keyV r] else [keyS r])
      else if r = 56 then (if kind = 1 then (if vslot then keysM o.d.toNat else keysP o.d.toNat) else if vslot then keysV [o.d] else keysS [o.d])
      else []
    one s.rdA f.2.1 ++ one s.rdB f.2.2.1 ++ one s.rdC f.2.2.2 ++ (if s.rdD && f.1 == 56 then one true 56 else []) ++
      (if vslot then (if masks then [] else keysM (fld u 0 4 / 2)) else if op = 0x0A then keysP (if take then o.m.toNat % 8 else fld u 0 3) else [])

/-- A user-defined instruction under its entry. -/
def userFlow (vslot : Bool) (ent : List Byte) (o : VR) : WFlow :=
  let kind := entryKind ent
  let dst := if kind = 1 then (if vslot then keysM o.d.toNat else keysP o.d.toNat) else if vslot then keysV [o.d] else keysS [o.d]
  let srcs := if vslot then keysV (usedFields ent o) else keysS (usedFields ent o)
  { reads := srcs ++ (List.range (entryCount ent)).flatMap (fun j => microReads vslot o kind (!vslot && entryMtake ent j) (microOp ent j)) ++ (if vslot then maskKey o.m else [])
    writes := lands (entryLat ent) dst }

/-! ## The slots (R66) -/

/-- Sources and a scalar result of a latency. -/
def sFlow (n : Nat) (d : Spec) (srcs : List Spec) : WFlow := { reads := keysS srcs, writes := lands n (keysS [d]) }
/-- Sources and a predicate result of a latency. -/
def pFlow (n : Nat) (d : Spec) (srcs : List Spec) : WFlow := { reads := keysS srcs, writes := lands n (keysP d.toNat) }

/-- The register of a form with a register or an immediate. -/
def regImm : RegImm → List Spec
  | .reg b => [b]
  | .imm _ => []

/-- The S slot but the user-defined opcodes; none for other commands. -/
def flowS : Instr → Option WFlow
  | .nop _ _ => some {}
  | .add _ d a b | .and _ d a b | .or _ d a b | .xor _ d a b | .shl _ d a b | .shr _ d a b | .sra _ d a b => some (sFlow 1 d ([a] ++ regImm b))
  | .sub _ d a b => some (sFlow 1 d [a, b])
  | .mov _ d (.reg a) => some (sFlow 1 d [a])
  | .mov _ d (.imm _) => some (sFlow 1 d [])
  | .movk _ d _ _ => some (sFlow 1 d [d])
  | .sel _ d a b m => some { sFlow 1 d [a, b] with reads := keysS [a, b] ++ keysP m.toNat }
  | .cmpeq _ d a b | .cmplt _ d a b | .cmpltu _ d a b => some (pFlow 1 d ([a] ++ regImm b))
  | .cmpne _ d a b | .cmple _ d a b | .cmpleu _ d a b => some (pFlow 1 d [a, b])
  | .mul _ d a b | .mulh _ _ d a b => some (sFlow 3 d [a, b])
  | .div _ _ d a b | .rem _ _ d a b => some (sFlow 20 d [a, b])
  | .bfx _ d a _ _ _ | .clz _ d a => some (sFlow 1 d [a])
  | .bfi _ d a _ _ _ => some (sFlow 1 d [a, d])
  | .bperm _ d a b c => some (sFlow 1 d [a, b, c])
  | .fadd _ _ d a b _ | .fmul _ _ d a b _ => some (sFlow 4 d [a, b])
  | .fma _ _ d a b c _ => some (sFlow 4 d [a, b, c])
  | .fdiv _ dbl d a b _ => some (sFlow (if dbl then 28 else 16) d [a, b])
  | .fsqrt _ dbl d a _ => some (sFlow (if dbl then 28 else 16) d [a])
  | .fmin _ _ d a b | .fmax _ _ d a b => some (sFlow 2 d [a, b])
  | .fcmp _ _ d a b _ => some (pFlow 2 d [a, b])
  | .fcvt _ d a _ _ => some (sFlow 4 d [a])
  | .lds _ _ d a _ => some (sFlow 2 d [a])
  | .sts _ _ d a _ | .stg _ _ d a _ => some { reads := keysS [d, a] }
  | .ldg _ _ d a _ => some { reads := keysS [a], writes := pends 4 (keysS [d]) }
  | .amo _ _ d a b c _ => some { reads := keysS [a, b, c], writes := pends 1 (keysS [d]) }
  | .cpre _ a _ | .cinv _ a _ | .bri _ a | .loop _ a _ _ => some { reads := keysS [a] }
  | .br _ _ | .loopi _ _ _ _ | .rte _ => some {}
  | .call _ d _ => some (sFlow 1 d [])
  | .calli _ d a => some (sFlow 1 d [a])
  | .crr _ r n => some { sFlow 1 r [] with reads := if crKind n.toNat = 4 then [keySd (n.toNat - 0x030)] else [] }
  | .crw _ r n => some { reads := keysS [r], writes := if crKind n.toNat = 4 then lands 1 [keySd (n.toNat - 0x030)] else [] }
  | .wdt _ a b => some { reads := keysS [a, b] }
  | _ => none

/-- A V-slot instruction with vector sources and result under its mask. -/
def vFlow (n : Nat) (o : VR) (srcs : List Spec) : WFlow := { reads := keysV srcs ++ maskKey o.m, writes := lands n (keysV [o.d]) }
/-- One with a mask result. -/
def vmFlow (n : Nat) (o : VR) (srcs : List Spec) : WFlow := { reads := keysV srcs ++ maskKey o.m, writes := lands n (keysM o.d.toNat) }

/-- The V slot but the user-defined opcodes. -/
def flowV : Instr → Option WFlow
  | .vadd _ o | .vsub _ o | .vand _ o | .vor _ o | .vxor _ o | .vshl _ o | .vshr _ o | .vsra _ o | .vperm _ o => some (vFlow 2 o [o.a, o.b])
  | .vmov _ o => some (vFlow 2 o [o.a])
  | .vbcast _ o => some { vFlow 2 o [] with reads := keysS [o.a] ++ maskKey o.m }
  | .vcmpeq _ o | .vcmplt _ o | .vcmpltu _ o => some (vmFlow 2 o [o.a, o.b])
  | .vmop _ o => some { reads := keysM o.a.toNat ++ (if o.c.toNat % 8 = 4 then [] else keysM o.b.toNat), writes := lands 2 (keysM o.d.toNat) }
  | .vms _ o => some { reads := keysS [o.a], writes := lands 2 (keysM o.d.toNat) }
  | .vsm _ o => some { reads := keysM o.a.toNat, writes := lands 2 (keysS [o.d]) }
  | .vfadd _ _ o | .vfmul _ _ o => some (vFlow 4 o [o.a, o.b])
  | .vfma _ _ o => some (vFlow 4 o [o.a, o.b, o.c])
  | .vmin _ _ o | .vmax _ _ o => some (vFlow 2 o [o.a, o.b])
  | .vfcmp _ _ o => some (vmFlow 2 o [o.a, o.b])
  | .vcvt _ d a _ _ _ m => some { reads := keysV [a] ++ maskKey m, writes := lands 4 (keysV [d]) }
  | .vred _ o => some { reads := keysV [o.a] ++ maskKey o.m, writes := lands 8 (if redScalar o then keysS [o.d] else keysV [o.d]) }
  | .vtr _ o => some { reads := keysV [o.a] ++ maskKey o.m, writes := lands 2 [keyT (o.d.toNat % 8)] }
  | .trv _ o => some { reads := [keyT (o.a.toNat % 8)] ++ maskKey o.m, writes := lands 2 (keysV [o.d]) }
  | _ => none

/-- The M slot. -/
def flowM (w : WState) : Instr → Option WFlow
  | .tcfg _ t _ _ _ _ => some { writes := lands 1 [keyTc t.toNat] }
  | .acfg _ a ty => some { writes := lands 1 ((w.members a.toNat (acfgTy ty == .fp64)).map keyAt) }
  | .mma _ f a x y =>
    match fmtOf f with
    | none => some {}
    | some g =>
      let accs := mmaAccs g a
      let n := (mmaNs g (w.tile x)).map (· + 6)
      some { reads := [keyT x.toNat, keyTc x.toNat, keyT y.toNat, keyTc y.toNat] ++ accs.map keyA ++ accs.map keyAt
             writes := accs.map (fun k => { key := keyMma k, lats := n }) }
  | .accrd _ t a _ _ _ =>
    some { reads := (w.members a.toNat false).flatMap (fun k => [keyA k, keyMma k, keyAt k]), writes := lands 6 [keyT t.toNat, keyTc t.toNat] }
  | .accz _ a => some { reads := [keyAt a.toNat], writes := lands 1 ((w.members a.toNat false).map keyA) }
  | .tcvt _ d a _ _ | .ttr _ d a => some { reads := [keyT a.toNat, keyTc a.toNat], writes := lands 8 [keyT d.toNat, keyTc d.toNat] }
  | _ => none

/-- The L, T and Y slots. -/
def flowL (w : WState) : Instr → Option WFlow
  | .tll _ t o =>
    some { reads := keyTc t.toNat :: lmReads o true, writes := [{ key := keyT t.toNat, lats := tllLats (w.tile t) }] ++ lmWrites o }
  | .vld _ d o => some { reads := lmReads o false, writes := lands 3 (keysV [d]) ++ lmWrites o }
  | .tlg _ t b s => some { reads := keyTc t.toNat :: keysS [b, s], writes := pends 1 [keyT t.toNat] }
  | .vldg _ d b _ => some { reads := keysS [b], writes := pends 4 (keysV [d]) }
  | .tsl _ t o => some { reads := [keyT t.toNat, keyTc t.toNat] ++ lmReads o true, writes := lmWrites o }
  | .vst _ v o => some { reads := keysV [v] ++ lmReads o false, writes := lmWrites o }
  | .accst _ a o _ _ _ =>
    some { reads := (w.members a.toNat false).flatMap (fun k => [keyA k, keyMma k, keyAt k]) ++ lmReads o true, writes := lmWrites o }
  | .tsg _ t b s => some { reads := [keyT t.toNat, keyTc t.toNat] ++ keysS [b, s] }
  | .vstg _ v b _ => some { reads := keysV [v] ++ keysS [b] }
  | .put _ d l _ => some { reads := keysS [d, l] }
  | .send _ _ a b => some { reads := keysS [a, b] }
  | .sendt _ _ a b p => some { reads := keysS [a, b], writes := lands 1 (keysP p.toNat) }
  | .qsel _ d a b _ _ => some { reads := keysS [a, b], writes := lands 1 (keysS [d]) }
  | .fork _ d a b => some { reads := keysS [a, b], writes := lands 1 (keysS [d]) }
  | .join _ a => some { reads := keysS [a] }
  | .evwait _ a b => some { reads := keysS [a, b] }
  | _ => none

/-- What an instruction reads and writes, with the image's decode table. -/
def flowOf (tab : Tbl (List Byte)) (w : WState) (x : Instr) : WFlow :=
  match x with
  | .userDefinedOpcode _ v e o => userFlow v (tblGet [] tab (entryIndex v e)) o
  | _ => match flowS x with
    | some f => f
    | none => match flowV x with
      | some f => f
      | none => match flowM w x with
        | some f => f
        | none => (flowL w x).getD {}

/-! ## The operand bits that are not reserved (R87, R97 to R114) -/

/-- Bits [lo + n - 1 : lo] set. -/
def bitsAt (lo n : Nat) : Nat := (2 ^ n - 1) * 2 ^ lo

def bD : Nat := bitsAt 22 6
def bD3 : Nat := bitsAt 22 3
def bA : Nat := bitsAt 16 6
def bA3 : Nat := bitsAt 16 3
def bB : Nat := bitsAt 10 6
def bC : Nat := bitsAt 4 6
def bM : Nat := bitsAt 0 4
def bImm : Nat := bitsAt 0 16

/-- The last operand of the forms SR and SI. -/
def bRI : RegImm → Nat
  | .reg _ => bB
  | .imm _ => bImm

/-- The S slot's operand bits. -/
def usedS : Instr → Option Nat
  | .add _ _ _ b | .and _ _ _ b | .or _ _ _ b | .xor _ _ _ b | .shl _ _ _ b | .shr _ _ _ b | .sra _ _ _ b => some (bD + bA + bRI b)
  | .sub _ _ _ _ | .mul _ _ _ _ | .mulh _ _ _ _ _ | .div _ _ _ _ _ | .rem _ _ _ _ _ | .fmin _ _ _ _ _ | .fmax _ _ _ _ _ => some (bD + bA + bB)
  | .mov _ _ (.reg _) | .clz _ _ _ => some (bD + bA)
  | .mov _ _ (.imm _) => some (bD + bitsAt 0 22)
  | .movk _ _ _ _ => some (bD + bitsAt 16 2 + bImm)
  | .sel _ _ _ _ _ => some (bD + bA + bB + bitsAt 0 3)
  | .cmpeq _ _ _ b | .cmplt _ _ _ b | .cmpltu _ _ _ b => some (bD3 + bA + bRI b)
  | .cmpne _ _ _ _ | .cmple _ _ _ _ | .cmpleu _ _ _ _ => some (bD3 + bA + bB)
  | .bfx _ _ _ _ _ _ => some (bD + bA + bB + bC + 1)
  | .bfi _ _ _ _ _ _ | .bperm _ _ _ _ _ => some (bD + bA + bB + bC)
  | .fadd _ _ _ _ _ _ => some (bD + bA + bB + bitsAt 2 2 + 1)
  | .fmul _ _ _ _ _ _ => some (bD + bA + bB + bitsAt 1 3)
  | .fma _ _ _ _ _ _ _ | .amo _ _ _ _ _ _ _ => some (bD + bA + bB + bC + bM)
  | .fdiv _ _ _ _ _ _ => some (bD + bA + bB + bitsAt 2 2)
  | .fsqrt _ _ _ _ _ => some (bD + bA + bitsAt 2 2)
  | .fcmp _ _ _ _ _ _ => some (bD3 + bA + bB + bitsAt 0 2)
  | .fcvt _ _ _ _ _ => some (bD + bA + bitsAt 4 4 + bitsAt 2 2)
  | .lds _ _ _ _ _ | .sts _ _ _ _ _ | .ldg _ _ _ _ _ | .stg _ _ _ _ _ => some (bD + bA + bImm)
  | .cpre _ _ _ | .cinv _ _ _ => some (bA + bImm)
  | .br _ _ | .call _ _ _ | .loop _ _ _ _ | .loopi _ _ _ _ => some (bitsAt 0 28)
  | .bri _ _ => some bA
  | .calli _ _ _ => some (bD + bA)
  | .crr _ _ _ | .crw _ _ _ => some (bD + bitsAt 0 12)
  | .wdt _ _ _ => some (bA + bB)
  | _ => none

/-- The V slot's operand bits. -/
def usedV : Instr → Option Nat
  | .vadd _ _ | .vsub _ _ | .vand _ _ | .vor _ _ | .vxor _ _ | .vshl _ _ | .vshr _ _ | .vsra _ _ | .vperm _ _ => some (bD + bA + bB + bitsAt 4 3 + bM)
  | .vmov _ _ => some (bD + bA + bM)
  | .vbcast _ _ => some (bD + bA + bitsAt 4 3 + bM)
  | .vcmpeq _ _ | .vcmplt _ _ | .vcmpltu _ _ => some (bD3 + bA + bB + bitsAt 4 3 + bM)
  | .vmop _ _ => some (bD3 + bA3 + bitsAt 10 3 + bitsAt 4 3)
  | .vms _ _ => some (bD3 + bA)
  | .vsm _ _ => some (bD + bA3)
  | .vfadd _ _ _ => some (bD + bA + bB + bitsAt 4 1 + bM)
  | .vfmul _ _ _ | .vmin _ _ _ | .vmax _ _ _ => some (bD + bA + bB + bM)
  | .vfma _ _ _ => some (bD + bA + bB + bC + bM)
  | .vfcmp _ _ _ => some (bD3 + bA + bB + bitsAt 4 2 + bM)
  | .vcvt _ _ _ _ _ _ _ => some (bD + bA + bitsAt 8 8 + bM)
  | .vred _ _ => some (bD + bA + bitsAt 10 3 + bitsAt 15 1 + bitsAt 4 3 + bM)
  | .vtr _ _ => some (bD3 + bA + bitsAt 4 4 + bM)
  | .trv _ _ => some (bD + bA3 + bitsAt 4 4 + bM)
  | _ => none

/-- The operand bits of the M, L, T and Y slots; the others use none. -/
def usedM : Instr → Nat
  | .tcfg _ _ _ _ _ _ => bitsAt 8 20
  | .acfg _ _ _ => bitsAt 24 4
  | .mma _ _ _ _ _ | .accrd _ _ _ _ _ _ | .tcvt _ _ _ _ _ => bitsAt 16 12
  | .accz _ _ => bitsAt 26 2
  | .ttr _ _ _ => bitsAt 22 6
  | .tll _ _ _ | .tsl _ _ _ => bitsAt 7 21
  | .vld _ _ _ | .vst _ _ _ => bitsAt 4 24
  | .tlg _ _ _ _ | .tsg _ _ _ _ => bitsAt 13 15
  | .vldg _ _ _ _ | .vstg _ _ _ _ => bitsAt 0 28
  | .accst _ _ _ _ _ _ => bitsAt 1 27
  | .put _ _ _ _ => bitsAt 8 20
  | .send _ _ _ _ => bitsAt 9 19
  | .sendt _ _ _ _ _ => bitsAt 6 22
  | .commit _ _ => bitsAt 21 7
  | .qsel _ _ _ _ _ _ => bitsAt 5 23
  | .fork _ _ _ _ => bitsAt 10 18
  | .join _ _ => bA
  | .barArrive _ _ | .barWait _ _ => bitsAt 20 8
  | .evwait _ _ _ => bA + bB
  | _ => 0

/-- The operand bits of a user-defined instruction: an unused field is checked as R194 says; m of an S entry without mtake, and the bits above a predicate or mask, are
reserved (R92, R193). -/
def usedUser (vslot : Bool) (ent : List Byte) : Nat :=
  (if entryKind ent = 1 then bD3 else bD) + bA + bB + bC + (if vslot || fld (entryHeader ent) 0 16 != 0 then bM else 0)

/-- The operand bits that an instruction uses. -/
def usedBits (tab : Tbl (List Byte)) (x : Instr) : Nat :=
  match x with
  | .userDefinedOpcode _ v e _ => usedUser v (tblGet [] tab (entryIndex v e))
  | _ => match usedS x with
    | some b => b
    | none => (usedV x).getD (usedM x)

end Sys2Proof.Machine
end

