-- ==== Sys2Proof/Machine/Waymark.lean ====
section
/-! DEFINITION. The Waymark verifier (R576 to R578, R584 to R588): the image's header and sections, the check of each bundle, the fixed point of the entry states, the report. -/

namespace Sys2Proof.Machine

/-! ## Findings (R587, R588) -/

/-- A check that an image breaks: bundle index, code, slot (7 for none), item. -/
structure Finding where
  bundle : Nat
  code : Nat
  slot : Nat
  item : Nat
  deriving DecidableEq, Repr

/-- Does one finding come before another: lower bundle, then lower code, then earlier slot? -/
def Finding.before (a b : Finding) : Bool :=
  decide (a.bundle < b.bundle) || (a.bundle == b.bundle && (decide (a.code < b.code) || (a.code == b.code && decide (a.slot < b.slot))))

/-- The finding that the report names. -/
def firstFinding (l : List Finding) : Option Finding :=
  l.foldl (fun acc f => match acc with | none => some f | some g => if f.before g then some f else acc) none

/-- The 47 bits of a rejection (R588). -/
def reportWord (f : Finding) : Word := w64 (f.code * 2 ^ 39 + f.slot * 2 ^ 36 + f.item % 512 * 2 ^ 27 + f.bundle % 2 ^ 27)

/-- A finding of no bundle. -/
def imageFinding (code item : Nat) : Finding := { bundle := 0, code := code, slot := 7, item := item }

/-! ## The header and the sections (R576 to R578) -/

/-- An image as its header describes it. -/
structure Image where
  sup : Bool
  codeOff : Nat
  bundles : List Nat
  entry : Nat
  handler : Nat
  idepth : Nat
  hdepth : Nat
  targets : List Nat
  records : List (List Byte)
  deriving DecidableEq, Repr

/-- Word i of the header. -/
def headWord (img : List Byte) (i : Nat) : Nat := ofBytes (sliceBytes img (8 * i) 8)

/-- The sections that the header names: header word, first byte, length. -/
def sectionsOf (img : List Byte) : List (Nat × Nat × Nat) :=
  [(1, fld (headWord img 1) 0 32, 32 * fld (headWord img 1) 32 32), (3, fld (headWord img 3) 0 32, 128 * fld (headWord img 3) 32 7),
   (4, fld (headWord img 4) 0 32, 4 * fld (headWord img 4) 32 32)]

/-- Two sections, neither of them empty, that overlap. -/
def sectionsMeet (a b : Nat × Nat × Nat) : Bool := a.2.2 != 0 && b.2.2 != 0 && overlaps a.2.1 a.2.2 b.2.1 b.2.2

/-- The indirect targets listed. -/
def targetsOf (img : List Byte) : List Nat :=
  (List.range (fld (headWord img 4) 32 32)).map (fun i => ofBytes (sliceBytes img (fld (headWord img 4) 0 32 + 4 * i) 4))

/-- Is a word of the header malformed by itself (R576)? -/
def headBad (img : List Byte) (i : Nat) : Bool :=
  let w := headWord img i
  match i with
  | 0 => decide (img.length < 64) || fld w 0 32 != 0x49485541 || fld w 32 8 != 1 || fld w 41 23 != 0
  | 1 => fld w 0 32 % 2048 != 0 || fld w 32 32 == 0 || decide (2 ^ 27 < fld w 32 32)
  | 3 => fld w 0 32 % 32 != 0 || decide (64 < fld w 32 7) || bitOf w 39 || fld w 44 20 != 0
  | 4 => fld w 0 32 % 4 != 0
  | 5 | 6 | 7 => w != 0
  | _ => false

/-- Does a section lie outside the image, or over the header or an earlier section (R578)? -/
def sectionBad (img : List Byte) (s : Nat × Nat × Nat) : Bool :=
  (s.2.2 != 0 && decide (img.length < s.2.1 + s.2.2)) || sectionsMeet s (0, 0, 64) ||
    (sectionsOf img).any (fun r => decide (r.1 < s.1) && sectionsMeet r s)

/-- The first header word at fault (R576, R578). -/
def headFault (img : List Byte) : Option Nat :=
  match (List.range 8).find? (headBad img) with
  | some i => some i
  | none => match (sectionsOf img).find? (sectionBad img) with
    | some s => some s.1
    | none =>
      let nb := fld (headWord img 1) 32 32
      let h := fld (headWord img 2) 32 32
      if nb ≤ fld (headWord img 2) 0 32 then some 2
      else if bitOf (headWord img 0) 40 && h != 0xFFFFFFFF && (h % 64 != 0 || decide (nb < h + 64)) then some 2
      else if (targetsOf img).any (fun t => decide (nb ≤ t)) then some 4
      else none

/-- The image that the bytes hold. -/
def imageOf (img : List Byte) : Image :=
  let co := fld (headWord img 1) 0 32
  let tab := fld (headWord img 3) 0 32
  { sup := bitOf (headWord img 0) 40, codeOff := co
    bundles := (List.range (fld (headWord img 1) 32 32)).map (fun i => ofBytes (sliceBytes img (co + 32 * i) 32))
    entry := fld (headWord img 2) 0 32, handler := fld (headWord img 2) 32 32
    idepth := fld (headWord img 3) 40 2, hdepth := fld (headWord img 3) 42 2, targets := targetsOf img
    records := (List.range (fld (headWord img 3) 32 7)).map (fun i => sliceBytes img (tab + 128 * i) 128) }

/-- The entry index and the entry of a table record (R577). -/
def recordEntry (r : List Byte) : Nat × List Byte := (ofBytes (sliceBytes r 0 8) % 64, sliceBytes r 32 96)

/-- The decode table that the image's section writes (R186). -/
def Image.table (x : Image) : List (Nat × List Byte) := x.records.map recordEntry

/-- Are reserved bits of a record set (R577)? -/
def recordReserved (r : List Byte) : Bool := decide (64 ≤ ofBytes (sliceBytes r 0 8)) || ofBytes (sliceBytes r 8 24) != 0

/-- The findings of the table section: codes 0x60 and 0x61. -/
def tableFindings (x : Image) : List Finding :=
  ((List.range x.records.length).zip x.records).flatMap (fun p =>
    let e := recordEntry p.2
    let again := (x.table.take p.1).any (fun f => f.1 == e.1)
    (if recordReserved p.2 || again then [imageFinding 0x60 p.1] else []) ++
      (if entryValid e.2 && inconsistent (decide (32 ≤ e.1)) e.2 then [imageFinding 0x61 p.1] else []))

/-- The header's findings: code 0x01, then 0x02 where the handler does not suit sup. -/
def headFindings (img : List Byte) : List Finding :=
  match headFault img with
  | some i => [imageFinding 0x01 i]
  | none =>
    let x := imageOf img
    if x.sup == (x.handler == 0xFFFFFFFF) then [imageFinding 0x02 0] else []

/-! ## Bundles -/

/-- A present slot that may execute: its place in the order S to Y, its guard, its instruction. -/
structure WSlot where
  slot : Nat
  guard : Guard
  ins : Instr
  deriving DecidableEq, Repr

/-- Does a guard always hold, or never (R90)? -/
def guardSure (g : Guard) : Bool := g.pred == 0 && !g.inv
def guardNever (g : Guard) : Bool := g.pred == 0 && g.inv

/-- A core that holds the image's table, for the decode of its user-defined opcodes. -/
def tableCore (x : Image) : Core := { dtable := x.table }

/-- The six slots of a bundle, with their present bits and their 40 bits. -/
def rawSlots (n : Nat) : List (Nat × Slot × Bool × Nat) :=
  [(0, Slot.s), (1, .v), (2, .m), (3, .l), (4, .t), (5, .y)].map (fun p => (p.1, p.2, bitOf n (slotAt p.2).2, fld n (slotAt p.2).1 40))

/-- Is a decoded slot an instruction that decode lets run? -/
def slotLegal (x : Image) (i : Instr) : Bool := match slotDef (tableCore x) 0 i with | some d => d.illegal.isNone | none => false

/-- The slots of a bundle that may execute, in order. -/
def wslots (x : Image) (n : Nat) : List WSlot :=
  (rawSlots n).filterMap (fun p =>
    if !p.2.2.1 then none
    else match decodeSlot 0 p.2.1 p.2.2.2 with
      | .ok i => if slotLegal x i && !guardNever (guardBits p.2.2.2) then some { slot := p.1, guard := guardBits p.2.2.2, ins := i } else none
      | .illegal _ _ => none)

/-- A bundle of the code section. -/
def Image.bundle (x : Image) (i : Nat) : Nat := x.bundles.getD i 0

/-- The level and the end offset of a LOOP or LOOPI. -/
def loopOf : Instr → Option (Nat × Nat)
  | .loop _ _ l e => some (l.toNat, e.toNat)
  | .loopi _ _ l e => some (l.toNat, e.toNat)
  | _ => none

/-- The loops of the code section: LOOP bundle, level, end bundle. -/
def Image.loops (x : Image) : List (Nat × Nat × Nat) :=
  ((List.range x.bundles.length).zip x.bundles).flatMap (fun p =>
    (wslots x p.2).filterMap (fun s => (loopOf s.ins).map (fun l => (p.1, l.1, p.1 + l.2))))

/-- The offset in bundles of a direct branch or call (R102). -/
def branchOff : Instr → Option Int
  | .br _ o => some (sInt 28 o.toNat)
  | .call _ _ o => some (sInt 22 o.toNat)
  | _ => none

/-- CALL or CALLI. -/
def isCall : Instr → Bool
  | .call _ _ _ => true
  | .calli _ _ _ => true
  | _ => false

/-- Does a present slot of a bundle hold an instruction? -/
def bundleHas (n : Nat) (p : Instr → Bool) : Bool :=
  (rawSlots n).any (fun s => s.2.2.1 && (match decodeSlot 0 s.2.1 s.2.2.2 with | .ok i => p i | .illegal _ _ => false))

/-- The start points but the entry and the return points: bundle and depth (R584). -/
def Image.starts (x : Image) : List (Nat × Nat) :=
  x.targets.map (fun t => (t, x.idepth)) ++
    (if x.sup then [1, 2, 3, 4, 5].map (fun l => (x.handler + 8 * l, x.hdepth)) else [])

/-- Must a bundle have QUIET: a start point other than the entry, or one that holds RTE (R79, R584)? -/
def Image.needsQuiet (x : Image) (i : Nat) : Bool :=
  x.starts.any (fun s => s.1 == i) || (i != 0 && bundleHas (x.bundle (i - 1)) isCall) ||
    bundleHas (x.bundle i) (fun c => match c with | .rte _ => true | _ => false)

/-! ## The check of a bundle by itself -/

/-- The windows that a slot names. -/
def slotWins (x : Image) (i : Instr) : List Nat := match slotDef (tableCore x) 0 i with | some d => d.wins.map Prod.fst | none => []

/-- The item of code 0x14: a control register, or 0. -/
def privItem : Instr → Nat
  | .crr _ _ n => if crKind n.toNat = 4 then keySd (n.toNat - 0x030) else wkey 0 7 n.toNat
  | .crw _ _ n => if crKind n.toNat = 4 then keySd (n.toNat - 0x030) else wkey 0 7 n.toNat
  | _ => 0

/-- The findings of one present slot: codes 0x10, 0x11, 0x14, 0x62, 0x70. -/
def slotFindings (x : Image) (i : Nat) (w : Nat) (u : Nat) (c : Instr) : List Finding :=
  let at_ (code item : Nat) : Finding := { bundle := i, code := code, slot := w, item := item }
  match slotDef (tableCore x) 0 c with
  | none => []
  | some d =>
    let bad := match d.illegal with
      | some 4 => [at_ 0x62 (fld u 28 8 - 0xE0)]
      | some _ => [at_ 0x10 0]
      | none => if !x.sup && d.priv {} then [at_ 0x14 (privItem c)] else []
    let reserved := if fld u 0 28 &&& usedBits x.table c != fld u 0 28 then [at_ 0x11 0] else []
    let out (o : Int) : Bool := decide ((i : Int) + o < 0) || decide ((x.bundles.length : Int) ≤ i + o)
    let branch := match branchOff c with
      | some o => if out o then [at_ 0x70 0] else []
      | none => []
    let ret := if isCall c && i + 1 == x.bundles.length then [at_ 0x70 0] else []
    bad ++ reserved ++ branch ++ ret

/-- The findings of a bundle by itself (log 53, DEDUCED). -/
def bundleFindings (x : Image) (i : Nat) : List Finding :=
  let n := x.bundle i
  let at_ (code slot item : Nat) : Finding := { bundle := i, code := code, slot := slot, item := item }
  let head := if fld n 240 9 != 0 then [at_ 0x11 7 0] else []
  let quiet := if x.needsQuiet i && !bitOf n 255 then [at_ 0x22 7 0] else []
  let slots := (rawSlots n).flatMap (fun p =>
    if !p.2.2.1 then (if p.2.2.2 != 0 then [at_ 0x12 p.1 0] else [])
    else match decodeSlot 0 p.2.1 p.2.2.2 with
      | .illegal _ _ => [at_ 0x10 p.1 0]
      | .ok c => slotFindings x i p.1 p.2.2.2 c)
  let winsAt (w : Nat) : List Nat := (rawSlots n).flatMap (fun p =>
    if p.1 == w && p.2.2.1 then (match decodeSlot 0 p.2.1 p.2.2.2 with | .ok c => slotWins x c | .illegal _ _ => []) else [])
  let clash := match (List.range 16).find? (fun w => (winsAt 0).contains w && (winsAt 1).contains w) with
    | some w => [at_ 0x13 0 w]
    | none => []
  head ++ quiet ++ slots ++ clash

/-! ## Entry states (R585) -/

/-- Insertion into a rising list without repeats. -/
def insertNat (x : Nat) : List Nat → List Nat
  | [] => [x]
  | y :: t => if x = y then y :: t else if x < y then x :: y :: t else y :: insertNat x t

/-- The union of two landing tables. -/
def unionFl (a b : Tbl (List Nat)) : Tbl (List Nat) := b.foldl (fun t e => tblMod [] t e.1 (fun l => e.2.foldl (fun l o => insertNat o l) l)) a

/-- A value or configuration kept where both predecessors agree. -/
def agree {α : Type} [DecidableEq α] (a b : Option α) : Option α := if a = b then a else none

/-- The worst case of two entry states (R585). -/
def WState.join (a b : WState) : WState :=
  { fl := unionFl a.fl b.fl, cfg := (a.cfg.zip b.cfg).map (fun p => agree p.1 p.2), ty := (a.ty.zip b.ty).map (fun p => agree p.1 p.2)
    sv := (a.sv.zip b.sv).map (fun p => agree p.1 p.2), sd := (a.sd.zip b.sd).map (fun p => agree p.1 p.2)
    eng := (min a.eng.1 b.eng.1, min a.eng.2.1 b.eng.2.1, min a.eng.2.2 b.eng.2.2) }

/-- The entry state `n` cycles later. -/
def WState.after (w : WState) (n : Nat) : WState :=
  { w with fl := (w.fl.map (fun e => (e.1, (e.2.filter (fun o => decide (n < o))).map (· - n)))).filter (fun e => !e.2.isEmpty)
           eng := (w.eng.1 - n, w.eng.2.1 - n, w.eng.2.2 - n) }

/-- The entry state of the entry bundle, and of the other start points (R50, R584). -/
def entryState : WState :=
  { fl := [], cfg := List.replicate 8 (some {}), ty := List.replicate 4 (some .fp32), sv := List.replicate 32 none, sd := List.replicate 8 none, eng := (0, 0, 0) }
def startState : WState := { entryState with cfg := List.replicate 8 none, ty := List.replicate 4 none }

/-! ## A bundle under an entry state -/

/-- MMA. -/
def isMmaIns : Instr → Bool
  | .mma _ _ _ _ _ => true
  | _ => false

/-- The state in which a bundle issues: after QUIET, or after the wait that the thread's own MMAs cause (R230, R232, R586). -/
def WState.issue (w : WState) (quiet : Bool) (l : List WSlot) : WState :=
  if quiet then { w with fl := [], eng := (0, 0, 0) }
  else if l.any (fun s => isMmaIns s.ins && (guardSure s.guard)) then w.after (max w.eng.1 w.eng.2.2)
  else w

/-- A value that a slot gives a scalar register, where R585 derives it. -/
def derived (w : WState) (x : Instr) : Option Word :=
  match x with
  | .mov _ _ (.imm v) => some (signExt 22 v.toNat)
  | .movk _ d h v => (w.sreg d).map (fun o => opMovk o (h.toNat % 4) v)
  | .add _ _ a (.imm v) => (w.sreg a).map (fun y => y + imm16 v)
  | .and _ _ a (.imm v) => (w.sreg a).map (fun y => y &&& imm16 v)
  | .or _ _ a (.imm v) => (w.sreg a).map (fun y => y ||| imm16 v)
  | .xor _ _ a (.imm v) => (w.sreg a).map (fun y => y ^^^ imm16 v)
  | .shl _ _ a (.imm v) => (w.sreg a).map (fun y => opShl y (imm16 v))
  | .shr _ _ a (.imm v) => (w.sreg a).map (fun y => opShr y (imm16 v))
  | .sra _ _ a (.imm v) => (w.sreg a).map (fun y => opSra y (imm16 v))
  | _ => none

/-- A value that a CRW gives a stride descriptor; every other write leaves it unknown. -/
def derivedSd (w : WState) (x : Instr) : Option Word :=
  match x with
  | .crw _ r _ => (w.sreg r).map (fun y => y &&& sdMask)
  | _ => none

/-- The list with entry `i` replaced; a slot that may not execute keeps a value only where both agree. -/
def putKnown {α : Type} [DecidableEq α] (l : List (Option α)) (i : Nat) (v : Option α) (sure : Bool) : List (Option α) :=
  listMod i (fun o => if sure then v else agree o v) l

/-- The configuration that ACCRD, TCVT or TTR gives a tile, where it is known (R215, R243, R246). -/
def derivedCfg (w : WState) (x : Instr) : Option TileCfg :=
  match x with
  | .tcfg _ _ r b f s => some (tcfgOf r b f s)
  | .accrd _ _ a f _ h =>
    match w.acc a.toNat, fmtOf f with
    | some ty, some g => (readoutOf ty g h).map (fun o => { rows := 16, rowBytes := o.rowBytes, fmt := f, scale := 0 })
    | _, _ => none
  | .tcvt _ _ a f _ =>
    match w.tile a, fmtOf f with
    | some c, some g => (fmtOf c.fmt).map (fun s =>
        { rows := c.rows, rowBytes := g.bytesFor (s.elems c.rowBytes), fmt := f, scale := g.scaleFor (g.bytesFor (s.elems c.rowBytes)) })
    | _, _ => none
  | .ttr _ _ a =>
    match w.tile a with
    | some c => (fmtOf c.fmt).map (fun s => { rows := s.elems c.rowBytes, rowBytes := c.rows * (s.bits / 8), fmt := c.fmt, scale := 0 })
    | none => none
  | _ => none

/-- The types after an ACFG (R210): a member whose partner may have been its pair becomes unknown. -/
def acfgTypes (w : WState) (a : Nat) (ty : AccTy) (sure : Bool) : List (Option AccTy) :=
  let l := (w.members a (ty == .fp64)).foldl (fun l k => putKnown l k (some ty) sure) w.ty
  if (w.acc a).isNone && ty != .fp64 then listMod (a / 2 * 2 + (1 - a % 2)) (fun _ => none) l else l

/-- What is known after a slot: values, configurations and types. -/
def WState.learn (w0 w : WState) (x : Instr) (sure : Bool) (f : WFlow) : WState :=
  let w := f.writes.foldl (fun (w : WState) (r : WWrite) =>
    let cls := r.key / 64
    let n := r.key % 64
    if cls = 0 then { w with sv := putKnown w.sv n (derived w0 x) sure }
    else if cls = 6 then { w with sd := putKnown w.sd n (derivedSd w0 x) sure }
    else if cls = 8 + 4 then { w with cfg := putKnown w.cfg n (derivedCfg w0 x) sure }
    else w) w
  match x with
  | .acfg _ a ty => { w with ty := acfgTypes { w0 with ty := w.ty } a.toNat (acfgTy ty) sure }
  | _ => w

/-- The engine after an MMA that surely issues: its array cycles at least, and the last two landings. -/
def WState.mma (w : WState) (x : Instr) : WState :=
  match x with
  | .mma _ f _ a _ =>
    match fmtOf f with
    | some g =>
      let n := (mmaNs g (w.tile a)).foldl min 64
      { w with eng := (n, n + 6, w.eng.2.1) }
    | none => w
  | _ => w

/-- The state after a bundle's slots, at its issue cycle. -/
def afterSlots (tab : Tbl (List Byte)) (w : WState) (l : List WSlot) : WState :=
  let fl := l.foldl (fun t s => (flowOf tab w s.ins).writes.foldl (fun t r =>
    if r.pending then t else tblMod [] t r.key (fun os => r.lats.foldl (fun os o => insertNat o os) os)) t) w.fl
  let w1 := l.foldl (fun v s => WState.learn w v s.ins (guardSure s.guard) (flowOf tab w s.ins)) w
  let w2 := (l.filter (fun s => (guardSure s.guard))).foldl (fun (v : WState) s => if isMmaIns s.ins then { v with eng := (w.mma s.ins).eng } else v) w1
  { w2 with fl := fl }

/-! ## The checks that need the entry state -/

/-- May two slots of a bundle both execute: not under a predicate and its inversion? -/
def bothRun (a b : Guard) : Bool := !(a.pred == b.pred && a.inv != b.inv)

/-- Code 0x20: the registers of a slot, its guard's predicate among them (R90), read before their results have landed. -/
def earlyReads (w : WState) (g : Guard) (f : WFlow) : List Nat := (keysP g.pred.toNat ++ f.reads).filter (fun k => !(tblGet [] w.fl k).isEmpty)

/-- Code 0x21 against results in flight: a result that can land with or before one; MMAs land in issue order (R233). -/
def lateWrites (w : WState) (f : WFlow) : List Nat :=
  (f.writes.filter (fun r => decide (r.key < 1024) && (tblGet [] w.fl r.key).any (fun o => decide (r.lats.foldl min 127 ≤ o)))).map WWrite.key

/-- Can the result of a later slot land in the cycle of the result `q` of an earlier one, or before it? A pending result lands in any cycle from its earliest on (R68). -/
def overtakes (q r : WWrite) : Bool := q.pending || q.lats.any (fun o => decide (r.lats.foldl min 127 ≤ o))

/-- Code 0x21 within the bundle: a result that can land with or before that of an earlier slot. -/
def slotClashes (tab : Tbl (List Byte)) (w : WState) (l : List WSlot) (s : WSlot) : List Nat :=
  let mine := (flowOf tab w s.ins).writes
  (mine.filter (fun r => l.any (fun p => decide (p.slot < s.slot) && bothRun p.guard s.guard &&
    (flowOf tab w p.ins).writes.any (fun q => q.key == r.key && overtakes q r)))).map WWrite.key

/-- The last unit of a footprint whose offset and stride are known (R110, R111). -/
def footprintEnd (w : WState) (o : LmOp) (rows : Nat) (scale : Bool) : Option Nat :=
  match w.sdesc o.sd with
  | none => if o.mode = 0 ∧ rows ≤ 1 then some (o.lm13.toNat + b1 scale) else none
  | some d => some (o.lm13.toNat + (if o.mode = 0 then 0 else sdOffset d) + (rows - 1) * sdStride d + b1 scale)

/-- Code 0x40. -/
def wraps (w : WState) (x : Instr) : Option Nat :=
  let pastEnd (o : LmOp) (rows : Nat) (scale : Bool) : Option Nat :=
    match footprintEnd w o rows scale with
    | some e => if 8191 < e then some (keySd o.sd.toNat) else none
    | none => none
  let tile (t : BitVec 3) (o : LmOp) : Option Nat := match w.tile t with | some c => pastEnd o c.rows (c.scale != 0) | none => pastEnd o 1 false
  match x with
  | .tll _ t o => tile t o
  | .tsl _ t o => tile t o
  | .vld _ _ o => pastEnd o 1 false
  | .vst _ _ o => pastEnd o 1 false
  | .accst _ _ o _ _ _ => pastEnd o 16 false
  | _ => none

/-- The context that a check of known configurations sees. -/
def knownCtx (w : WState) : Ctx :=
  { tcfg := (List.range 8).map (fun t => (t, ((w.cfg.getD t none).getD {}))), accTy := (List.range 4).map (fun a => (a, ((w.ty.getD a none).getD .fp32))) }

/-- The item of a mismatch of an MMA, under what is known (R217). -/
def mmaItem (w : WState) (f : BitVec 4) (acc : BitVec 2) (a b : BitVec 3) : Option Nat :=
  match fmtOf f with
  | none => none
  | some g =>
    let wrong (t : BitVec 3) : Bool := (w.tile t).elim false (fun c => c.fmt != f)
    let bytes : Bool := match w.tile a, w.tile b with | some c, some d => c.rowBytes != d.rowBytes | _, _ => false
    let ty : Bool := (mmaAccs g acc).any (fun k => (w.acc k).elim false (fun t => t != g.accTy))
    if wrong a then some (keyT a.toNat) else if wrong b || bytes then some (keyT b.toNat)
    else if ty || (g == .fp64 && acc.toNat % 2 == 1) then some (keyA acc.toNat) else none

/-- Codes 0x50 and 0x51, with their items. -/
def shapeFinding (w : WState) (x : Instr) : Option (Nat × Nat) :=
  let readout (a : BitVec 2) (f : BitVec 4) : Option (Nat × Nat) :=
    if (w.acc a.toNat).isSome && (readoutFault .m (knownCtx w) a.toNat f).isSome then some (0x51, keyA a.toNat) else none
  match x with
  | .tcfg _ t r b f s => if (tcfgOf r b f s).ok then none else some (0x50, keyT t.toNat)
  | .mma _ f acc a b => (mmaItem w f acc a b).map (fun i => (0x51, i))
  | .accrd _ _ a f _ _ => readout a f
  | .accst _ a _ f _ _ => readout a f
  | .tcvt _ _ a f _ => if (w.tile a).isSome && (tcvtFault (knownCtx w) a.toNat f).isSome then some (0x51, keyT a.toNat) else none
  | .ttr _ _ a => if (w.tile a).isSome && (ttrFault (knownCtx w) a.toNat).isSome then some (0x51, keyT a.toNat) else none
  | _ => none

/-- Code 0x11 for the half bit of a readout of an accumulator known to be no FP64 pair (R107). -/
def halfReserved (w : WState) (x : Instr) : Bool :=
  let odd (a : BitVec 2) (h : Bool) : Bool := h && (match w.acc a.toNat with | some t => t != .fp64 | none => false)
  match x with
  | .accrd _ _ a _ _ h => odd a h
  | .accst _ a _ _ _ h => odd a h
  | _ => false

/-- Code 0x52: the accumulator of an ACCZ or ACFG with an MMA of the thread in the engine (R234). -/
def engineBusy (w : WState) (x : Instr) : Option Nat :=
  let busy (a : Nat) (pair : Bool) : Option Nat :=
    if (w.members a pair).any (fun k => !(tblGet [] w.fl (keyMma k)).isEmpty) then some (keyA a) else none
  match x with
  | .accz _ a => busy a.toNat false
  | .acfg _ a ty => busy a.toNat (acfgTy ty == .fp64)
  | _ => none

/-- Codes 0x30 and 0x31 of a LOOP or LOOPI at a depth. -/
def loopFinding (x : Image) (i d : Nat) (c : Instr) : Option (Nat × Nat) :=
  match loopOf c with
  | none => none
  | some (l, e) =>
    if l != d then some (0x30, l)
    else if x.bundles.length ≤ i + e ∨ x.loops.any (fun p => p.2.2 == i && decide (p.2.1 < d)) then some (0x31, l)
    else none

/-- What a CRW to cr.lpe or cr.lps does to the depth (R181, R182, R184): the depths after it, whether it takes the place of the back edge, or code 0x33. -/
def crwLoop (w : WState) (d : Nat) (c : Instr) : Option (List (Nat × Bool) ⊕ Nat) :=
  match c with
  | .crw _ r n =>
    let k := n.toNat % 4
    let v := w.sreg r
    if crKind n.toNat = 1 then (if k < d then some (.inr (wkey 0 7 n.toNat)) else none)
    else if crKind n.toNat = 2 then
      if k < d then
        if k + 1 = d ∧ v.getD 0 = 0 then some (.inl [(d - 1, true)]) else some (.inr (wkey 0 7 n.toNat))
      else match v with
        | some y => if y = 0 ∨ k != d then none else some (.inl [(d + 1, false)])
        | none => if k = d then some (.inl [(d, false), (d + 1, false)]) else none
    else none
  | _ => none

/-- Code 0x33's item. -/
def crwFinding (w : WState) (d : Nat) (c : Instr) : Option Nat := match crwLoop w d c with | some (.inr i) => some i | _ => none

/-- The findings of a bundle under an entry state at a depth. -/
def stateFindings (x : Image) (i d : Nat) (w0 : WState) : List Finding :=
  let n := x.bundle i
  let l := wslots x n
  let w := w0.issue (bitOf n 255) l
  let ends := (x.loops.filter (fun p => p.2.2 == i)).map (fun p => p.2.1)
  let depth := if ends.isEmpty || ends.any (fun k => k + 1 == d) then []
    else [{ bundle := i, code := 0x32, slot := 7, item := ends.foldl min 3 }]
  depth ++ l.flatMap (fun s =>
    let at_ (code item : Nat) : Finding := { bundle := i, code := code, slot := s.slot, item := item }
    let f := flowOf x.table w s.ins
    (earlyReads w s.guard f).map (at_ 0x20) ++ (lateWrites w f).map (at_ 0x21) ++ (slotClashes x.table w l s).map (at_ 0x21) ++
      ((loopFinding x i d s.ins).toList.map (fun p => at_ p.1 p.2)) ++ ((crwFinding w d s.ins).toList.map (at_ 0x33)) ++
      ((wraps w s.ins).toList.map (at_ 0x40)) ++ ((shapeFinding w s.ins).toList.map (fun p => at_ p.1 p.2)) ++
      ((engineBusy w s.ins).toList.map (at_ 0x52)) ++ (if halfReserved w s.ins then [at_ 0x11 0] else []))

/-! ## Edges (R173 to R177, R184, R586) -/

/-- An edge: the bundle it leads to, its depth, the entry state there. -/
structure WEdge where
  dest : Int
  depth : Nat
  st : WState
  deriving DecidableEq, Repr

/-- The edges of a bundle whose next bundle R173 decides: back edges from the innermost level out, then the next bundle. -/
def backEdges (loops : List (Nat × Nat × Nat)) (i : Nat) (w : WState) : Nat → List WEdge
  | 0 => [{ dest := i + 1, depth := 0, st := w.after 1 }]
  | d + 1 =>
    let here := loops.filter (fun p => p.2.2 == i && p.2.1 == d)
    if here.isEmpty then [{ dest := i + 1, depth := d + 1, st := w.after 1 }]
    else here.map (fun p => { dest := p.1 + 1, depth := d + 1, st := w.after 1 }) ++ backEdges loops i w d

/-- The edges of a LOOP or LOOPI: into its body, and past it where the count may be zero (R171, R172). -/
def loopEdges (w0 w : WState) (i d : Nat) (c : Instr) : List WEdge :=
  let count : Option Nat := match c with
    | .loopi _ n _ _ => some n.toNat
    | .loop _ a _ _ => (w0.sreg a).map (fun v => v.toNat % 2 ^ 32)
    | _ => none
  match loopOf c with
  | none => []
  | some (_, e) =>
    (if count = some 0 then [] else [{ dest := i + 1, depth := d + 1, st := w.after 1 }]) ++
      (if count = some 0 ∨ count.isNone then [{ dest := i + e + 1, depth := d, st := w.after 3 }] else [])

/-- Does an instruction choose the next bundle (R103)? -/
def isFlow (c : Instr) : Bool :=
  (branchOff c).isSome || (loopOf c).isSome || isCall c || (match c with | .bri _ _ => true | .rte _ => true | _ => false)

/-- Where a bundle that no branch governs leads, for one outcome of its CRW: `p.1` the depth after it and `p.2` whether it takes the place of the back edge. A level
activated in the end bundle of the level below does not change that bundle's back edge, which R173 decides on the levels active at issue: `backEdges` runs over those
and each edge leads to the depth after the write. -/
def fallEdges (loops : List (Nat × Nat × Nat)) (i d : Nat) (v : WState) (p : Nat × Bool) : List WEdge :=
  if p.2 then [{ dest := i + 1, depth := p.1, st := v.after 1 }]
  else (backEdges loops i v d).map (fun e => { e with depth := e.depth + (p.1 - d) })

/-- The depths after a bundle's CRW, and whether each replaces the back edge. -/
def depthsAfter (w : WState) (d : Nat) (l : List WSlot) : List (Nat × Bool) :=
  match l.findSome? (fun s => match crwLoop w d s.ins with | some (.inl r) => some (s, r) | _ => none) with
  | some (s, r) => if (guardSure s.guard) then r else r ++ [(d, false)]
  | none => [(d, false)]

/-- Where the paths of a bundle lead from an entry state at a depth. -/
def edgesOf (x : Image) (i d : Nat) (w0 : WState) : List WEdge :=
  let n := x.bundle i
  let l := wslots x n
  let w := w0.issue (bitOf n 255) l
  let v := afterSlots x.table w l
  let ret := if l.any (fun s => isCall s.ins) then [{ dest := i + 1, depth := d, st := startState : WEdge }] else []
  let ends := l.any (fun s => (guardSure s.guard) && (match s.ins with | .exit _ => true | _ => false))
  let ds := depthsAfter w d l
  let falls : List WEdge := ds.flatMap (fallEdges x.loops i d v)
  if ends then ret
  else match l.find? (fun s => isFlow s.ins) with
    | none => ret ++ falls
    | some s =>
      let taken : List WEdge := match branchOff s.ins with
        | some o => ds.map (fun p => { dest := i + o, depth := p.1, st := v.after 3 })
        | none => if (loopFinding x i d s.ins).isNone then loopEdges w v i d s.ins else []
      let stays := !(guardSure s.guard) || ((loopOf s.ins).isSome && (loopFinding x i d s.ins).isSome)
      ret ++ taken ++ (if stays then falls else [])

/-! ## The fixed point (R586) -/

/-- The analysis: entry states by bundle and depth, and the keys to analyse again. -/
structure WRun where
  states : Tbl WState
  work : List Nat
  deriving DecidableEq, Repr

/-- An edge taken into the analysis, unless it leaves the code section. -/
def WRun.edge (n : Nat) (r : WRun) (e : WEdge) : WRun :=
  if e.dest < 0 ∨ (n : Int) ≤ e.dest then r
  else
    let k := 8 * e.dest.toNat + e.depth
    match tblFind r.states k with
    | none => { states := tblPut r.states k e.st, work := r.work ++ [k] }
    | some old =>
      let new := old.join e.st
      if new = old then r else { states := tblPut r.states k new, work := if r.work.contains k then r.work else r.work ++ [k] }

/-- The analyses up to a fixed point; none where the fuel ends first. -/
def WRun.run (x : Image) : Nat → WRun → Option (Tbl WState)
  | 0, _ => none
  | fuel + 1, r =>
    match r.work with
    | [] => some r.states
    | k :: rest =>
      match tblFind r.states k with
      | none => WRun.run x fuel { r with work := rest }
      | some w => WRun.run x fuel ((edgesOf x (k / 8) (k % 8) w).foldl (WRun.edge x.bundles.length) { r with work := rest })

/-- The bundle analyses that the 60 s of R582 allow, at 20 ns each (R581) (log 54, DESIGN CHOICE). -/
def analysisLimit : Nat := 3000000000

/-- The analysis as it begins at the start points (R584). -/
def firstRun (x : Image) : WRun :=
  (x.starts.map (fun s => ({ dest := (s.1 : Int), depth := s.2, st := startState } : WEdge))).foldl (WRun.edge x.bundles.length)
    ({ states := [], work := [] : WRun }.edge x.bundles.length { dest := (x.entry : Int), depth := 0, st := entryState })

/-- Code 0x70 of a path that leaves the code section, but for a direct branch's own target. -/
def runsOut (x : Image) (i d : Nat) (w : WState) : List Finding :=
  if (edgesOf x i d w).any (fun e => e.dest == (x.bundles.length : Int) || decide ((x.bundles.length : Int) < e.dest) || decide (e.dest < 0)) then
    [{ bundle := i, code := 0x70, slot := 7, item := 0 }]
  else []

/-- The findings of an image whose header is sound; none where the analysis has no end within its limit. -/
def imageFindings (x : Image) : Option (List Finding) :=
  (WRun.run x analysisLimit (firstRun x)).map (fun states =>
    tableFindings x ++ (List.range x.bundles.length).flatMap (bundleFindings x) ++
      states.flatMap (fun e => stateFindings x (e.1 / 8) (e.1 % 8) e.2 ++ runsOut x (e.1 / 8) (e.1 % 8) e.2))

/-- A verification: accepted, rejected with a report, or one that does not end in time (R582). -/
inductive Verdict where
  | accepted
  | rejected (report : Word)
  | late
  deriving DecidableEq, Repr

/-- The verdict of findings. -/
def verdictOf (l : List Finding) : Verdict := match firstFinding l with | some f => .rejected (reportWord f) | none => .accepted

/-- The verification of an image's bytes (R584 to R588). -/
def verify (img : List Byte) : Verdict :=
  match headFindings img with
  | [] => match imageFindings (imageOf img) with
    | some l => verdictOf l
    | none => .late
  | l => verdictOf l

/-- What is left of it under the debug bypass: codes 0x01, 0x02, 0x60, 0x61, and 0xF2 while bypass loads are off (R590). -/
def verifyBypass (img : List Byte) (enabled : Bool) : Verdict :=
  match headFindings img with
  | [] => verdictOf (tableFindings (imageOf img) ++ (if enabled then [] else [imageFinding 0xF2 0]))
  | l => verdictOf l

end Sys2Proof.Machine
end

