-- ==== Sys2Proof/Machine/Load.lean ====
section
/-! DEFINITION. Program loading (R579 to R582, R589 to R591): the read of an image, its digest and verification, the seal of a handle. -/

namespace Sys2Proof.Machine

/-! ## The read of an image (R579) -/

/-- The records whose LOAD_PROGRAM occupies a management core. -/
def loadsActive (m : Mod) : List Loading := m.hq.loading.filter (fun l => (recFind m l.record).elim false (fun x => x.state == .running))

/-- Is a started LOAD_PROGRAM the next to get a management core: fewer than four are in use, and none started before it waits? -/
def loadTurn (m : Mod) (x : Rec) : Bool :=
  decide ((loadsActive m).length < 4) && m.hq.recs.all (fun e => e.2.op != 7 || e.2.state != .started || decide (x.order ≤ e.2.order))

/-- The table base of a descriptor's job; job 0 uses module addresses (R477). -/
def loadBase (m : Mod) (x : Rec) : Option Word := if x.job = 0 then some 0 else (jobFind m x.job).map Job.xbase

/-- The bytes of an image's pieces; none where one faults: no page, a peer, an error response, poison. -/
def readImage (m : Mod) (host : Option HostData) (l : List JobPiece) : Mod × Option (List Byte) :=
  l.foldl (fun acc c => match acc with
    | (m, none) => (m, none)
    | (m, some d) => match c.res with
      | .here a => match readPiece m a c.off c.n host with
        | (m, .done 0 b _) => (m, if b.any (fun y => y.2) then none else some (d ++ b.map Prod.fst))
        | (m, _) => (m, none)
      | _ => (m, none)) (m, some [])

/-- What a seal of an image records (R579, R583). -/
def imageHandle (x : Rec) (img : List Byte) : Handle :=
  let i := imageOf img
  { seq := 0, valid := true, digest := digest img, job := BitVec.ofNat 16 x.job, codeBase := w64 (x.w 2 + i.codeOff), bypass := bitOf (x.w 4) 0, sup := i.sup,
    entry := i.entry, handler := i.handler, table := i.table }

/-- The verdict on an image that has been read. -/
def judge (m : Mod) (x : Rec) (img : List Byte) : Verdict := if bitOf (x.w 4) 0 then verifyBypass img m.hq.loadEn else verify img

/-- A LOAD_PROGRAM takes a management core; what it finds is decided by the bytes it reads now. -/
def beginLoad (m : Mod) (r : Nat) (image : Handle) (v : Verdict) : Mod :=
  let l : Loading := { record := r, at_ := m.now, image := image, report := (match v with | .rejected w => some w | _ => none), ends := v != .late }
  let m := setRec m r (fun x => { x with state := .running })
  { m with hq := { m.hq with loading := m.hq.loading ++ [l] } }

/-- The report of an image that cannot be read. -/
def unreadable : Verdict := .rejected (reportWord (imageFinding 0xF1 0))

/-- A LOAD_PROGRAM reads its image, unless the address is remote; without the host's data, an image in host memory waits. -/
def loadImage (m : Mod) (r : Nat) (x : Rec) (base : Word) (host : Option HostData) : Mod :=
  if bitOf (x.w 2) 63 then beginLoad m r (imageHandle x []) unreadable
  else
    match jobPieces m base (x.words.getD 2 0) (fld (x.w 3) 0 32) with
    | (m, l) =>
      if host.isNone && l.any JobPiece.host then askHost m l
      else match readImage m host l with
        | (m, none) => beginLoad m r (imageHandle x []) unreadable
        | (m, some d) => beginLoad m r (imageHandle x d) (judge m x d)

/-- LOAD_PROGRAM (log 23, DESIGN CHOICE). -/
def execLoadProgram (rec : Nat) (host : Option HostData) (s : State) : Host.Outcome State Fault Refusal :=
  withStarted s rec [7] (fun m x =>
    match loadBase m x with
    | none => completeRec m rec 0xA 0
    | some base => if loadTurn m x then loadImage m rec x base host else m)

/-! ## Handles (R580) -/

/-- The value of a handle. -/
def handleValue (slot seq : Nat) : Word := w64 (seq * 4096 + slot)

/-- The valid handle that a matching image reuses. -/
def reusable (m : Mod) (k : Handle) : Option (Nat × Handle) :=
  m.hq.handles.find? (fun e => e.2.valid && e.2.digest == k.digest && e.2.job == k.job && e.2.codeBase == k.codeBase && e.2.bypass == k.bypass)

/-- The handle slots that are free. -/
def freeSlots (m : Mod) : List Nat := (List.range 4096).filter (fun i => !(tblFind m.hq.handles i).elim false Handle.valid)

/-- The sequence of a slot at its next seal: never 0, of 20 bits (log 72, DESIGN CHOICE). -/
def nextSeq (m : Mod) (slot : Nat) : Nat := ((tblFind m.hq.handles slot).elim 0 Handle.seq) % (2 ^ 20 - 1) + 1

/-- A bypass seal is counted, and its digest extended into MR6 (R589, R672). -/
def bypassSeal (m : Mod) (k : Handle) : Mod :=
  if k.bypass then { m with hq := { m.hq with loads := satAdd 16 m.hq.loads 1 }, sec := extendMr m.sec 6 k.digest } else m

/-- The seal of an image, and its LOAD_PROGRAM's completion. -/
def sealImage (m : Mod) (r : Nat) (k : Handle) : Mod :=
  match freeSlots m with
  | [] => completeRec m r 0xC (reportWord (imageFinding 0xF0 0))
  | l =>
    let slot := l.getD (Config.handleSlot m.free % l.length) 0
    let seq := nextSeq m slot
    let m := bypassSeal { m with free := m.free + 1, hq := { m.hq with handles := tblPut m.hq.handles slot { k with seq := seq } } } k
    completeRec m r 0 (handleValue slot seq)

/-! ## The end of a LOAD_PROGRAM (R579 to R582) -/

/-- The management core of a record is free again, and those of records that have completed. -/
def freeManager (m : Mod) (r : Nat) : Mod := { m with hq := { m.hq with loading := (loadsActive m).filter (fun l => l.record != r) } }

/-- Does a reuse answer the load, or its verification end? -/
def loadEnds (m : Mod) (l : Loading) : Bool := l.ends || (l.report.isNone && (reusable m l.image).isSome)

/-- A LOAD_PROGRAM completes: the image could not be read, or a matching handle serves, or the verification rejects it, or it is sealed. -/
def endLoad (m : Mod) (r : Nat) : Mod :=
  match (loadsActive m).find? (fun l => l.record == r) with
  | none => m
  | some l =>
    if !loadEnds m l then m
    else
      let m := freeManager m r
      match reusable m l.image, l.report with
      | some (slot, k), _ => completeRec m r 0 (handleValue slot k.seq)
      | none, some w => completeRec m r 0xC w
      | none, none => sealImage m r l.image

/-- LOAD_PROGRAM_COMPLETE. -/
def execLoadProgramComplete (rec : Nat) (s : State) : Host.Outcome State Fault Refusal :=
  if engineOn s.mod then .next { s with mod := endLoad s.mod rec } else .next s

/-- A verification that has not finished within 60 s: time moves on to the limit (R582). -/
def verifyLate (m : Mod) (r : Nat) : Mod :=
  match (loadsActive m).find? (fun l => l.record == r) with
  | none => m
  | some l => completeRec (freeManager (toTime m (l.at_ + 60000000000)) r) r 0xC (reportWord (imageFinding 0xF3 0))

/-- VERIFY_TIMEOUT. -/
def execVerifyTimeout (rec : Nat) (s : State) : Host.Outcome State Fault Refusal :=
  if engineOn s.mod then .next { s with mod := verifyLate s.mod rec } else .next s

end Sys2Proof.Machine
end

