-- ==== Sys2Proof/Machine/Recovery.lean ====
section
/-! DEFINITION. Recovery (R592 to R615): the Kerb drain, the resets of every domain and their escalation, detection, replay of lost work items, the search for the guilty descriptor, deadlines; and the freeing of contexts (R333). -/

namespace Sys2Proof.Machine

/-! ## Events of a descriptor -/

/-- An event record about a descriptor (R621). -/
def recEvent (m : Mod) (type domain unit : Nat) (x : Rec) : Mod :=
  logEvent m { type := type, domain := domain, unit := unit, epoch := x.ep.toNat, job := x.job, desc := descWord x }

/-- The live threads of a launch in a cluster. -/
def threadsIn (m : Mod) (r q : Nat) : List Nat := (recordThreads m r).filter (fun t => t / 64 == q)

/-! ## The search for the guilty party (R611 to R614) -/

/-- A context that a search halted resumes. -/
def resumeSearched (m : Mod) (t : Nat) : Mod :=
  let m := if (runningThreads m (t / 4)).isEmpty then wakeCore m (t / 4) else m
  setCtx m t (fun x => { x with halted := false })

/-- A search ends: the contexts it halted resume; `all`: every suspect was cleared. -/
def endSearch (m : Mod) (q : Nat) (all : Bool) : Mod :=
  match (cluster m q).search with
  | none => m
  | some s =>
    let m := setCluster m q (fun c => { c with search := none, lastSearch := if all then (s.cleared, m.now) else ([], 0) })
    (s.cleared.flatMap (fun r => threadsIn m r q)).foldl resumeSearched m

/-- The suspects still to be tried: those whose descriptor has not ended in the meantime. -/
def Search.left (m : Mod) (s : Search) : List Nat :=
  s.todo.filter (fun r => (recFind m r).elim false (fun x => x.state != .done && x.blame.isNone))

/-- A context of a suspect that is cleared halts, at its boundary. -/
def haltSearched (m : Mod) (t : Nat) : Mod := if canHalt m t then haltThread m t else setCtx m t (fun x => { x with halted := true })

/-- The suspect on trial is cleared: its live contexts halt, and the search ends with the last suspect. -/
def clearSuspect (m : Mod) (q : Nat) : Mod :=
  match (cluster m q).search with
  | none => m
  | some s =>
    match s.trial with
    | none => m
    | some r =>
      let m := (threadsIn m r q).foldl haltSearched m
      let m := setCluster m q (fun c => { c with search := some { s with trial := none, cleared := s.cleared ++ [r] } })
      if (s.left m).isEmpty then endSearch m q true else m

/-- Has every thread of the suspect on trial ended (R613)? -/
def trialOver (m : Mod) (q : Nat) : Bool :=
  match (cluster m q).search with
  | none => false
  | some s => s.trial.elim false (fun r => (threadsIn m r q).isEmpty)

/-- A trial whose threads have all ended clears its suspect. -/
def trialCheck (m : Mod) (q : Nat) : Mod := if trialOver m q then clearSuspect m q else m

/-- A launch hangs: HUNG with a thread as its result; its items are not replayed, and its threads end by thread reset (R598, R613). -/
def hangRec (m : Mod) (r t : Nat) : Mod := endRest (settleItems (blame m r 8 (blameResult t 0)) r) r

/-- The thread resets of a guilty descriptor carry its cause, for the search that follows an escalation (R611, R614). -/
def markHang (m : Mod) (q : Nat) : Mod :=
  { m with rcv := { m.rcv with resets := m.rcv.resets.map (fun r =>
    match r.d with
    | .thread t => if t.toNat / 64 == q then { r with hang := true } else r
    | _ => r) } }

/-- The suspect on trial in a cluster is guilty: it completes HUNG, and the search ends. -/
def guilty (m : Mod) (q r t : Nat) : Mod :=
  let m := markHang (hangRec m r t) q
  let m := (recFind m r).elim m (recEvent m 7 2 q)
  endSearch m q false

/-- Is a descriptor on trial in a cluster? -/
def onTrial (m : Mod) (q r : Nat) : Bool := (cluster m q).search.elim false (fun s => s.trial == some r)

/-- The suspects of a reset of a cluster, oldest first: launches with a context live at the fence, and those of a search whose first trial has not begun (R606, R611) (log 15, DEDUCED). -/
def suspectsOf (m : Mod) (q : Nat) : List Nat :=
  let old := match (cluster m q).search with
    | some s => if s.trial.isNone && s.cleared.isEmpty then s.todo else []
    | none => []
  (m.hq.recs.filter (fun e => e.2.isLaunch && e.2.state == .running && (e.2.blame.isNone) && (old.contains e.1 || !(threadsIn m e.1 q).isEmpty))).map Prod.fst

/-- A suspect of class ONCE ends ABORTED, without a trial (R612). -/
def abortOnce (m : Mod) (q r : Nat) : Mod :=
  endRest (settleItems (blame m r 6 (blameResult (firstThread (threadsIn m r q)) 0)) r) r

/-- A reset with the cause of a hang begins a search in a cluster (R611, R612); one within 1 s of a search that cleared every suspect ends those of both HUNG (R613). -/
def beginSearch (m : Mod) (fence q : Nat) : Mod :=
  let l := suspectsOf m q
  let last := (cluster m q).lastSearch
  let both := if fence ≤ last.2 + 1000000000 then l.filter (fun r => last.1.contains r) else []
  let once := l.filter (fun r => !both.contains r && (recFind m r).elim false (fun x => x.cls == 2))
  let rest := l.filter (fun r => !both.contains r && !once.contains r)
  let m := both.foldl (fun m r => hangRec m r (firstThread (threadsIn m r q))) m
  let m := once.foldl (fun m r => abortOnce m q r) m
  let s : Option Search := if rest.isEmpty then none else some { todo := rest, trial := none, until_ := 0, cleared := [] }
  setCluster m q (fun c => { c with search := s, lastSearch := ([], 0) })

/-! ## The end of a Kerb drain (R602, R604, R605) -/

/-- Is anything outstanding at a domain: requests that it has issued, or accepted before its fence, chunks, messages for its queues? -/
def outstanding (m : Mod) (d : Domain) : Bool :=
  m.accs.any (fun a => a.present && ((domainHolds d a.thread.toNat && !(a.kind == .tsgRow && !a.sent && !a.kept)) || (a.peer.isNone && !a.performed && domainCovers m d a.addr))) ||
  m.clusters.any (fun c => c.2.chunks.any (fun k => domainIn (.cluster (BitVec.ofNat 7 c.1)) d || (k.queue < 64 && domainHolds d (64 * c.1 + k.queue)))) ||
  m.net.any (fun c => match d with
    | .thread _ => false
    | _ => domainHolds d (c.queue.toNat / 128 * 4))

/-- The effect of a reset on its domain. -/
def applyReset (m : Mod) (r : Reset) : Mod :=
  let fence := r.drainAt - 100000
  match r.d with
  | .thread t => resetContext m r.kill t.toNat
  | .core c => resetCore m c.toNat
  | .cluster q => resetCluster (if r.hang then beginSearch m fence q.toNat else m) q.toNat
  | .die k =>
    let m := if r.hang then (List.range 16).foldl (fun m i => beginSearch m fence (16 * k.toNat + i)) m else m
    resetDie m k.toNat
  | .stack _ => m
  | .link l => setLink m l.toNat (fun k => k.afterReset (if mayTrain m l.toNat then 1 else k.state))
  | .module => resetModule m

/-- The Kerb proxy answers FENCED to every request from outside that the domain still holds (R602, R603). -/
def proxyAnswers (m : Mod) (d : Domain) : Mod :=
  { m with accs := m.accs.map (fun a =>
    if a.present && a.peer.isNone && !a.performed && domainCovers m d a.addr then { a with performed := true, answer := some (errorResp 1) } else a) }

/-- Is a transfer at the domain under way unit by unit? It has been accepted, and is completed before the drain ends (R450, R602). -/
def midUnits (m : Mod) (d : Domain) : Bool :=
  m.accs.any (fun a => a.unitsDone != 0 && !a.performed && a.peer.isNone && domainCovers m d a.addr) ||
  m.fab.parts.any (fun x => domainCovers m d (packetAt x.p))

/-- Does the end of a drain wait: for a transfer under way, or for the ROADBLOCKs that a module floods before its links go down (R618) (log 114, DESIGN CHOICE)? -/
def drainWaits (m : Mod) (d : Domain) : Bool := midUnits m d || (d == .module && !m.fab.floodQ.isEmpty)

/-- Every response owed to the domain's own threads is discarded: that of an access answered already, and later that of a write still on its way (R602). -/
def dropResponses (m : Mod) (d : Domain) : Mod :=
  { m with accs := (m.accs.filter (fun a => !(domainHolds d a.thread.toNat && a.answer.isSome))).map (fun a =>
    if domainHolds d a.thread.toNat then { a with forgotten := true } else a) }

/-- A Kerb drain ends, at its limit or once nothing is outstanding, and the reset begins; its limit runs from now on. A module that is held in reset waits for
MOD_RESET_N (R686). -/
def drainEnd (m : Mod) (d : Domain) : Mod :=
  match m.rcv.resets.find? (fun r => r.d == d && r.draining) with
  | none => m
  | some r =>
    if drainWaits m d then m
    else
    let m := if outstanding m d then toTime m r.drainAt else m
    let m := applyReset (dropResponses (proxyAnswers m d) d) r
    { m with rcv := { m.rcv with resets := m.rcv.resets.map (fun x =>
      if x.d == d && x.draining then { x with draining := false, limitAt := m.now + resetLimit d } else x) } }

/-- KERB_DRAIN_END. -/
def execKerbDrainEnd (d : Domain) (s : State) : Host.Outcome State Fault Refusal := .next { s with mod := drainEnd s.mod d }

/-! ## The starts of resets (R602 to R604) -/

/-- May a reset of a domain begin: that of the module while it has power or is in P3, not in S5 or after a thermal trip (R648, R657, R690); any other in P0? -/
def mayReset (m : Mod) (d : Domain) : Bool :=
  match d with
  | .module => m.pwr.aoOn && (!m.pwr.down || m.pwr.state == 3) && !m.pwr.tripped
  | _ => powered m

/-- A reset begins. -/
def startIf (s : State) (d : Domain) (hang : Bool) : Host.Outcome State Fault Refusal :=
  .next { s with mod := if mayReset s.mod d then beginReset s.mod d hang false else s.mod }

/-- THREAD_RESET. -/
def execThreadReset (thread : ThreadId) (s : State) : Host.Outcome State Fault Refusal := startIf s (.thread thread) false
/-- CORE_RESET. -/
def execCoreReset (core : CoreId) (s : State) : Host.Outcome State Fault Refusal := startIf s (.core core) false
/-- CLUSTER_RESET; `hang`: a hang caused it, and it begins a search (R611). -/
def execClusterReset (cluster : ClusterId) (hang : Bool) (s : State) : Host.Outcome State Fault Refusal := startIf s (.cluster cluster) hang
/-- DIE_RESET. -/
def execDieReset (die : BitVec 3) (hang : Bool) (s : State) : Host.Outcome State Fault Refusal := startIf s (.die die) hang
/-- HBM_STACK_RESET: the contents are kept. -/
def execHbmStackReset (stack : BitVec 5) (s : State) : Host.Outcome State Fault Refusal := startIf s (.stack stack) false
/-- MODULE_RESET. -/
def execModuleReset (s : State) : Host.Outcome State Fault Refusal := startIf s .module false

/-- A DOWN link that no reset retrains is retrained 10 s after it went or stayed DOWN (R604); an up link goes DOWN first. -/
def retrain (m : Mod) (l : BitVec 7) : Mod :=
  let k := linkOf m l.toNat
  if k.state = 2 then linkDown m l.toNat
  else if k.state != 0 || !mayTrain m l.toNat || m.rcv.resets.any (fun r => domainIn (.link l) r.d) then m
  else startReset (toTime m (k.downAt + 10000000000)) (.link l) false false

/-- LINK_RESET. -/
def execLinkReset (link : BitVec 7) (s : State) : Host.Outcome State Fault Refusal := .next { s with mod := retrain s.mod link }

/-! ## The ends of resets (R604, R605) -/

/-- The cores of a domain may run again, and its dispatcher's heartbeats are awaited from now on. -/
def leaveReset (m : Mod) (d : Domain) : Mod :=
  let m := { m with cores := m.cores.map (fun c => if domainHolds d (4 * c.1) then (c.1, { c.2 with inReset := false }) else c) }
  match d with
  | .die k => { m with rcv := { m.rcv with beats := tblPut m.rcv.beats k.toNat m.now } }
  | _ => m

/-- A reset completes. A link's ends as it comes UP, the module's as it reaches READY. -/
def resetDone (m : Mod) (d : Domain) : Mod :=
  match d with
  | .link _ | .module => m
  | .thread t => trialCheck (endReset m d) (t.toNat / 64)
  | _ => if m.rcv.resets.any (fun r => r.d == d && !r.draining) then endReset (leaveReset m d) d else m

/-- RESET_COMPLETE. -/
def execResetComplete (d : Domain) (s : State) : Host.Outcome State Fault Refusal := .next { s with mod := resetDone s.mod d }

/-- A link that did not train within its limit stays DOWN; a reset started through DBG_RESET is over, not within its limit (R604, R624). -/
def linkLimit (m : Mod) (l : BitVec 7) (r : Reset) : Mod :=
  let m := setLink m l.toNat (fun k => { k.fresh 0 with downAt := m.now })
  let m := { m with rcv := { m.rcv with resets := m.rcv.resets.filter (fun x => x.d != r.d) } }
  if r.dbg then { m with rcv := { m.rcv with busy := false, result := 1 } } else m

/-- A reset overran: RESET_ESCALATED, and a reset of the next domain, which takes this one over (R604, R605, R606). -/
def escalate (m : Mod) (r : Reset) (d : Domain) : Mod :=
  let m := resetEvent m 6 r.d
  let m := beginReset m d r.hang r.dbg
  { m with rcv := { m.rcv with resets := m.rcv.resets.map (fun x => if domainIn d x.d then { x with escalated := true } else x) } }

/-- A reset has not completed within its limit: time moves on to it. The module's own overrun asserts FATAL_N (R604, R686). -/
def limitExpiry (m : Mod) (d : Domain) : Mod :=
  match m.rcv.resets.find? (fun r => r.d == d && !r.draining) with
  | none => m
  | some r =>
    let m := toTime m r.limitAt
    match d, escalation d with
    | .link l, _ => linkLimit m l r
    | _, some e => escalate m r e
    | _, none => if m.pins.modReset then m else { m with pins := { m.pins with fatal := true } }

/-- RESET_LIMIT_EXPIRY. -/
def execResetLimitExpiry (d : Domain) (s : State) : Host.Outcome State Fault Refusal := .next { s with mod := limitExpiry s.mod d }

/-! ## Detection (R598, R599) -/

/-- The thread of the watchdog's core that a guilty trial names, or its first live thread (R613). -/
def hungThread (m : Mod) (r q c : Nat) : Nat :=
  let here := (threadsIn m r q).filter (fun t => t / 4 == c)
  firstThread (if here.isEmpty then recordThreads m r else here)

/-- The progress watchdog of a core fires: a guilty trial, or a reset of the cluster. The core's clock moves on to the cycle in which it fires. -/
def progressFires (m : Mod) (c : Nat) : Mod :=
  let q := c / 16
  if !m.rcv.pwd || !coresRun m || (core m c).inReset || (runningThreads m c).all (threadFenced m) then m
  else
    let m := advance m c (max (core m c).cycle ((core m c).lastIssue + 2 ^ 24))
    let m := setCore m c (fun k => { k with lastIssue := k.cycle })
    match (cluster m q).search.bind Search.trial with
    | some r => guilty m q r (hungThread m r q c)
    | none => beginReset m (.cluster (BitVec.ofNat 7 q)) true false

/-- PROGRESS_WATCHDOG (log 42, DESIGN CHOICE). -/
def execProgressWatchdog (core : CoreId) (s : State) : Host.Outcome State Fault Refusal := .next { s with mod := progressFires s.mod core.toNat }

/-- DISPATCHER_HEARTBEAT: it reaches the steward unless its die is disabled, being reset, or without a bridge (R27) (log 100, DESIGN CHOICE). -/
def execDispatcherHeartbeat (die : BitVec 3) (s : State) : Host.Outcome State Fault Refusal :=
  onMesh s (fun m =>
    if disabled m 2 || !stewardReaches m (16 * die.toNat) || m.rcv.resets.any (fun r => domainIn (.die die) r.d) then m
    else { m with rcv := { m.rcv with beats := tblPut m.rcv.beats die.toNat m.now } })

/-- No heartbeat for DBG_RECCTL.hbto: a die reset. Time moves on to the end of the wait. -/
def heartbeatLoss (m : Mod) (k : BitVec 3) : Mod :=
  let n := max 1 m.rcv.hbto.toNat
  if !engineOn m || disabled m 2 || m.rcv.resets.any (fun r => domainIn (.die k) r.d) then m
  else beginReset (toTime m (tblGet 0 m.rcv.beats k.toNat + 100000 * n)) (.die k) true false

/-- HEARTBEAT_TIMEOUT. -/
def execHeartbeatTimeout (die : BitVec 3) (s : State) : Host.Outcome State Fault Refusal := .next { s with mod := heartbeatLoss s.mod die }

/-! ## Replay (R607 to R609) -/

/-- Is a work item of a COPY or FILL? -/
def Item.isMove (i : Item) : Bool := decide (2048 ≤ i.core)

/-- The cluster of a work item. -/
def Item.cluster (i : Item) : Nat := if i.isMove then i.core - 2048 else i.core / 16

/-- An item ends without replay. -/
def settleItem (m : Mod) (i : Nat) : Mod := setItem m i (fun x => { x with ended := true, running := false })

/-- What an item that is not run again makes of its descriptor (R607, R609, R615): a COPY or FILL completes with the done count that the journal holds. -/
def itemOver (m : Mod) (i : Nat) (it : Item) (status : Byte) (code : Nat) : Mod :=
  let m := settleItem m i
  if it.isMove then completeRec m it.record status (w64 it.pos)
  else endRest (blame m it.record status (blameResult it.lostBy code)) it.record

/-- A loss beyond the budget: REPLAY_EXHAUSTED, and POISONED or ERROR (R609, R615). -/
def exhausted (m : Mod) (i : Nat) (it : Item) (x : Rec) : Mod :=
  let m := if it.isMove then recEvent m 0xD 2 it.cluster x else recEvent m 0xD 0 it.lostBy x
  itemOver m i it (if it.lostCode = 0x31 then 1 else 3) it.lostCode.toNat

/-- The registers that a replay sets: s2, and s24 to s31 from the commit record of CHECKPOINT work (R607). -/
def replayed (commit : Option Vec) (y : Ctx) : Ctx :=
  match commit with
  | none => y.setS 2 0
  | some v => (List.range 8).foldl (fun y k => y.setS (24 + k) (wordOf (sliceBytes (vecBytes v) (8 * k) 8))) (y.setS 2 1)

/-- The thread of a lost work item starts again, in the lowest free context of its core (R608). On a core that has been reset since, the argument blocks are copied
again before its first thread starts (R562). -/
def replayThread (m : Mod) (i : Nat) (it : Item) (x : Rec) (j : Job) : Mod :=
  let h := tblFind m.hq.handles ((if it.imageB then x.hB else x.hA) % 4096)
  match startContexts m it.core, h with
  | t :: _, some h =>
    if disabled m 2 || (core m it.core).inReset || !stewardReaches m (it.core / 16) || !tableAllows m it.core h.table || !(itemThreads m i).isEmpty then m
    else
      let m := setTable m it.core h.table
      let m := if (core m it.core).lastImage.isNone then copyArgs (launchCaches m it.core x) it.core x else m
      let m := setItem m i (fun y => { y with lost := false, running := true, replays := y.replays + 1, checks := [] })
      let commit := if x.cls = 1 then tblFind m.hq.commits i else none
      startThread m t (fun y => replayed commit (launched t it.record i x j h it.imageB it.pos y))
  | _, _ => m

/-- A stream descriptor whose first `n` chunks are done already (R607). -/
def SDesc.skip (d : SDesc) : Nat → SDesc
  | 0 => d
  | n + 1 =>
    let d := d.skip n
    let e := d.chunkEnd
    { d.advance e with released := d.released ++ [d.nextChunk], bytes := d.bytes + (e - d.off) }

/-- A lost COPY or FILL runs again: CHECKPOINT work from the done count of the journal, IDEMPOTENT work from chunk 0 (R607). -/
def replayMove (m : Mod) (i : Nat) (it : Item) (x : Rec) (j : Job) : Mod :=
  if 16 ≤ (descsOf m x.cluster 64).length || queueHeld m x.cluster 64 then m
  else
    let n := if x.cls = 1 then it.pos else 0
    let m := setItem m i (fun y => { y with lost := false, running := true, replays := y.replays + 1, pos := n })
    enqueue m x.cluster 64 ((moveDesc it.record x j).skip n)

/-- A lost work item is restarted or resumed, or ends: ONCE, beyond the budget, or with a descriptor that ends anyway (log 16, DEDUCED). -/
def replayItem (m : Mod) (i : Nat) : Mod :=
  match tblFind m.hq.items i with
  | none => m
  | some it =>
    match recFind m it.record with
    | none => m
    | some x =>
      if !it.lost || it.ended || it.failed || x.state = .done then m
      else if x.blame.isSome then (if it.isMove then completeRec (settleItem m i) it.record (x.blame.elim 0 Prod.fst) (w64 it.pos) else settleItem m i)
      else if x.cls = 2 then itemOver m i it 6 0
      else if m.rcv.budget.toNat ≤ it.replays then exhausted m i it x
      else match jobFind m x.job with
        | none => m
        | some j => if it.isMove then replayMove m i it x j else replayThread m i it x j

/-- May an item be replayed now: during a search, those of the suspect on trial (R612), and those that only end with their descriptor? -/
def mayReplay (m : Mod) (i : Nat) : Bool :=
  (tblFind m.hq.items i).elim false (fun it =>
    (cluster m it.cluster).search.isNone || onTrial m it.cluster it.record || (recFind m it.record).any (fun x => x.blame.isSome))

/-- WORK_ITEM_REPLAY. -/
def execWorkItemReplay (item : Nat) (s : State) : Host.Outcome State Fault Refusal :=
  if engineOn s.mod && mayReplay s.mod item then .next { s with mod := replayItem s.mod item } else .next s

/-! ## Trials (R612, R613) -/

/-- The lost work items of a descriptor in a cluster. -/
def lostIn (m : Mod) (r q : Nat) : List Nat :=
  (m.hq.items.filter (fun e => e.2.record == r && e.2.lost && !e.2.ended && !e.2.failed && !e.2.isMove && e.2.cluster == q)).map Prod.fst

/-- The next suspect of a search is tried: its lost items are replayed; with none left to try, the search ends. -/
def startTrial (m : Mod) (q : Nat) : Mod :=
  match (cluster m q).search with
  | none => m
  | some s =>
    if s.trial.isSome || m.rcv.resets.any (fun r => domainIn (.cluster (BitVec.ofNat 7 q)) r.d) then m
    else match s.left m with
      | [] => endSearch m q false
      | r :: rest =>
        let until_ := m.now + 1000000 * max 1 m.rcv.probation.toNat
        let m := setCluster m q (fun c => { c with search := some { s with todo := rest, trial := some r, until_ := until_ } })
        trialCheck ((lostIn m r q).foldl replayItem m) q

/-- TRIAL_START. -/
def execTrialStart (cluster : ClusterId) (s : State) : Host.Outcome State Fault Refusal :=
  if engineOn s.mod then .next { s with mod := startTrial s.mod cluster.toNat } else .next s

/-- The probation of the suspect on trial passes: time moves on to its end. -/
def probationEnd (m : Mod) (q : Nat) : Mod :=
  match (cluster m q).search with
  | none => m
  | some s => if s.trial.isNone then m else clearSuspect (toTime m s.until_) q

/-- PROBATION_EXPIRY. -/
def execProbationExpiry (cluster : ClusterId) (s : State) : Host.Outcome State Fault Refusal :=
  if engineOn s.mod then .next { s with mod := probationEnd s.mod cluster.toNat } else .next s

/-! ## Deadlines (R560, R598) -/

/-- The deadline of a launch that runs: every trial of it ends guilty; elsewhere its live threads end by thread reset. -/
def launchDeadline (m : Mod) (r : Nat) : Mod :=
  let t := firstThread (recordThreads m r)
  let qs := (List.range 128).filter (fun q => onTrial m q r)
  let m := hangRec m r t
  qs.foldl (fun m q => guilty m q r t) m

/-- A descriptor of the host queue of an engine, by its record, changed. -/
def moveMod (m : Mod) (q r : Nat) (f : SDesc → SDesc) : Mod :=
  setCluster m q (fun c => { c with dqs := tblMod [] c.dqs 64 (List.map (fun d => if d.record == some r && d.thread.isNone then f d else d)) })

/-- The deadline of a COPY or FILL that runs: its unissued chunks are dropped, the issued ones drain for 100 us as under Kerb, and it completes HUNG with its done count; one
that is lost completes now (R598, R602). -/
def moveDeadline (m : Mod) (r : Nat) (x : Rec) : Mod :=
  match moveDescOf m r x with
  | some _ => moveMod (setRec (blame m r 8 0) r (fun x => { x with graceAt := some (m.now + 100000) })) x.cluster r (fun d => { d with stopped := true })
  | none => completeRec (settleItems m r) r 8 (w64 (moveDone m r))

/-- The end of that drain: every request of its chunks that is still held is answered FENCED, so that they fail and release their tags; a write under way unit by unit is
completed first (R450, R602). -/
def moveDrained (m : Mod) (r : Nat) (x : Rec) (at_ : Nat) : Mod :=
  match moveDescOf m r x with
  | none => m
  | some d =>
    let mine (c : Chunk) : Bool := c.queue == 64 && c.seq == d.seq
    let cs := (cluster m x.cluster).chunks.filter mine
    if cs.any (fun c => c.ready && c.done != 0) then m
    else
      let m := disown (toTime m at_) (fun o => match o with
        | .chunkRead q tag _ _ _ | .chunkWrite q tag => q == x.cluster && cs.any (fun c => c.tag == tag)
        | .index q n s => q == x.cluster && n == 64 && s == d.seq
        | _ => false)
      let m := cs.foldl (fun m c => chunkFails m x.cluster c.tag c.dst) m
      setCluster m x.cluster (fun k => { k with chunks := k.chunks.filter (fun c => !mine c) })

/-- A descriptor's deadline passes: time moves on to it, by what it stood still (R654). A WAIT times out. -/
def deadline (m : Mod) (r : Nat) : Mod :=
  match recFind m r with
  | none => m
  | some x =>
    if x.deadline = 0 || x.state == .done || decide (3 ≤ m.pwr.level) then m
    else if x.blame.any (fun b => b.1 == 8) then (if x.isMove then x.graceAt.elim m (moveDrained m r x) else m)
    else
      let m := toTime m (x.at_ + 1000 * x.deadline + (pausedNow m - x.paused))
      if x.op = 5 then completeRec m r 9 0
      else if x.state = .running && x.isLaunch then launchDeadline m r
      else if x.state = .running && x.isMove then moveDeadline m r x
      else
        -- With an ABORT_JOB that runs, the others of its job and epoch complete too (R569).
        (m.hq.recs.filter (fun e => x.op == 0x0B && x.graceAt.isSome && otherAbort r x e)).foldl (fun m e => completeRec m e.1 0 0) (completeRec m r 8 0)

/-- DESCRIPTOR_DEADLINE. -/
def execDescriptorDeadline (rec : Nat) (s : State) : Host.Outcome State Fault Refusal :=
  if engineOn s.mod then .next { s with mod := deadline s.mod rec } else .next s

/-! ## The freeing of contexts (R333) -/

/-- The context of an ended thread becomes free once its fixed results have landed; a trial whose threads have all ended is over (R613). -/
def freeContext (m : Mod) (t : Nat) : Mod :=
  if !(ctx m t).freeing then m
  else
    let m := advance m (t / 4) (settledAt (ctx m t) (core m (t / 4)).cycle)
    trialCheck (setCtx (dropReads m t) t (fun x => { x with freeing := false })) (t / 64)

/-- CONTEXT_FREE. -/
def execContextFree (thread : ThreadId) (s : State) : Host.Outcome State Fault Refusal := onMesh s (fun m => freeContext m thread.toNat)

end Sys2Proof.Machine
end

