-- ==== Sys2Proof/Machine/Telemetry.lean ====
section
/-! DEFINITION. Milepost comparators (R630 to R634), snapshots and the telemetry ring (R639 to R642), trigger pins (R643 to R645). -/

namespace Sys2Proof.Machine

/-! ## The telemetry ring (R640, R641, R647) -/

/-- The units of the ring. -/
def ringUnits (t : Timebase) : Nat := 2 ^ (if 14 ≤ t.telLsize.toNat ∧ t.telLsize.toNat ≤ 26 then t.telLsize.toNat else 14)

/-- The free units of the ring: it holds one less than its size. -/
def freeUnits (t : Timebase) : Nat :=
  let n := ringUnits t
  n - 1 - (n + t.telTail.toNat - t.telHead.toNat % n) % n

/-- The 64-byte units of a record, padded with zeros. -/
def unitsOf (words : List Word) : Nat := ceilDiv words.length 8

/-- A unit written at tail, at the port of its line (R24); the ring lies in HBM. -/
def putUnit (m : Mod) (words : List Word) : Mod :=
  let a := m.tb.telBase.toNat + 64 * m.tb.telTail.toNat
  let d := ((words ++ List.replicate (8 - words.length) 0).take 8).flatMap wordBytes
  let m := if isHbm a then (writeLine m a 0 d false).1 else m
  { m with tb := { m.tb with telTail := BitVec.ofNat 26 ((m.tb.telTail.toNat + 1) % ringUnits m.tb) } }

/-- A record written, unit by unit. -/
def putRecord (m : Mod) (words : List Word) : Mod := (List.range (unitsOf words)).foldl (fun m i => putUnit m ((words.drop (8 * i)).take 8)) m

/-- A snapshot or TRIGGER record is dropped. -/
def loseRecord (m : Mod) : Mod := { m with tb := { m.tb with telLost := satAdd 16 m.tb.telLost 1 } }

/-- The header of a record (R641). -/
def telHeader (m : Mod) (type k src : Nat) (seq : BitVec 32) (t : Word) (job : Nat) : List Word :=
  let e := (jobEpoch m job).elim 0 BitVec.toNat
  [w64 (type * 2 ^ 56 + k * 2 ^ 52 + src * 2 ^ 32 + seq.toNat), t, w64 (m.fab.id.toNat * 2 ^ 48 + job * 2 ^ 32 + e * 2 ^ 24), 0]

/-! ## Snapshots (R639 to R642) -/

/-- Numbers of 16 bits packed in words, the first lowest. -/
def pack16 (l : List Nat) : List Word :=
  (List.range (ceilDiv l.length 4)).map (fun i => w64 ((List.range 4).foldl (fun s j => s + l.getD (4 * i + j) 0 * 2 ^ (16 * j)) 0))

/-- Are the compute dies without power (R648)? -/
def diesOff (m : Mod) : Bool := m.pwr.state == 2

/-- The LINK body's word of a link. -/
def linkWord (k : Link) : Word :=
  w64 (k.state.toNat * 2 ^ 61 + k.margin.toNat * 2 ^ 48 + k.flight.toNat * 2 ^ 40 + k.telReplays % 65536 * 2 ^ 24 + k.telUce % 65536 * 2 ^ 8)

/-- The POWER body: energy in uJ and power of every rail, with the voltage of INPUT. -/
def powerBody (p : Power) : List Word :=
  (List.range 23).flatMap (fun r =>
    [w64 (tblGet 0 p.railNj r / 1000), w64 ((if r = 22 then p.railMv.toNat else 0) * 2 ^ 48 + (tblGet 0 p.railMw r).toNat)])

/-- A temperature as 16 bits, signed. -/
def tempBits (t : Int) : Nat := (BitVec.ofInt 16 t).toNat

/-- What was latched for comparator `k` at its tick; what counts now where nothing was. -/
def latched (m : Mod) (k : Nat) : Latch := (mpOf m k).latch.getD (latchNow m)

/-- The records of a snapshot before its END, by the kinds enabled, with the counts latched at the comparator's tick (R633, R634) (log 18, DESIGN CHOICE). -/
def snapshotRecords (m : Mod) (k : Nat) (t : Word) : List (List Word) :=
  let h (type src : Nat) := telHeader m type k src m.tb.snapSeq t (mpOf m k).job.toNat
  let on (i : Nat) (l : List (List Word)) : List (List Word) := if m.tb.telKinds.getLsbD i then l else []
  let x := latched m k
  let link (l : Nat) : Link := let c := tblGet (0, 0) x.links l; { linkOf m l with telReplays := c.1, telUce := c.2 }
  let tiles (l : List (List Word)) : List (List Word) := if diesOff m then [] else l
  on 0 (tiles ((List.range 2048).map (fun c => h 1 c ++ (List.range 64).map (fun i => tblGet 0 (tblGet [] x.cores c) i)))) ++
  on 1 (tiles ((List.range 128).map (fun q => h 2 q ++ (List.range 16).map (fun i => tblGet 0 (tblGet [] x.clusters q) i)))) ++
  on 2 [h 3 0 ++ powerBody { m.pwr with railNj := x.railNj }] ++
  on 3 [h 4 0 ++ pack16 ((List.range 67).map (fun i => tempBits (tblGet 0 m.pwr.temps i)))] ++
  on 4 [h 5 0 ++ (List.range 96).map (fun l => linkWord (link l))] ++
  on 5 [h 6 0 ++ [x.noCq0, x.noCq1]]

/-- A snapshot that is taken: its records and its END are written, the links' counts start again from those latched, and it is being written until SNAPSHOT_WRITE_COMPLETE (log 44, DESIGN CHOICE). -/
def takeSnapshot (m : Mod) (k : Nat) (t : Word) : Mod :=
  let rs := snapshotRecords m k t
  let n := rs.foldl (fun s r => s + unitsOf r) 1
  if freeUnits m.tb < n then loseRecord m
  else
    let e := telHeader m 8 k 0 m.tb.snapSeq t (mpOf m k).job.toNat ++ [w64 n, w64 (mpOf m k).missed.toNat, if diesOff m then 0xFF else 0]
    let x := latched m k
    let m := (rs ++ [e]).foldl putRecord m
    { m with tb := { m.tb with snapSeq := m.tb.snapSeq + 1, snapBusy := true }
             fab := { m.fab with links := m.fab.links.map (fun l => 
               let c := tblGet (0, 0) x.links l.1
               (l.1, { l.2 with telReplays := l.2.telReplays - c.1, telUce := l.2.telUce - c.2 })) } }

/-- The snapshot of a firing: dropped under R640 and R642, or taken. -/
def snapshot (m : Mod) (k : Nat) (t : Word) : Mod :=
  if !m.tb.telEn then m
  else if (m.pwr.level != 0 && (mpOf m k).fired.toNat % 10 != 0) || m.tb.snapBusy then loseRecord m
  else takeSnapshot m k t

/-- The TRIGGER records held while a snapshot was written. -/
def putTrigger (m : Mod) (words : List Word) : Mod := if freeUnits m.tb < 1 then loseRecord m else putRecord m words

/-- END reaches the ring: the records held are written after it (R639). -/
def snapshotEnd (m : Mod) : Mod :=
  if !m.tb.snapBusy then m
  else m.tb.held.foldl putTrigger { m with tb := { m.tb with snapBusy := false, held := [] } }

/-- SNAPSHOT_WRITE_COMPLETE. -/
def execSnapshotWriteComplete (s : State) : Host.Outcome State Fault Refusal := .next { s with mod := snapshotEnd s.mod }

/-! ## Milepost comparators (R630 to R632) -/

/-- The tick of a comparator, counted as the timebase counts: the first at or after its time, and after that of the last write of its registers (R630). -/
def Milepost.tick (tb : Timebase) (p : Milepost) : Int := max ((tb.ticks : Int) + p.time.toNat - tb.time.toNat) ((p.armed : Int) + 1)

/-- Does another enabled comparator act before comparator `k`: at an earlier tick, or at the same one with a lower number (R631)? -/
def firesBefore (m : Mod) (k : Nat) : Bool :=
  let t := (mpOf m k).tick m.tb
  m.tb.mps.any (fun e => e.2.en && e.1 != k && (decide (e.2.tick m.tb < t) || (e.2.tick m.tb == t && decide (e.1 < k))))

/-- The periods after which a comparator's time lies after the timebase. -/
def periodsAfter (p : Milepost) (now : Word) : Nat := (now.toNat - p.time.toNat) / p.period.toNat + 1

/-- The comparator after its firing: one-shot, or set to the next whole period (R630). -/
def Milepost.fire (p : Milepost) (now : Word) : Milepost :=
  let p := { p with fired := p.fired + 1 }
  if p.period = 0 then { p with en := false }
  else
    let n := periodsAfter p now
    { p with time := p.time + w64 (n * p.period.toNat), missed := satAdd 32 p.missed (n - 1) }

/-- irq: MILEPOST is pending on every live thread of the comparator's job (R632). -/
def raiseMilepost (m : Mod) (k : Nat) : Mod :=
  let j := (mpOf m k).job.toNat
  if j = 0 then m
  else (jobThreads m j).foldl (fun m t =>
    setCtx m t (fun x => { x with mpMask := x.mpMask ||| BitVec.ofNat 16 (2 ^ k), pendInt := x.pendInt ||| 4 })) m

/-- A pulse on every pin that is an output for the comparator (R632, R645). -/
def startPulses (m : Mod) (k : Nat) : Mod :=
  ((List.range 8).filter (fun i => (pinOf m i).en && (pinOf m i).out && (pinOf m i).mp.toNat == k)).foldl (fun m i =>
    emit (setPin m i (fun p => { p with pulseEnd := some (m.now + max 8 p.width.toNat) })) (.triggerPulse i)) m

/-- A comparator fires at its tick, and takes the actions that it enables; a write of its registers in that tick takes effect after them. It does not fire while another
comparator is to act before it (R630, R631). -/
def fireMilepost (m : Mod) (k : Nat) : Mod :=
  if !(mpOf m k).en || !tbRuns m || firesBefore m k then m
  else
    let m := reachTicks ((mpOf m k).tick m.tb).toNat 128 m
    let now := m.tb.time
    let old := mpOf m k
    let m := setMp m k (fun p => p.fire now)
    let m := if old.irq then raiseMilepost m k else m
    let m := if old.snap then snapshot m k now else m
    let m := setMp (startPulses m k) k (fun p => { p with latch := none, late := [] })
    old.late.foldl (fun m w => mpWrite m k w.1 w.2.1 w.2.2) m

/-- MILEPOST_COMPARATOR_FIRE. -/
def execMilepostComparatorFire (k : BitVec 4) (s : State) : Host.Outcome State Fault Refusal := .next { s with mod := fireMilepost s.mod k.toNat }

/-! ## Trigger pins (R643 to R645) -/

/-- Does a pin's configuration select an edge? -/
def edgeSelected (p : TrigPin) (rising : Bool) : Bool := p.en && !p.out && p.edge.getLsbD (if rising then 0 else 1)

/-- Does an edge follow a stamped one by less than 20 ns? -/
def edgeTooSoon (p : TrigPin) (now : Word) : Bool := p.stamped.elim false (fun t => decide ((now - t).toNat < 20))

/-- The TRIGGER record of a stamped edge (R641). -/
def triggerRecord (m : Mod) (i : Nat) (rising : Bool) : List Word := telHeader m 7 0 i m.tb.edgeSeq m.tb.time 0 ++ [w64 (b1 rising)]

/-- An edge on a pin: stamped, and recorded, after a snapshot that is being written. -/
def pinEdge (m : Mod) (i : Nat) (rising : Bool) : Mod :=
  let p := pinOf m i
  if !tbRuns m || !edgeSelected p rising || edgeTooSoon p m.tb.time then m
  else
    let r := triggerRecord m i rising
    let m := setPin m i (fun p => { p with stamp := m.tb.time, stamped := some m.tb.time })
    let m := { m with tb := { m.tb with edgeSeq := m.tb.edgeSeq + 1 } }
    if !m.tb.telEn || !m.tb.telKinds.getLsbD 6 then m
    else if m.tb.snapBusy then { m with tb := { m.tb with held := m.tb.held ++ [r] } }
    else putTrigger m r

/-- TRIGGER_EDGE. -/
def execTriggerEdge (pin : BitVec 3) (rising : Bool) (s : State) : Host.Outcome State Fault Refusal := .next { s with mod := pinEdge s.mod pin.toNat rising }

/-- A pulse ends: time moves on to its end. -/
def pulseEnds (m : Mod) (i : Nat) : Mod :=
  match (pinOf m i).pulseEnd with
  | none => m
  | some t => setPin (toTime m t) i (fun p => { p with pulseEnd := none })

/-- TRIGGER_PULSE_END. -/
def execTriggerPulseEnd (pin : BitVec 3) (s : State) : Host.Outcome State Fault Refusal := .next { s with mod := pulseEnds s.mod pin.toNat }

end Sys2Proof.Machine
end

