-- ==== Sys2Proof/Machine/Boot.lean ====
section
/-! DEFINITION. The end of boot (R597, R610, R620, R667), the firmware update (R669), the messages of DOE and I3C (R674, R675), and the sideband pins (R680, R686, R687). -/

namespace Sys2Proof.Machine

/-! ## READY (R597, R610, R620, R667) -/

/-- The journal checked: lost, and an empty one is begun, or kept and open again. -/
def checkJournal (m : Mod) : Mod :=
  let m := { m with hq := { m.hq with journalClosed := false } }
  if m.hq.journalLost then loseJournal { m with hq := { m.hq with journalLost := false } } else m

/-- HBM and links have trained: the journal is checked, every domain leaves reset, the module is READY and floods it; its module reset is complete. -/
def ready1 (m : Mod) : Mod :=
  if m.sec.stage != 2 || m.rcv.resets.any (fun r => r.d == .module && r.draining) then m
  else
    let m := checkJournal { m with sec := { m.sec with stage := 3 }, cores := m.cores.map (fun c => (c.1, { c.2 with inReset := false })) }
    let m := { m with rcv := { m.rcv with beats := (List.range 8).map (fun k => (k, m.now)) } }
    flood (endReset m .module) 0x22 false 0 0 m.fab.id.toNat 0 0 0

/-- TRAINING_COMPLETE: the stages before TRAINING have ended then. -/
def execTrainingComplete (s : State) : Host.Outcome State Fault Refusal := .next { s with mod := if s.mod.pwr.down then s.mod else ready1 (bootOn (bootOn s.mod)) }

/-- FIRMWARE_UPDATE_COMPLETE; `storeFails`: the store could not be written or read back (R669). -/
def execFirmwareUpdateComplete (storeFails : Bool) (s : State) : Host.Outcome State Fault Refusal :=
  .next { s with mod := if powered s.mod && s.mod.sec.stage == 3 then secUpdateEnd s.mod storeFails else s.mod }

/-! ## DOE and I3C (R674) -/

/-- Does an interface take a request: the mailbox of a live port, or an I3C target with an address? -/
def mailOpen (m : Mod) (b : Mailbox) : Bool :=
  match b with
  | .doe p => portLive m p
  | .i3c => m.pwr.aoOn && !m.pwr.down && m.sec.i3cAddr.isSome

/-- A response: it echoes the command (R674). -/
def answerMail (m : Mod) (b : Mailbox) (command status : Byte) (d : List Byte) : Mod := emit m (.reply b command status d)

/-- The answer to DOE Discovery: the discovery protocol itself, then the one object type of R674 (log 121, PRESUMED). -/
def discovered (m : Mod) (p : Bool) (index : Byte) : Mod :=
  if index = 0 then emit m (.discovery p 1 0 1)
  else if index = 1 then emit m (.discovery p Config.vendorId 1 0)
  else emit m (.discovery p 0xFFFF 0 0)

/-- A request is handled where the interface takes one and none is outstanding on it: `f` answers one that begins with the command and the payload length given, and one that
begins otherwise is a BAD_REQUEST. An I3C write while a response is pending is not acknowledged (R674) (log 20, DESIGN CHOICE). -/
def onMail (m : Mod) (b : Mail) (command : Byte) (length : Nat) (f : Mod → Mod) : Mod :=
  if !mailOpen m b.box then m
  else if m.sec.reports.any (fun r => r.m == b.box) then (if b.box == .i3c then { m with answer := .nack } else m)
  else
    match b.head, b.box with
    | .discovery i, .doe p => discovered m p i
    | .discovery _, .i3c => m
    | .message c n, box => if c == command && n.toNat == length then f m else answerMail m box c 1 []

/-- GET_IDENTITY. -/
def execGetIdentity (m : Mail) (s : State) : Host.Outcome State Fault Refusal :=
  .next { s with mod := onMail s.mod m 1 0 (fun x => answerMail x m.box 1 0 (identityKey x.sec).pub) }

/-- GET_CERT (R671). -/
def execGetCert (m : Mail) (s : State) : Host.Outcome State Fault Refusal :=
  .next { s with mod := onMail s.mod m 2 0 (fun x => answerMail x m.box 2 0 (certificate x.sec)) }

/-! ## Reports (R675) -/

/-- The registers that a mask names, in ascending order. -/
def maskRegs (mask : BitVec 16) : List Nat := (List.range 16).filter (fun i => mask.getLsbD i)

/-- The bytes of a report before its signature. -/
def reportBody (m : Mod) (mask : BitVec 16) (nonce : List Byte) : List Byte :=
  let x := m.sec
  toBytes 4 0x54524841 ++ [1, 0] ++ toBytes 2 mask.toNat ++ wordBytes m.tb.time ++ nonce ++ digest (identityKey x).pub ++
    (List.range 4).map (fun c => BitVec.ofNat 8 (tblGet 0 x.fuseCtr c)) ++ toBytes 2 m.fab.id.toNat ++
    [BitVec.ofNat 8 ((slotManifest x x.slot.toNat).elim 0 Manifest.keySlot), BitVec.ofNat 8 x.slot.toNat] ++
    (List.range 16).flatMap (fun i => toBytes 4 (tblGet 0 x.mrCount i).toNat) ++ (maskRegs mask).flatMap (mrOf x)

/-- The engine latches the registers of the report that is first in line, as its signing begins. -/
def latchReport (m : Mod) : Mod :=
  match m.sec.reports with
  | [] => m
  | r :: rest =>
    if r.body.isSome then m
    else { m with sec := { m.sec with reports := { r with body := some (reportBody m r.mask r.nonce) } :: rest } }

/-- A request for a report: NOT_READY outside READY and FAILED. -/
def askReport (m : Mod) (b : Mailbox) (mask : BitVec 16) (nonce : List Byte) : Mod :=
  if m.sec.stage != 3 && m.sec.stage != 15 then answerMail m b 3 2 []
  else latchReport { m with sec := { m.sec with reports := m.sec.reports ++ [{ m := b, mask := mask, nonce := nonce, body := none }] } }

/-- GET_REPORT: its payload is the mask and the nonce, 34 bytes; of another nonce the length is malformed. -/
def execGetReport (m : Mail) (mask : BitVec 16) (nonce : List Byte) (s : State) : Host.Outcome State Fault Refusal :=
  .next { s with mod := onMail s.mod m 3 34 (fun x => if nonce.length = 32 then askReport x m.box mask nonce else answerMail x m.box 3 1 []) }

/-- The context string of reports (R661): "AHS-2048-REPORT". -/
def reportContext : List Byte := [0x41, 0x48, 0x53, 0x2D, 0x32, 0x30, 0x34, 0x38, 0x2D, 0x52, 0x45, 0x50, 0x4F, 0x52, 0x54]

/-- A report with its signature (R661, R675). -/
def signedReport (x : Sec) (d : List Byte) (random : BitVec 256) : List Byte :=
  d ++ MlDsa.sign (identityKey x) reportContext (digest d) (toBytes 32 random.toNat)

/-- The report under signature is signed and returned; the next one is latched. -/
def signReport (m : Mod) (random : BitVec 256) : Mod :=
  match m.sec.reports with
  | [] => m
  | r :: rest =>
    match r.body with
    | none => m
    | some d =>
      let n := latchReport { m with sec := { m.sec with reports := rest } }
      if mailOpen m r.m then answerMail n r.m 3 0 (signedReport m.sec d random) else n

/-- REPORT_SIGNED; `random`: the random input of the hedged signature. -/
def execReportSigned (random : BitVec 256) (s : State) : Host.Outcome State Fault Refusal := .next { s with mod := signReport s.mod random }

/-! ## STORE_WRITE and the dynamic address (R668, R674) -/

/-- A STORE_WRITE: over I3C in FAILED only, up to 4 KiB within the store; anything else is a BAD_REQUEST (log 20, DESIGN CHOICE). -/
def storeWritten (m : Mod) (b : Mailbox) (off : Nat) (d : List Byte) : Mod :=
  if b != .i3c || m.sec.stage != 15 || decide (4096 < d.length) || decide (slotBase 2 < off + d.length) then answerMail m b 16 1 []
  else answerMail { m with sec := storePut m.sec off d } b 16 0 []

/-- STORE_WRITE: its payload is the offset and the length, four bytes each, and the data. -/
def execStoreWrite (m : Mail) (off : Nat) (data : List Byte) (s : State) : Host.Outcome State Fault Refusal :=
  .next { s with mod := onMail s.mod m 16 (8 + data.length) (fun x => storeWritten x m.box off data) }

/-- The I3C target takes a dynamic address (log 21, DESIGN CHOICE). -/
def takeAddress (m : Mod) (addr : BitVec 7) : Mod := if m.pwr.aoOn then { m with sec := { m.sec with i3cAddr := some addr } } else m

/-- ENTDAA. -/
def execEntdaa (addr : BitVec 7) (s : State) : Host.Outcome State Fault Refusal := .next { s with mod := takeAddress s.mod addr }

/-- SETDASA. -/
def execSetdasa (addr : BitVec 7) (s : State) : Host.Outcome State Fault Refusal := .next { s with mod := takeAddress s.mod addr }

/-! ## Pins (R680, R686, R687) -/

/-- What IDCODE reads (R687). -/
def jtagId : Nat := 0x1204877F

/-- The levels of the sideband pins as boundary scan captures them: FATAL_N, PWR_FAIL_N, MOD_RESET_N, PERST_N of both hosts, PRSNT_N of the bundles. EXTEST drives the first two
from the preloaded cells (log 122, DESIGN CHOICE). -/
def pinLevels (m : Mod) : List Bool :=
  let out := if m.pins.jtag == .extest then m.pins.preload else (!m.pins.fatal, !m.pins.pwrFail)
  [out.1, out.2, !m.pins.modReset, !m.hq.port0.perst, !m.hq.port1.perst] ++ (List.range 12).map (fun b => m.pins.absent.contains (BitVec.ofNat 4 b))

/-- A JTAG instruction loaded, and what its data register shifts out: an instruction that IEEE 1149.1 does not require is a debug event (R672, R687). -/
def jtagLoad (m : Mod) (i : JtagInstr) : Mod :=
  if !m.pwr.aoOn || m.pwr.down then m
  else
    let n : Mod := { m with pins := { m.pins with jtag := i } }
    match i with
    | .bypass => emit n (.jtag [false])
    | .samplePreload f w => emit { n with pins := { n.pins with preload := (f, w) } } (.jtag (pinLevels m))
    | .extest => emit n (.jtag (pinLevels n))
    | .idcode => emit n (.jtag ((List.range 32).map (bitOf jtagId)))
    | .other => debugEvent n 2

/-- JTAG_INSTRUCTION_LOAD. -/
def execJtagInstructionLoad (i : JtagInstr) (s : State) : Host.Outcome State Fault Refusal := .next { s with mod := jtagLoad s.mod i }

/-- PERST_N: the port is held in reset, with the effects of a Function Level Reset and its configuration at reset. -/
def execPerstN (port : Bool) (s : State) : Host.Outcome State Fault Refusal :=
  .next { s with mod := setPort (flr s.mod port) port (fun k => { k with perst := true, payload := 128, aer := 0 }) }

/-- PERST_N_RELEASE: the port trains. -/
def execPerstNRelease (port : Bool) (s : State) : Host.Outcome State Fault Refusal :=
  .next { s with mod := setPort s.mod port (fun k => { k with perst := false }) }

/-- A module reset past its drain is held with only AO running. -/
def holdReset (m : Mod) : Mod := if m.rcv.resets.any (fun r => r.d == .module && !r.draining) then wipeModule m else m

/-- MOD_RESET_N low for 10 us: a module reset, resolved under R606 when one is running. -/
def modResetLow (m : Mod) : Mod :=
  let m := { m with pins := { m.pins with modReset := true } }
  if mayReset m .module then holdReset (beginReset (toTime m (m.now + 10000)) .module false false) else m

/-- MOD_RESET_N (log 22, DESIGN CHOICE). -/
def execModResetN (s : State) : Host.Outcome State Fault Refusal := .next { s with mod := modResetLow s.mod }

/-- MOD_RESET_N high: the reset that it held proceeds, and its limit runs from now on. -/
def modResetHigh (m : Mod) : Mod :=
  let held := m.pins.modReset && m.pwr.down && m.rcv.resets.any (fun r => r.d == .module && !r.draining)
  let m := { m with pins := { m.pins with modReset := false } }
  if !held then m
  else
    let m := bootModule m
    { m with rcv := { m.rcv with resets := m.rcv.resets.map (fun r => if r.d == .module then { r with limitAt := m.now + resetLimit .module } else r) } }

/-- MOD_RESET_N_RELEASE. -/
def execModResetNRelease (s : State) : Host.Outcome State Fault Refusal := .next { s with mod := modResetHigh s.mod }

/-- PRSNT_N of a bundle connector: with the cable absent the links of the bundle cannot train; an up link loses its signal by its own events. A connected one trains. -/
def presence (m : Mod) (b : BitVec 4) (present : Bool) : Mod :=
  let m := { m with pins := { m.pins with absent := if present then m.pins.absent.filter (· != b) else if m.pins.absent.contains b then m.pins.absent else m.pins.absent ++ [b] } }
  (List.range 8).foldl (fun m k =>
    let l := 8 * b.toNat + k
    setLink m l (fun x =>
      if x.state = 3 ∧ mayTrain m l then { x with state := 1 }
      else if x.state = 1 ∧ !mayTrain m l then { x with state := 3 }
      else x)) m

/-- PRSNT_N. -/
def execPrsntN (bundle : BitVec 4) (present : Bool) (s : State) : Host.Outcome State Fault Refusal := .next { s with mod := presence s.mod bundle present }

end Sys2Proof.Machine
end

