-- ==== Sys2Proof/Machine/CoreRun.lean ====
section
/-! DEFINITION. A core at work: fetch and issue (R68, R392 to R395), landings (R63), arrivals of loads (R140, R143), thread switches (R335 to R339), exception entry and return (R308 to R320), the WAITDOG (R350). -/

namespace Sys2Proof.Machine

/-! ## Fetch -/

/-- The fault of a fetch at a bundle address (R395). -/
def fetchFault (pc : Word) : Flt := { level := 3, code := 0x26, slot := 7, detail := 2, addr := pc }

/-- What a fetch of the bundle at a thread's pc finds: a fault, a miss, or the bundle. -/
inductive Fetched where
  | fault
  | miss (line : Nat)
  | hit (b : Bundle)
  deriving DecidableEq, Repr

/-- The instruction cache looked up at the thread's pc (R391, R392, R395). -/
def fetch (m : Mod) (t : Nat) : Mod × Fetched :=
  let c := t / 4
  let pc := (ctx m t).pc
  if fld pc.toNat 47 17 != 0 then (m, .fault)
  else
    match xlate m c (ctx m t).xbase pc with
    | (m, .here a) =>
      match icFind m c (lineOf a) with
      | none => (count m c 13 1, .miss (lineOf a))
      | some l =>
        if l.fails (bitOf a 5) then (count (count (icDrop m c (lineOf a)) c 14 1) c 13 1, .miss (lineOf a))
        else (icTouch m c (lineOf a), .hit (decodeBundle t (ofBytes (sliceBytes l.data (a % 64) 32))))
    | (m, _) => (m, .fault)

/-- A bundle of the thread tried (R68). -/
def runBundle (m : Mod) (t : Nat) (b : Bundle) : Mod := issueBundle m t b b.bad (fun cyc => b.defs (core m (t / 4)) cyc)

/-- The current thread of a core issues its next bundle, waits, misses, or takes a fault (R68, R392, R393). -/
def bundleStep (m : Mod) (c : Nat) : Mod :=
  let t := 4 * c + (core m c).cur
  if !canIssue m t || (core m c).fetching.isSome then m
  else
    match (ctx m t).waiting with
    | some b => runBundle m t b
    | none =>
      match fetch m t with
      | (m, .fault) =>
        let m := toBoundary m t
        if mustEnter (ctx m t) then m else takeException m t (fetchFault (ctx m t).pc)
      | (m, .miss line) => setCore m c (fun k => { k with fetching := some (line, (ctx m t).pc), fetchAt := m.now, fetchPaused := m.pwr.pausedTotal })
      | (m, .hit b) => runBundle m t b

/-- BUNDLE_ISSUE. A core whose current thread may not issue stays as it is. -/
def execBundleIssue (core : CoreId) (ups : Upsets) (s : State) : Host.Outcome State Fault Refusal :=
  .next { s with mod := bundleStep (applyUpsets s.mod ups) core.toNat }

/-- The 64 bytes of a line of code read from memory, and the status of an error response (R395, R600). -/
def readCode (m : Mod) (line : Nat) : Mod × List (Byte × Bool) × Nat :=
  if fencedAt m line m.now then (m, [], 1)
  else
    match regionIn m line with
    | .hbm => match readHbm m line 64 with | (m, d) => (m, d, 0)
    | .cm _ _ | .lm _ _ | .sdm _ _ => match readSram (reportUe m line 64) line 64 with | (m, d) => (m, d, 0)
    | _ => (m, [], 2)

/-- A line of code arrives: for the miss under way, else for the first prefetch (R392, R394, R395). -/
def fetchArrives (m : Mod) (c : Nat) : Mod :=
  match (core m c).fetching with
  | some (line, pc) =>
    let m := setCore m c (fun k => { k with fetching := none })
    match readCode m line with
    | (m, d, st) =>
      if st != 0 || d.any (fun b => b.2) then fetchPoison m c pc st
      else setCore (icInstall m c line (d.map Prod.fst)) c (fun k => { k with nextIssue := max k.nextIssue (k.cycle + 1) })
  | none =>
    match (core m c).iprefetch with
    | [] => m
    | line :: rest =>
      let m := setCore m c (fun k => { k with iprefetch := rest })
      match readCode m line with
      | (m, d, st) => if st != 0 || d.any (fun b => b.2) then m else icInstall m c line (d.map Prod.fst)

/-- FETCH_MISS_FILL. -/
def execFetchMissFill (core : CoreId) (ups : Upsets) (s : State) : Host.Outcome State Fault Refusal :=
  onMesh s (fun m => fetchArrives (applyUpsets m ups) core.toNat)

/-! ## Landings and arrivals -/

/-- The cycle of the next landing of a thread. -/
def nextLanding (x : Ctx) : Option Nat :=
  x.inflight.foldl (fun acc l => match acc with | some d => some (min d l.due) | none => some l.due) none

/-- Does the current thread of a core issue a bundle by cycle `d`, which then comes before what lands later (R63, R68)? -/
def issuesBy (m : Mod) (c d : Nat) : Bool :=
  let t := 4 * c + (core m c).cur
  canIssue m t && (core m c).fetching.isNone && decide (max (max (core m c).cycle (core m c).nextIssue) (ctx m t).notBefore ≤ d)

/-- The next fixed result of a thread lands, and all of its core up to that cycle, in which no bundle issues any more: other requesters see what has landed, after the own
reads of the cycle (R452); `residue`: the residue check of an MMA that lands then fails (R63, R248). A bundle that issues by then does so first, and takes the landing with it. -/
def landNext (m : Mod) (t : Nat) (residue : Bool) : Mod :=
  match nextLanding (ctx m t) with
  | none => m
  | some d =>
    if !meshRuns m then m
    else
      let m := if residue then residueFail m t d else m
      if issuesBy m (t / 4) d then m
      else setCore (advance m (t / 4) d) (t / 4) (fun c => { c with nextIssue := max c.nextIssue (d + 1) })

/-- RESULT_LANDING. -/
def execResultLanding (thread : ThreadId) (residue : Bool) (s : State) : Host.Outcome State Fault Refusal :=
  .next { s with mod := landNext s.mod thread.toNat residue }

/-- The memory detail of an uncorrectable granule (R388): LM, SDM, CM. -/
def accUeDetail (a : Access) : Nat := ueDetail a.addr

/-- The value of a load or atomic written to its destination, whose pending bit it clears (R74, R140). -/
def deliver (m : Mod) (a : Access) (d : List Byte) : Mod :=
  let t := a.thread.toNat
  match a.dest with
  | .s r f =>
    setCtx (landLate m t (0, r) a.cyc a.slot (fun x => x.setS r (extendLoad f (ofBytes d)))) t
      (fun x => { x with pendS := x.pendS &&& ~~~(BitVec.ofNat 32 (2 ^ r)) })
  | .v r =>
    setCtx (landLate m t (1, r) a.cyc a.slot (fun x => x.setV r (vecOf d))) t
      (fun x => { x with pendV := x.pendV &&& ~~~(BitVec.ofNat 32 (2 ^ r)) })
  | _ => m

/-- What a thread takes for a load whose data are bad (R143, R388, R600): nothing is written and the pending bit stays. -/
def loadCheck (m : Mod) (a : Access) (r : Resp) : Mod :=
  let t := a.thread.toNat
  if r.ue then raiseCheck m t { machineCheck 0x32 0 (accUeDetail a) a.bundle 0 with slot := a.slot }
  else raiseCheck m t { machineCheck 0x31 0 0 a.bundle a.jobAddr with slot := a.slot, status := r.status }

/-- The response to a load or atomic reaches its thread. -/
def arrival (m : Mod) (id : Nat) : Mod :=
  match accFind m id with
  | none => m
  | some a =>
    if a.kind != .load && a.kind != .amo then m
    else
      match a.answer with
      | none => m
      | some r =>
        let m := accDel m id
        if !ownerHere m a then m
        else if r.status != 0 || r.poison || r.ue then loadCheck m a r
        else deliver m a r.data

/-- PENDING_RESULT_ARRIVAL: the result of an ended thread is discarded (R333). -/
def execPendingResultArrival (id : Nat) (s : State) : Host.Outcome State Fault Refusal := onMesh s (fun m => arrival m id)

/-! ## Switching (R335 to R339) -/

/-- The bundle that a thread issues next, where it is known: the one that waits, or the one that the instruction cache holds at its pc. -/
def nextBundle (m : Mod) (t : Nat) : Option Bundle :=
  match (ctx m t).waiting with
  | some b => some b
  | none => match (fetch m t).2 with
    | .hit b => some b
    | _ => none

/-- The long stall that keeps a bundle of the thread from issuing now; 0 for none, or where decode gives it a fault (R68, R309). -/
def stallIn (m : Mod) (t : Nat) (b : Bundle) : Nat :=
  let x := ctx m t
  let k : Iss := { m := m, th := t, cyc := (core m (t / 4)).cycle, pc := x.pc, x := x, pops := [] }
  let ds := b.defs (core m (t / 4)) k.cyc
  let on := ds.filter (fun d => guardOn d.guard x)
  if (decodeFault x b.bad ds).isSome then 0
  else bundleStall k (match x.resume with
    | some _ => on.filter (fun d => d.hold.isSome)
    | none => on)

/-- The long stall that a live thread is in now, as the code of cr.waitdog.why; 0 for none (R68, R349). -/
def stallNow (m : Mod) (t : Nat) : Nat :=
  let x := ctx m t
  if x.entry.isSome || x.rteAt.isSome then 0xA
  else if x.hold.isSome then 8
  else (nextBundle m t).elim 0 (stallIn m t)

/-- Is there an exception that the thread can take in the cycle of its boundary (R308, R321)? -/
def canEnter (m : Mod) (t : Nat) : Bool := hasEntry (toBoundary m t) t

/-- Is the thread ready (R308, R335)? -/
def ready (m : Mod) (t : Nat) : Bool :=
  let x := ctx m t
  x.live && !x.halted && !(core m (t / 4)).inReset && !threadFenced m t && (canEnter m t || stallNow m t == 0)

/-- Is the core at a switch point of its current thread (R335)? A core whose fetch is under way is not (R393). -/
def atSwitch (m : Mod) (c : Nat) : Bool :=
  let t := 4 * c + (core m c).cur
  let x := ctx m t
  (core m c).fetching.isNone && (!x.live || x.halted || (core m c).expired || (core m c).idle || threadFenced m t)

/-- The cycle of the switch: the one in which the bundle could not issue, or the one after the last bundle; where no thread is ready by then, the first in which
one is (R331, R338). -/
def switchCycle (m : Mod) (c : Nat) : Nat :=
  let at_ := max (core m c).cycle (core m c).switchAt
  let rd := ((List.range 4).filter (fun i => ready m (4 * c + i))).map (fun i => (ctx m (4 * c + i)).readyAt)
  match rd with
  | [] => at_
  | r :: l => max at_ (l.foldl min r)

/-- The first of the contexts after `last`, wrapping (R337). -/
def firstAfter (last : Nat) (l : List Nat) : Option Nat :=
  ((List.range 4).map (fun i => (last + 1 + i) % 4)).find? (fun i => l.contains i)

/-- The context chosen of the threads ready in the switch cycle, and whether at high priority (R331, R337). -/
def chooseThread (m : Mod) (c : Nat) : Option (Nat × Bool) :=
  let rd := (List.range 4).filter (fun i => ready m (4 * c + i) && decide ((ctx m (4 * c + i)).readyAt ≤ switchCycle m c))
  let hi := rd.filter (fun i => (ctx m (4 * c + i)).prio)
  if hi.isEmpty then (firstAfter (core m c).lastNormal rd).map (fun i => (i, false))
  else (firstAfter (core m c).lastHigh hi).map (fun i => (i, true))

/-- A thread that leaves its turn to another waits in the long stall of its next bundle, where that cannot issue (R68, R335). -/
def parkThread (m : Mod) (t : Nat) : Mod :=
  if (ctx m t).live && stallOf (ctx m t) == 0 && stallNow m t != 0 then
    setCtx m t (fun x => { x with waiting := nextBundle m t, stall := BitVec.ofNat 4 (stallNow m t) })
  else m

/-- The core chooses its next thread (R337, R338, R339). A switch from a taken branch of cycle t counts its switch cycle among the two in which R80 lets no bundle
issue, so that the chosen thread issues in t + 3 (log 85, DEDUCED). -/
def switchThread (m : Mod) (c : Nat) : Mod :=
  match chooseThread m c with
  | none => m
  | some (i, hi) =>
    let old := (core m c).cur
    let at_ := switchCycle m c
    let m := setCtx (setCtx m (4 * c + old) (fun x => { x with qcount := 0 })) (4 * c + i) (fun x => { x with qcount := 0 })
    let m := setCore m c (fun k =>
      { k with cur := i, expired := false, idle := false, lastHigh := if hi then i else k.lastHigh, lastNormal := if hi then k.lastNormal else i
               nextIssue := max k.nextIssue (if i = old then (if k.idle then at_ else k.nextIssue) else at_ + 1) })
    if i = old then m else count (parkThread m (4 * c + old)) c 10 1

/-- THREAD_SWITCH: at a switch point, and where a thread is ready. -/
def execThreadSwitch (core : CoreId) (s : State) : Host.Outcome State Fault Refusal :=
  .next { s with mod := if atSwitch s.mod core.toNat then switchThread s.mod core.toNat else s.mod }

/-- The switch point of a quantum that has expired (R339). -/
def quantumSwitch (m : Mod) (c : Nat) : Mod := if (core m c).expired then switchThread m c else m

/-- QUANTUM_EXPIRY. -/
def execQuantumExpiry (core : CoreId) (s : State) : Host.Outcome State Fault Refusal := .next { s with mod := quantumSwitch s.mod core.toNat }

/-! ## Exceptions -/

/-- EXCEPTION_ENTRY: what R308 gives the thread at its boundary. -/
def execExceptionEntry (thread : ThreadId) (s : State) : Host.Outcome State Fault Refusal := .next { s with mod := enterBoundary s.mod thread.toNat }

/-- The frame push of a thread. -/
def pushAccess (m : Mod) (t : Nat) : Option Access :=
  m.accs.find? (fun a => a.kind == .framePush && a.thread.toNat == t && a.gen == (ctx m t).gen)

/-- The response to a frame push: 3 where the target line was poisoned (R312). -/
def pushStatus (r : Resp) : Nat := if r.status = 0 then 0 else if r.poison then 3 else 4

/-- The frame push of a thread is answered (R311, R312). -/
def framePushed (m : Mod) (t : Nat) : Mod :=
  match (ctx m t).entry, pushAccess m t with
  | some e, some a => match a.answer with
    | some r => pushDone (accDel m a.id) t e (pushStatus r)
    | none => m
  | _, _ => m

/-- FRAME_PUSH_COMPLETE. -/
def execFramePushComplete (thread : ThreadId) (s : State) : Host.Outcome State Fault Refusal := onMesh s (fun m => framePushed m thread.toNat)

/-- RTE_FRAME_READ_COMPLETE. -/
def execRteFrameReadComplete (thread : ThreadId) (s : State) : Host.Outcome State Fault Refusal := onMesh s (fun m => rteDone m thread.toNat)

/-! ## The WAITDOG (R349, R350) -/

/-- The codes of cr.waitdog.why (R349). -/
def whyBits (m : Mod) (c : Nat) : Nat :=
  (List.range 4).foldl (fun w i => w + (if isLive m (4 * c + i) then stallNow m (4 * c + i) else 0) * 16 ^ i) 0

/-- Does the WAITDOG count: a live context, every live thread in a long stall, none halted (R350)? -/
def waitdogRuns (m : Mod) (c : Nat) : Bool :=
  let l := liveThreads m c
  !l.isEmpty && l.all (fun t => !(ctx m t).halted && stallNow m t != 0 && !canEnter m t)

/-- The WAITDOG of a core fires (R350). -/
def waitdogFires (m : Mod) (c : Nat) : Mod :=
  let lim := (core m c).wdLimit.toNat
  if lim = 0 || !coresRun m || !waitdogRuns m c then m
  else
    let why := whyBits m c
    let m := advance m c (max (core m c).cycle ((core m c).wdFrom + lim))
    let m := setCore (count m c 50 1) c (fun k => { k with wdWhy := BitVec.ofNat 16 why, wdFrom := k.cycle })
    if isLive m (4 * c) then setCtx m (4 * c) (fun x => { x with pendInt := x.pendInt ||| 2 }) else m

/-- WAITDOG: the core's clock moves on to the cycle in which it fires. -/
def execWaitdog (core : CoreId) (s : State) : Host.Outcome State Fault Refusal := .next { s with mod := waitdogFires s.mod core.toNat }

end Sys2Proof.Machine
end

