-- ==== Sys2Proof/Machine/Dispatch.lean ====
section
/-! DEFINITION. The dispatch: one arm per command, each a direct call of its meaning. -/

namespace Sys2Proof.Machine

/-- The effect of a command on everything but the queue. -/
def exec (i : Instr) (s : State) : Host.Outcome State Fault Refusal :=
  match i with
  | .setupRegisterWrite who off size value => Sys2Proof.Machine.execSetupRegisterWrite who off size value s
  | .readClearFieldRead who off size => Sys2Proof.Machine.execReadClearFieldRead who off size s
  | .meshFlitRetry tile => Sys2Proof.Machine.execMeshFlitRetry tile s
  | .clockStretch tile periods => Sys2Proof.Machine.execClockStretch tile periods s
  | .stewardBridgeFailover bridge => Sys2Proof.Machine.execStewardBridgeFailover bridge s
  | .dbgBarmemWrite thread w acc => Sys2Proof.Machine.execDbgBarmemWrite thread w acc s
  | .barrierComplete group => Sys2Proof.Machine.execBarrierComplete group s
  | .bundleIssue core ups => Sys2Proof.Machine.execBundleIssue core ups s
  | .fetchMissFill core ups => Sys2Proof.Machine.execFetchMissFill core ups s
  | .resultLanding thread residue => Sys2Proof.Machine.execResultLanding thread residue s
  | .pendingResultArrival id => Sys2Proof.Machine.execPendingResultArrival id s
  | .threadSwitch core => Sys2Proof.Machine.execThreadSwitch core s
  | .quantumExpiry core => Sys2Proof.Machine.execQuantumExpiry core s
  | .nop iss slot => Sys2Proof.Machine.execNop iss slot s
  | .add iss d a b => Sys2Proof.Machine.execAdd iss d a b s
  | .sub iss d a b => Sys2Proof.Machine.execSub iss d a b s
  | .and iss d a b => Sys2Proof.Machine.execAnd iss d a b s
  | .or iss d a b => Sys2Proof.Machine.execOr iss d a b s
  | .xor iss d a b => Sys2Proof.Machine.execXor iss d a b s
  | .shl iss d a b => Sys2Proof.Machine.execShl iss d a b s
  | .shr iss d a b => Sys2Proof.Machine.execShr iss d a b s
  | .sra iss d a b => Sys2Proof.Machine.execSra iss d a b s
  | .mov iss d src => Sys2Proof.Machine.execMov iss d src s
  | .movk iss d h imm => Sys2Proof.Machine.execMovk iss d h imm s
  | .sel iss d a b m => Sys2Proof.Machine.execSel iss d a b m s
  | .cmpeq iss d a b => Sys2Proof.Machine.execCmpeq iss d a b s
  | .cmpne iss d a b => Sys2Proof.Machine.execCmpne iss d a b s
  | .cmplt iss d a b => Sys2Proof.Machine.execCmplt iss d a b s
  | .cmpltu iss d a b => Sys2Proof.Machine.execCmpltu iss d a b s
  | .cmple iss d a b => Sys2Proof.Machine.execCmple iss d a b s
  | .cmpleu iss d a b => Sys2Proof.Machine.execCmpleu iss d a b s
  | .mul iss d a b => Sys2Proof.Machine.execMul iss d a b s
  | .mulh iss unsigned d a b => Sys2Proof.Machine.execMulh iss unsigned d a b s
  | .div iss unsigned d a b => Sys2Proof.Machine.execDiv iss unsigned d a b s
  | .rem iss unsigned d a b => Sys2Proof.Machine.execRem iss unsigned d a b s
  | .bfx iss d a pos len1 m => Sys2Proof.Machine.execBfx iss d a pos len1 m s
  | .bfi iss d a pos len1 m => Sys2Proof.Machine.execBfi iss d a pos len1 m s
  | .clz iss d a => Sys2Proof.Machine.execClz iss d a s
  | .bperm iss d a b c => Sys2Proof.Machine.execBperm iss d a b c s
  | .fadd iss dbl d a b m => Sys2Proof.Machine.execFadd iss dbl d a b m s
  | .fmul iss dbl d a b m => Sys2Proof.Machine.execFmul iss dbl d a b m s
  | .fma iss dbl d a b c m => Sys2Proof.Machine.execFma iss dbl d a b c m s
  | .fdiv iss dbl d a b m => Sys2Proof.Machine.execFdiv iss dbl d a b m s
  | .fsqrt iss dbl d a m => Sys2Proof.Machine.execFsqrt iss dbl d a m s
  | .fmin iss dbl d a b => Sys2Proof.Machine.execFmin iss dbl d a b s
  | .fmax iss dbl d a b => Sys2Proof.Machine.execFmax iss dbl d a b s
  | .fcmp iss dbl d a b m => Sys2Proof.Machine.execFcmp iss dbl d a b m s
  | .fcvt iss d a c m => Sys2Proof.Machine.execFcvt iss d a c m s
  | .lds iss form d a imm => Sys2Proof.Machine.execLds iss form d a imm s
  | .sts iss form d a imm => Sys2Proof.Machine.execSts iss form d a imm s
  | .ldg iss form d a imm => Sys2Proof.Machine.execLdg iss form d a imm s
  | .stg iss form d a imm => Sys2Proof.Machine.execStg iss form d a imm s
  | .amo iss form d a b c m => Sys2Proof.Machine.execAmo iss form d a b c m s
  | .cpre iss a imm => Sys2Proof.Machine.execCpre iss a imm s
  | .cinv iss a imm => Sys2Proof.Machine.execCinv iss a imm s
  | .br iss off => Sys2Proof.Machine.execBr iss off s
  | .call iss d off => Sys2Proof.Machine.execCall iss d off s
  | .bri iss a => Sys2Proof.Machine.execBri iss a s
  | .calli iss d a => Sys2Proof.Machine.execCalli iss d a s
  | .loop iss a lvl e => Sys2Proof.Machine.execLoop iss a lvl e s
  | .loopi iss cnt lvl e => Sys2Proof.Machine.execLoopi iss cnt lvl e s
  | .crr iss r crn => Sys2Proof.Machine.execCrr iss r crn s
  | .crw iss r crn => Sys2Proof.Machine.execCrw iss r crn s
  | .rte iss => Sys2Proof.Machine.execRte iss s
  | .wdt iss a b => Sys2Proof.Machine.execWdt iss a b s
  | .userDefinedOpcode iss vslot e o => Sys2Proof.Machine.execUserDefinedOpcode iss vslot e o s
  | .vadd iss o => Sys2Proof.Machine.execVadd iss o s
  | .vsub iss o => Sys2Proof.Machine.execVsub iss o s
  | .vand iss o => Sys2Proof.Machine.execVand iss o s
  | .vor iss o => Sys2Proof.Machine.execVor iss o s
  | .vxor iss o => Sys2Proof.Machine.execVxor iss o s
  | .vshl iss o => Sys2Proof.Machine.execVshl iss o s
  | .vshr iss o => Sys2Proof.Machine.execVshr iss o s
  | .vsra iss o => Sys2Proof.Machine.execVsra iss o s
  | .vmov iss o => Sys2Proof.Machine.execVmov iss o s
  | .vbcast iss o => Sys2Proof.Machine.execVbcast iss o s
  | .vcmpeq iss o => Sys2Proof.Machine.execVcmpeq iss o s
  | .vcmplt iss o => Sys2Proof.Machine.execVcmplt iss o s
  | .vcmpltu iss o => Sys2Proof.Machine.execVcmpltu iss o s
  | .vmop iss o => Sys2Proof.Machine.execVmop iss o s
  | .vms iss o => Sys2Proof.Machine.execVms iss o s
  | .vsm iss o => Sys2Proof.Machine.execVsm iss o s
  | .vfadd iss fmt o => Sys2Proof.Machine.execVfadd iss fmt o s
  | .vfmul iss fmt o => Sys2Proof.Machine.execVfmul iss fmt o s
  | .vfma iss fmt o => Sys2Proof.Machine.execVfma iss fmt o s
  | .vmin iss fmt o => Sys2Proof.Machine.execVmin iss fmt o s
  | .vmax iss fmt o => Sys2Proof.Machine.execVmax iss fmt o s
  | .vfcmp iss fmt o => Sys2Proof.Machine.execVfcmp iss fmt o s
  | .vcvt iss d a src dst rnd m => Sys2Proof.Machine.execVcvt iss d a src dst rnd m s
  | .vred iss o => Sys2Proof.Machine.execVred iss o s
  | .vperm iss o => Sys2Proof.Machine.execVperm iss o s
  | .vtr iss o => Sys2Proof.Machine.execVtr iss o s
  | .trv iss o => Sys2Proof.Machine.execTrv iss o s
  | .tcfg iss t rows1 rb1 fmt scale => Sys2Proof.Machine.execTcfg iss t rows1 rb1 fmt scale s
  | .acfg iss acc type => Sys2Proof.Machine.execAcfg iss acc type s
  | .mma iss fmt acc ta tb => Sys2Proof.Machine.execMma iss fmt acc ta tb s
  | .accrd iss t acc fmt rnd half => Sys2Proof.Machine.execAccrd iss t acc fmt rnd half s
  | .accz iss acc => Sys2Proof.Machine.execAccz iss acc s
  | .tcvt iss td ta fmt rnd => Sys2Proof.Machine.execTcvt iss td ta fmt rnd s
  | .ttr iss td ta => Sys2Proof.Machine.execTtr iss td ta s
  | .tll iss t o => Sys2Proof.Machine.execTll iss t o s
  | .vld iss d o => Sys2Proof.Machine.execVld iss d o s
  | .tlg iss t base stride => Sys2Proof.Machine.execTlg iss t base stride s
  | .tlgRowArrival thread step ups => Sys2Proof.Machine.execTlgRowArrival thread step ups s
  | .vldg iss d base imm => Sys2Proof.Machine.execVldg iss d base imm s
  | .tsl iss t o => Sys2Proof.Machine.execTsl iss t o s
  | .vst iss v o => Sys2Proof.Machine.execVst iss v o s
  | .accst iss acc o fmt rnd half => Sys2Proof.Machine.execAccst iss acc o fmt rnd half s
  | .tsg iss t base stride => Sys2Proof.Machine.execTsg iss t base stride s
  | .tsgStepComplete thread step => Sys2Proof.Machine.execTsgStepComplete thread step s
  | .vstg iss v base imm => Sys2Proof.Machine.execVstg iss v base imm s
  | .put iss d l len1 => Sys2Proof.Machine.execPut iss d l len1 s
  | .putAck id => Sys2Proof.Machine.execPutAck id s
  | .send iss ch a b => Sys2Proof.Machine.execSend iss ch a b s
  | .sendt iss ch a b p => Sys2Proof.Machine.execSendt iss ch a b p s
  | .commit iss ch => Sys2Proof.Machine.execCommit iss ch s
  | .qsel iss d a b window rotation => Sys2Proof.Machine.execQsel iss d a b window rotation s
  | .fork iss d a b => Sys2Proof.Machine.execFork iss d a b s
  | .join iss a => Sys2Proof.Machine.execJoin iss a s
  | .exit iss => Sys2Proof.Machine.execExit iss s
  | .contextFree thread => Sys2Proof.Machine.execContextFree thread s
  | .barArrive iss group => Sys2Proof.Machine.execBarArrive iss group s
  | .barWait iss group => Sys2Proof.Machine.execBarWait iss group s
  | .fenceC iss => Sys2Proof.Machine.execFenceC iss s
  | .fenceM iss => Sys2Proof.Machine.execFenceM iss s
  | .fenceF iss => Sys2Proof.Machine.execFenceF iss s
  | .evwait iss a b => Sys2Proof.Machine.execEvwait iss a b s
  | .exceptionEntry thread => Sys2Proof.Machine.execExceptionEntry thread s
  | .framePushComplete thread => Sys2Proof.Machine.execFramePushComplete thread s
  | .rteFrameReadComplete thread => Sys2Proof.Machine.execRteFrameReadComplete thread s
  | .waitdog core => Sys2Proof.Machine.execWaitdog core s
  | .halt core ctx => Sys2Proof.Machine.execHalt core ctx s
  | .resume core ctx => Sys2Proof.Machine.execResume core ctx s
  | .save core ctx => Sys2Proof.Machine.execSave core ctx s
  | .restore core ctx => Sys2Proof.Machine.execRestore core ctx s
  | .kill core ctx => Sys2Proof.Machine.execKill core ctx s
  | .confineOn core => Sys2Proof.Machine.execConfineOn core s
  | .confineOff core => Sys2Proof.Machine.execConfineOff core s
  | .debugOperationComplete core => Sys2Proof.Machine.execDebugOperationComplete core s
  | .queueOpen queue value => Sys2Proof.Machine.execQueueOpen queue value s
  | .queueClose queue value => Sys2Proof.Machine.execQueueClose queue value s
  | .channelOpen thread ep value => Sys2Proof.Machine.execChannelOpen thread ep value s
  | .channelClose thread ep value => Sys2Proof.Machine.execChannelClose thread ep value s
  | .channelOpenTimeout thread ep => Sys2Proof.Machine.execChannelOpenTimeout thread ep s
  | .greq src => Sys2Proof.Machine.execGreq src s
  | .grant src => Sys2Proof.Machine.execGrant src s
  | .rel src => Sys2Proof.Machine.execRel src s
  | .msg src => Sys2Proof.Machine.execMsg src s
  | .cret src => Sys2Proof.Machine.execCret src s
  | .gone src => Sys2Proof.Machine.execGone src s
  | .dataCacheFill core line ups => Sys2Proof.Machine.execDataCacheFill core line ups s
  | .unlock core => Sys2Proof.Machine.execUnlock core s
  | .icinv core => Sys2Proof.Machine.execIcinv core s
  | .dcinv core => Sys2Proof.Machine.execDcinv core s
  | .sramPatrolScrub cluster granule up => Sys2Proof.Machine.execSramPatrolScrub cluster granule up s
  | .hbmPatrolScrub port line symbols => Sys2Proof.Machine.execHbmPatrolScrub port line symbols s
  | .strmSubmit id => Sys2Proof.Machine.execStrmSubmit id s
  | .chunkIssue cluster host ups => Sys2Proof.Machine.execChunkIssue cluster host ups s
  | .chunkComplete cluster tag => Sys2Proof.Machine.execChunkComplete cluster tag s
  | .descriptorPost cluster queue => Sys2Proof.Machine.execDescriptorPost cluster queue s
  | .mcastAck cluster tag receiver error => Sys2Proof.Machine.execMcastAck cluster tag receiver error s
  | .mcastTimeout cluster queue => Sys2Proof.Machine.execMcastTimeout cluster queue s
  | .globalAccessPerform id host ups => Sys2Proof.Machine.execGlobalAccessPerform id host ups s
  | .amoPerform id ups => Sys2Proof.Machine.execAmoPerform id ups s
  | .writeAck id => Sys2Proof.Machine.execWriteAck id s
  | .translationWalk core xbase addr => Sys2Proof.Machine.execTranslationWalk core xbase addr s
  | .hbmPlaceWrite j acc => Sys2Proof.Machine.execHbmPlaceWrite j acc s
  | .codewordReceive link cw => Sys2Proof.Machine.execCodewordReceive link cw s
  | .nak link ack => Sys2Proof.Machine.execNak link ack s
  | .replayTimeout link => Sys2Proof.Machine.execReplayTimeout link s
  | .linkSilenceTimeout link => Sys2Proof.Machine.execLinkSilenceTimeout link s
  | .linkUceLimit link => Sys2Proof.Machine.execLinkUceLimit link s
  | .linkTrained link peer pbundle lanes margin => Sys2Proof.Machine.execLinkTrained link peer pbundle lanes margin s
  | .laneFailure link lane => Sys2Proof.Machine.execLaneFailure link lane s
  | .linkModeChange link mode => Sys2Proof.Machine.execLinkModeChange link mode s
  | .lctrlCreditReturn link counts => Sys2Proof.Machine.execLctrlCreditReturn link counts s
  | .timeExchangeTimer link => Sys2Proof.Machine.execTimeExchangeTimer link s
  | .timeRequest link => Sys2Proof.Machine.execTimeRequest link s
  | .timeReply link t2 t3 => Sys2Proof.Machine.execTimeReply link t2 t3 s
  | .wr link p ups => Sys2Proof.Machine.execWr link p ups s
  | .rd link p host ups => Sys2Proof.Machine.execRd link p host ups s
  | .amoRequest link p ups => Sys2Proof.Machine.execAmoRequest link p ups s
  | .evadd link p => Sys2Proof.Machine.execEvadd link p s
  | .ack link p => Sys2Proof.Machine.execAck link p s
  | .rdr link p => Sys2Proof.Machine.execRdr link p s
  | .amor link p => Sys2Proof.Machine.execAmor link p s
  | .bypass link p => Sys2Proof.Machine.execBypass link p s
  | .roadblock link p => Sys2Proof.Machine.execRoadblock link p s
  | .peerLost link p => Sys2Proof.Machine.execPeerLost link p s
  | .ready link p => Sys2Proof.Machine.execReady link p s
  | .linkstate link p => Sys2Proof.Machine.execLinkstate link p s
  | .transactionTimeout ftag => Sys2Proof.Machine.execTransactionTimeout ftag s
  | .packetStuck link => Sys2Proof.Machine.execPacketStuck link s
  | .peerLostDetect bundle => Sys2Proof.Machine.execPeerLostDetect bundle s
  | .floodKeyExpiry die => Sys2Proof.Machine.execFloodKeyExpiry die s
  | .fabIdWrite acc => Sys2Proof.Machine.execFabIdWrite acc s
  | .submissionDoorbell port ring size value => Sys2Proof.Machine.execSubmissionDoorbell port ring size value s
  | .completionDoorbell port ring size value => Sys2Proof.Machine.execCompletionDoorbell port ring size value s
  | .descriptorFetch port ring d => Sys2Proof.Machine.execDescriptorFetch port ring d s
  | .descriptorFetchTimeout port ring => Sys2Proof.Machine.execDescriptorFetchTimeout port ring s
  | .descriptorStart => Sys2Proof.Machine.execDescriptorStart s
  | .launch rec host => Sys2Proof.Machine.execLaunch rec host s
  | .pairedLaunch rec hostA hostB => Sys2Proof.Machine.execPairedLaunch rec hostA hostB s
  | .launchCoreStart core => Sys2Proof.Machine.execLaunchCoreStart core s
  | .launchComplete rec => Sys2Proof.Machine.execLaunchComplete rec s
  | .copy rec => Sys2Proof.Machine.execCopy rec s
  | .fill rec => Sys2Proof.Machine.execFill rec s
  | .wait rec => Sys2Proof.Machine.execWait rec s
  | .waitPass rec => Sys2Proof.Machine.execWaitPass rec s
  | .signal rec => Sys2Proof.Machine.execSignal rec s
  | .loadProgram rec host => Sys2Proof.Machine.execLoadProgram rec host s
  | .loadProgramComplete rec => Sys2Proof.Machine.execLoadProgramComplete rec s
  | .verifyTimeout rec => Sys2Proof.Machine.execVerifyTimeout rec s
  | .map rec => Sys2Proof.Machine.execMap rec s
  | .jobOpen rec => Sys2Proof.Machine.execJobOpen rec s
  | .jobClose rec => Sys2Proof.Machine.execJobClose rec s
  | .abortJob rec => Sys2Proof.Machine.execAbortJob rec s
  | .abortGraceExpiry rec => Sys2Proof.Machine.execAbortGraceExpiry rec s
  | .descriptorDeadline rec => Sys2Proof.Machine.execDescriptorDeadline rec s
  | .completionEntryWrite port cring => Sys2Proof.Machine.execCompletionEntryWrite port cring s
  | .cqInterruptTimer port cring => Sys2Proof.Machine.execCqInterruptTimer port cring s
  | .functionLevelReset port => Sys2Proof.Machine.execFunctionLevelReset port s
  | .hostBar4Access port addr op ups => Sys2Proof.Machine.execHostBar4Access port addr op ups s
  | .hostWindowReadTimeout id => Sys2Proof.Machine.execHostWindowReadTimeout id s
  | .hqiSqctlWrite port ring acc => Sys2Proof.Machine.execHqiSqctlWrite port ring acc s
  | .hqiCqctlWrite port ring acc => Sys2Proof.Machine.execHqiCqctlWrite port ring acc s
  | .hqiEvcWrite n acc => Sys2Proof.Machine.execHqiEvcWrite n acc s
  | .hqiEvaddWrite n acc => Sys2Proof.Machine.execHqiEvaddWrite n acc s
  | .hqiThintWrite acc => Sys2Proof.Machine.execHqiThintWrite acc s
  | .dbgLoadctlWrite acc => Sys2Proof.Machine.execDbgLoadctlWrite acc s
  | .kerbDrainEnd d => Sys2Proof.Machine.execKerbDrainEnd d s
  | .threadReset thread => Sys2Proof.Machine.execThreadReset thread s
  | .coreReset core => Sys2Proof.Machine.execCoreReset core s
  | .clusterReset cluster hang => Sys2Proof.Machine.execClusterReset cluster hang s
  | .dieReset die hang => Sys2Proof.Machine.execDieReset die hang s
  | .hbmStackReset stack => Sys2Proof.Machine.execHbmStackReset stack s
  | .linkReset link => Sys2Proof.Machine.execLinkReset link s
  | .moduleReset => Sys2Proof.Machine.execModuleReset s
  | .resetLimitExpiry d => Sys2Proof.Machine.execResetLimitExpiry d s
  | .resetComplete d => Sys2Proof.Machine.execResetComplete d s
  | .progressWatchdog core => Sys2Proof.Machine.execProgressWatchdog core s
  | .dispatcherHeartbeat die => Sys2Proof.Machine.execDispatcherHeartbeat die s
  | .heartbeatTimeout die => Sys2Proof.Machine.execHeartbeatTimeout die s
  | .meshTransactionTimeout id => Sys2Proof.Machine.execMeshTransactionTimeout id s
  | .workItemReplay item => Sys2Proof.Machine.execWorkItemReplay item s
  | .trialStart cluster => Sys2Proof.Machine.execTrialStart cluster s
  | .probationExpiry cluster => Sys2Proof.Machine.execProbationExpiry cluster s
  | .dbgCommitWrite id => Sys2Proof.Machine.execDbgCommitWrite id s
  | .dbgResetWrite acc => Sys2Proof.Machine.execDbgResetWrite acc s
  | .milepostComparatorFire k => Sys2Proof.Machine.execMilepostComparatorFire k s
  | .triggerEdge pin rising => Sys2Proof.Machine.execTriggerEdge pin rising s
  | .triggerPulseEnd pin => Sys2Proof.Machine.execTriggerPulseEnd pin s
  | .powerSample milliwatts millivolts => Sys2Proof.Machine.execPowerSample milliwatts millivolts s
  | .thermalSample sensors => Sys2Proof.Machine.execThermalSample sensors s
  | .p1IdleEntry cluster => Sys2Proof.Machine.execP1IdleEntry cluster s
  | .p1Wake cluster => Sys2Proof.Machine.execP1Wake cluster s
  | .requestP0 acc => Sys2Proof.Machine.execRequestP0 acc s
  | .requestP2 acc => Sys2Proof.Machine.execRequestP2 acc s
  | .requestP3 acc => Sys2Proof.Machine.execRequestP3 acc s
  | .p2Wake => Sys2Proof.Machine.execP2Wake s
  | .shedEnter millivolts => Sys2Proof.Machine.execShedEnter millivolts s
  | .shedLeave millivolts => Sys2Proof.Machine.execShedLeave millivolts s
  | .powerCapInterval watts => Sys2Proof.Machine.execPowerCapInterval watts s
  | .thermalThrottle => Sys2Proof.Machine.execThermalThrottle s
  | .thermalTrip => Sys2Proof.Machine.execThermalTrip s
  | .overvoltageTrip millivolts => Sys2Proof.Machine.execOvervoltageTrip millivolts s
  | .inputSwitchReclose millivolts => Sys2Proof.Machine.execInputSwitchReclose millivolts s
  | .aoPowerOn millivolts => Sys2Proof.Machine.execAoPowerOn millivolts s
  | .powerGoodTimer => Sys2Proof.Machine.execPowerGoodTimer s
  | .trainingComplete => Sys2Proof.Machine.execTrainingComplete s
  | .secCommit acc => Sys2Proof.Machine.execSecCommit acc s
  | .secUpdate acc => Sys2Proof.Machine.execSecUpdate acc s
  | .firmwareUpdateComplete storeFails => Sys2Proof.Machine.execFirmwareUpdateComplete storeFails s
  | .mrExtend acc => Sys2Proof.Machine.execMrExtend acc s
  | .getIdentity m => Sys2Proof.Machine.execGetIdentity m s
  | .getCert m => Sys2Proof.Machine.execGetCert m s
  | .getReport m mask nonce => Sys2Proof.Machine.execGetReport m mask nonce s
  | .reportSigned random => Sys2Proof.Machine.execReportSigned random s
  | .storeWrite m off data => Sys2Proof.Machine.execStoreWrite m off data s
  | .entdaa addr => Sys2Proof.Machine.execEntdaa addr s
  | .setdasa addr => Sys2Proof.Machine.execSetdasa addr s
  | .jtagInstructionLoad ins => Sys2Proof.Machine.execJtagInstructionLoad ins s
  | .perstN port => Sys2Proof.Machine.execPerstN port s
  | .modResetN => Sys2Proof.Machine.execModResetN s
  | .prsntN bundle present => Sys2Proof.Machine.execPrsntN bundle present s
  | .tollTokenRefill thread => Sys2Proof.Machine.execTollTokenRefill thread s
  | .busMasterEnableSet port => Sys2Proof.Machine.execBusMasterEnableSet port s
  | .snapshotWriteComplete => Sys2Proof.Machine.execSnapshotWriteComplete s
  | .aoPowerLoss => Sys2Proof.Machine.execAoPowerLoss s
  | .modResetNRelease => Sys2Proof.Machine.execModResetNRelease s
  | .perstNRelease port => Sys2Proof.Machine.execPerstNRelease port s

end Sys2Proof.Machine
end

