-- ==== Sys2Proof/Machine/Tick.lean ====
section
/-! DEFINITION. Time: what happens at a tick of the module's clock, which the step takes while no command waits (R626 to R629). -/

namespace Sys2Proof.Machine

/-- One nanosecond passes: a stage of the boot before TRAINING ends (R667), and the module's clock and the timebase advance (R626). -/
def tickNs (m : Mod) : Mod :=
  toTime (bootOn m) (m.now + 1)

end Sys2Proof.Machine
end

