-- ==== Sys2Proof/Machine/Step.lean ====
section
/-! DEFINITION. The step: the command at the front of the queue, or a tick when none waits. -/

namespace Sys2Proof.Machine

/-- One step: the front command executed with the queue's rest, or one nanosecond of time when the queue is empty (log 1, DESIGN CHOICE). -/
def step (s : State) : Host.Outcome State Fault Refusal :=
  match s.pending with
  | c :: rest => exec c { s with pending := rest }
  | [] => .next { s with mod := tickNs s.mod }

/-- The state with the command that a word spells at the front of its queue. No row of the table has bits, so no word spells a command (log 1, DESIGN CHOICE). -/
def State.withFetchWord (s : State) (nbits w : Nat) : State :=
  match decodeTableWord nbits w with
  | some c => { s with pending := c :: s.pending }
  | none => s

end Sys2Proof.Machine
end

