-- ==== Sys2Proof/WellFormed.lean ====
section
/-! DEFINITION. The commands that the module's interfaces can carry: a size of 1, 2, 4 or 8 bytes, aligned within a register (R13), one of the 96 links (R497), a packet and a codeword of their sizes (R503, R513), a line or a granule by its first byte (R386, R487), a nonce of 32 bytes (R674). -/

namespace Sys2Proof

/-- A size that an access may have (R13). -/
def sizeOk (n : Nat) : Bool := n == 1 || n == 2 || n == 4 || n == 8

/-- An access within one register, naturally aligned (R13). -/
def RegAccess.wf (a : RegAccess) : Bool := sizeOk a.size && a.at_ % a.size == 0 && decide (a.at_ + a.size ≤ 8)

/-- One of the 12 bundles of 8 links (R497). -/
def linkOk (l : BitVec 7) : Bool := decide (l.toNat < 96)

/-- At most 256 data bytes, and as many as the header counts, but for a read request, which carries none (R513). -/
def Packet.wf (p : Packet) : Bool := decide (p.len.toNat ≤ 256) && (if p.type = 2 then p.data.isEmpty else p.data.length == p.len.toNat)

/-- 640 bytes (R503). -/
def Codeword.wf (c : Codeword) : Bool := c.bytes.length == 640

/-- A link domain names one of the 96 links (R604). -/
def Domain.wf : Domain → Bool
  | .link l => linkOk l
  | .thread _ | .core _ | .cluster _ | .die _ | .stack _ | .module => true

/-- A host access of at least one byte (R542). -/
def BarOp.wf : BarOp → Bool
  | .read n => n != 0
  | .write d _ => !d.isEmpty

/-- Can an interface of the module carry the command? -/
def Instr.wf : Instr → Bool
  | .setupRegisterWrite _ _ size _ => sizeOk size
  | .readClearFieldRead _ _ size => sizeOk size
  | .meshFlitRetry _ => true
  | .clockStretch _ _ => true
  | .stewardBridgeFailover _ => true
  | .dbgBarmemWrite _ _ acc => acc.wf
  | .barrierComplete _ => true
  | .bundleIssue _ _ => true
  | .fetchMissFill _ _ => true
  | .resultLanding _ _ => true
  | .pendingResultArrival _ => true
  | .threadSwitch _ => true
  | .quantumExpiry _ => true
  | .nop _ _ => true
  | .add _ _ _ _ => true
  | .sub _ _ _ _ => true
  | .and _ _ _ _ => true
  | .or _ _ _ _ => true
  | .xor _ _ _ _ => true
  | .shl _ _ _ _ => true
  | .shr _ _ _ _ => true
  | .sra _ _ _ _ => true
  | .mov _ _ _ => true
  | .movk _ _ _ _ => true
  | .sel _ _ _ _ _ => true
  | .cmpeq _ _ _ _ => true
  | .cmpne _ _ _ _ => true
  | .cmplt _ _ _ _ => true
  | .cmpltu _ _ _ _ => true
  | .cmple _ _ _ _ => true
  | .cmpleu _ _ _ _ => true
  | .mul _ _ _ _ => true
  | .mulh _ _ _ _ _ => true
  | .div _ _ _ _ _ => true
  | .rem _ _ _ _ _ => true
  | .bfx _ _ _ _ _ _ => true
  | .bfi _ _ _ _ _ _ => true
  | .clz _ _ _ => true
  | .bperm _ _ _ _ _ => true
  | .fadd _ _ _ _ _ _ => true
  | .fmul _ _ _ _ _ _ => true
  | .fma _ _ _ _ _ _ _ => true
  | .fdiv _ _ _ _ _ _ => true
  | .fsqrt _ _ _ _ _ => true
  | .fmin _ _ _ _ _ => true
  | .fmax _ _ _ _ _ => true
  | .fcmp _ _ _ _ _ _ => true
  | .fcvt _ _ _ _ _ => true
  | .lds _ _ _ _ _ => true
  | .sts _ _ _ _ _ => true
  | .ldg _ _ _ _ _ => true
  | .stg _ _ _ _ _ => true
  | .amo _ _ _ _ _ _ _ => true
  | .cpre _ _ _ => true
  | .cinv _ _ _ => true
  | .br _ _ => true
  | .call _ _ _ => true
  | .bri _ _ => true
  | .calli _ _ _ => true
  | .loop _ _ _ _ => true
  | .loopi _ _ _ _ => true
  | .crr _ _ _ => true
  | .crw _ _ _ => true
  | .rte _ => true
  | .wdt _ _ _ => true
  | .userDefinedOpcode _ _ _ _ => true
  | .vadd _ _ => true
  | .vsub _ _ => true
  | .vand _ _ => true
  | .vor _ _ => true
  | .vxor _ _ => true
  | .vshl _ _ => true
  | .vshr _ _ => true
  | .vsra _ _ => true
  | .vmov _ _ => true
  | .vbcast _ _ => true
  | .vcmpeq _ _ => true
  | .vcmplt _ _ => true
  | .vcmpltu _ _ => true
  | .vmop _ _ => true
  | .vms _ _ => true
  | .vsm _ _ => true
  | .vfadd _ _ _ => true
  | .vfmul _ _ _ => true
  | .vfma _ _ _ => true
  | .vmin _ _ _ => true
  | .vmax _ _ _ => true
  | .vfcmp _ _ _ => true
  | .vcvt _ _ _ _ _ _ _ => true
  | .vred _ _ => true
  | .vperm _ _ => true
  | .vtr _ _ => true
  | .trv _ _ => true
  | .tcfg _ _ _ _ _ _ => true
  | .acfg _ _ _ => true
  | .mma _ _ _ _ _ => true
  | .accrd _ _ _ _ _ _ => true
  | .accz _ _ => true
  | .tcvt _ _ _ _ _ => true
  | .ttr _ _ _ => true
  | .tll _ _ _ => true
  | .vld _ _ _ => true
  | .tlg _ _ _ _ => true
  | .tlgRowArrival _ _ _ => true
  | .vldg _ _ _ _ => true
  | .tsl _ _ _ => true
  | .vst _ _ _ => true
  | .accst _ _ _ _ _ _ => true
  | .tsg _ _ _ _ => true
  | .tsgStepComplete _ _ => true
  | .vstg _ _ _ _ => true
  | .put _ _ _ _ => true
  | .putAck _ => true
  | .send _ _ _ _ => true
  | .sendt _ _ _ _ _ => true
  | .commit _ _ => true
  | .qsel _ _ _ _ _ _ => true
  | .fork _ _ _ _ => true
  | .join _ _ => true
  | .exit _ => true
  | .contextFree _ => true
  | .barArrive _ _ => true
  | .barWait _ _ => true
  | .fenceC _ => true
  | .fenceM _ => true
  | .fenceF _ => true
  | .evwait _ _ _ => true
  | .exceptionEntry _ => true
  | .framePushComplete _ => true
  | .rteFrameReadComplete _ => true
  | .waitdog _ => true
  | .halt _ _ => true
  | .resume _ _ => true
  | .save _ _ => true
  | .restore _ _ => true
  | .kill _ _ => true
  | .confineOn _ => true
  | .confineOff _ => true
  | .debugOperationComplete _ => true
  | .queueOpen _ _ => true
  | .queueClose _ _ => true
  | .channelOpen _ _ _ => true
  | .channelClose _ _ _ => true
  | .channelOpenTimeout _ _ => true
  | .greq _ => true
  | .grant _ => true
  | .rel _ => true
  | .msg _ => true
  | .cret _ => true
  | .gone _ => true
  | .dataCacheFill _ line _ => line % 64 == 0
  | .unlock _ => true
  | .icinv _ => true
  | .dcinv _ => true
  | .sramPatrolScrub _ granule _ => granule % 8 == 0
  | .hbmPatrolScrub _ line _ => line % 64 == 0
  | .strmSubmit _ => true
  | .chunkIssue _ _ _ => true
  | .chunkComplete _ _ => true
  | .descriptorPost _ _ => true
  | .mcastAck _ _ _ _ => true
  | .mcastTimeout _ _ => true
  | .globalAccessPerform _ _ _ => true
  | .amoPerform _ _ => true
  | .writeAck _ => true
  | .translationWalk _ _ _ => true
  | .hbmPlaceWrite _ acc => acc.wf
  | .codewordReceive link cw => linkOk link && cw.wf
  | .nak link _ => linkOk link
  | .replayTimeout link => linkOk link
  | .linkSilenceTimeout link => linkOk link
  | .linkUceLimit link => linkOk link
  | .linkTrained link _ _ _ _ => linkOk link
  | .laneFailure link _ => linkOk link
  | .linkModeChange link _ => linkOk link
  | .lctrlCreditReturn link _ => linkOk link
  | .timeExchangeTimer link => linkOk link
  | .timeRequest link => linkOk link
  | .timeReply link _ _ => linkOk link
  | .wr link p _ => linkOk link && p.wf
  | .rd link p _ _ => linkOk link && p.wf
  | .amoRequest link p _ => linkOk link && p.wf
  | .evadd link p => linkOk link && p.wf
  | .ack link p => linkOk link && p.wf
  | .rdr link p => linkOk link && p.wf
  | .amor link p => linkOk link && p.wf
  | .bypass link p => linkOk link && p.wf
  | .roadblock link p => linkOk link && p.wf
  | .peerLost link p => linkOk link && p.wf
  | .ready link p => linkOk link && p.wf
  | .linkstate link p => linkOk link && p.wf
  | .transactionTimeout _ => true
  | .packetStuck link => linkOk link
  | .peerLostDetect bundle => decide (bundle.toNat < 12)
  | .floodKeyExpiry _ => true
  | .fabIdWrite acc => acc.wf
  | .submissionDoorbell _ _ size _ => sizeOk size
  | .completionDoorbell _ _ size _ => sizeOk size
  | .descriptorFetch _ _ _ => true
  | .descriptorFetchTimeout _ _ => true
  | .descriptorStart => true
  | .launch _ _ => true
  | .pairedLaunch _ _ _ => true
  | .launchCoreStart _ => true
  | .launchComplete _ => true
  | .copy _ => true
  | .fill _ => true
  | .wait _ => true
  | .waitPass _ => true
  | .signal _ => true
  | .loadProgram _ _ => true
  | .loadProgramComplete _ => true
  | .verifyTimeout _ => true
  | .map _ => true
  | .jobOpen _ => true
  | .jobClose _ => true
  | .abortJob _ => true
  | .abortGraceExpiry _ => true
  | .descriptorDeadline _ => true
  | .completionEntryWrite _ _ => true
  | .cqInterruptTimer _ _ => true
  | .functionLevelReset _ => true
  | .hostBar4Access _ _ op _ => op.wf
  | .hostWindowReadTimeout _ => true
  | .hqiSqctlWrite _ _ acc => acc.wf
  | .hqiCqctlWrite _ _ acc => acc.wf
  | .hqiEvcWrite _ acc => acc.wf
  | .hqiEvaddWrite _ acc => acc.wf
  | .hqiThintWrite acc => acc.wf
  | .dbgLoadctlWrite acc => acc.wf
  | .kerbDrainEnd d => d.wf
  | .threadReset _ => true
  | .coreReset _ => true
  | .clusterReset _ _ => true
  | .dieReset _ _ => true
  | .hbmStackReset _ => true
  | .linkReset link => linkOk link
  | .moduleReset => true
  | .resetLimitExpiry d => d.wf
  | .resetComplete d => d.wf
  | .progressWatchdog _ => true
  | .dispatcherHeartbeat _ => true
  | .heartbeatTimeout _ => true
  | .meshTransactionTimeout _ => true
  | .workItemReplay _ => true
  | .trialStart _ => true
  | .probationExpiry _ => true
  | .dbgCommitWrite _ => true
  | .dbgResetWrite acc => acc.wf
  | .milepostComparatorFire _ => true
  | .triggerEdge _ _ => true
  | .triggerPulseEnd _ => true
  | .powerSample _ _ => true
  | .thermalSample _ => true
  | .p1IdleEntry _ => true
  | .p1Wake _ => true
  | .requestP0 acc => acc.wf
  | .requestP2 acc => acc.wf
  | .requestP3 acc => acc.wf
  | .p2Wake => true
  | .shedEnter _ => true
  | .shedLeave _ => true
  | .powerCapInterval _ => true
  | .thermalThrottle => true
  | .thermalTrip => true
  | .overvoltageTrip _ => true
  | .inputSwitchReclose _ => true
  | .aoPowerOn _ => true
  | .powerGoodTimer => true
  | .trainingComplete => true
  | .secCommit acc => acc.wf
  | .secUpdate acc => acc.wf
  | .firmwareUpdateComplete _ => true
  | .mrExtend acc => acc.wf
  | .getIdentity _ => true
  | .getCert _ => true
  | .getReport _ _ nonce => nonce.length == 32
  | .reportSigned _ => true
  | .storeWrite _ _ _ => true
  | .entdaa addr => decide (0x08 ≤ addr.toNat)
  | .setdasa addr => decide (0x08 ≤ addr.toNat)
  | .jtagInstructionLoad _ => true
  | .perstN _ => true
  | .modResetN => true
  | .prsntN bundle _ => decide (bundle.toNat < 12)
  | .tollTokenRefill _ => true
  | .busMasterEnableSet _ => true
  | .snapshotWriteComplete => true
  | .aoPowerLoss => true
  | .modResetNRelease => true
  | .perstNRelease _ => true

end Sys2Proof
end

