-- ==== Sys2Proof/Safety.lean ====
section
/-! DEFINITION. The terms the statements use: a run that goes on, a thread whose bundle issues in this cycle, what a bundle leaves of its thread, its core and the module, and the invariants. -/

namespace Sys2Proof.Machine

/-- The step answers a next state. -/
def goesOn (s : State) : Prop := ∃ t, step s = .next t

/-- Does the outcome stop the block? -/
def stops : Host.Outcome State Fault Refusal → Bool
  | .next _ => false
  | .fault _ => true
  | .refused _ => true

/-! ## Invariants -/

/-- Every command that waits is one that an interface can carry. -/
def State.carried (s : State) : Prop := ∀ c ∈ s.pending, c.wf = true

/-- The memory is in its canonical form. -/
def State.canonical (s : State) : Prop := s.mod.mem.wf = true

/-! ## A bundle that issues in this cycle -/

/-- The thread and guard of a slot instruction; none of any other command. -/
def issuer : Instr → Option Issue
  | .nop i _ => some i
  | .add i _ _ _ => some i
  | .sub i _ _ _ => some i
  | .and i _ _ _ => some i
  | .or i _ _ _ => some i
  | .xor i _ _ _ => some i
  | .shl i _ _ _ => some i
  | .shr i _ _ _ => some i
  | .sra i _ _ _ => some i
  | .mov i _ _ => some i
  | .movk i _ _ _ => some i
  | .sel i _ _ _ _ => some i
  | .cmpeq i _ _ _ => some i
  | .cmpne i _ _ _ => some i
  | .cmplt i _ _ _ => some i
  | .cmpltu i _ _ _ => some i
  | .cmple i _ _ _ => some i
  | .cmpleu i _ _ _ => some i
  | .mul i _ _ _ => some i
  | .mulh i _ _ _ _ => some i
  | .div i _ _ _ _ => some i
  | .rem i _ _ _ _ => some i
  | .bfx i _ _ _ _ _ => some i
  | .bfi i _ _ _ _ _ => some i
  | .clz i _ _ => some i
  | .bperm i _ _ _ _ => some i
  | .fadd i _ _ _ _ _ => some i
  | .fmul i _ _ _ _ _ => some i
  | .fma i _ _ _ _ _ _ => some i
  | .fdiv i _ _ _ _ _ => some i
  | .fsqrt i _ _ _ _ => some i
  | .fmin i _ _ _ _ => some i
  | .fmax i _ _ _ _ => some i
  | .fcmp i _ _ _ _ _ => some i
  | .fcvt i _ _ _ _ => some i
  | .lds i _ _ _ _ => some i
  | .sts i _ _ _ _ => some i
  | .ldg i _ _ _ _ => some i
  | .stg i _ _ _ _ => some i
  | .amo i _ _ _ _ _ _ => some i
  | .cpre i _ _ => some i
  | .cinv i _ _ => some i
  | .br i _ => some i
  | .call i _ _ => some i
  | .bri i _ => some i
  | .calli i _ _ => some i
  | .loop i _ _ _ => some i
  | .loopi i _ _ _ => some i
  | .crr i _ _ => some i
  | .crw i _ _ => some i
  | .rte i => some i
  | .wdt i _ _ => some i
  | .userDefinedOpcode i _ _ _ => some i
  | .vadd i _ => some i
  | .vsub i _ => some i
  | .vand i _ => some i
  | .vor i _ => some i
  | .vxor i _ => some i
  | .vshl i _ => some i
  | .vshr i _ => some i
  | .vsra i _ => some i
  | .vmov i _ => some i
  | .vbcast i _ => some i
  | .vcmpeq i _ => some i
  | .vcmplt i _ => some i
  | .vcmpltu i _ => some i
  | .vmop i _ => some i
  | .vms i _ => some i
  | .vsm i _ => some i
  | .vfadd i _ _ => some i
  | .vfmul i _ _ => some i
  | .vfma i _ _ => some i
  | .vmin i _ _ => some i
  | .vmax i _ _ => some i
  | .vfcmp i _ _ => some i
  | .vcvt i _ _ _ _ _ _ => some i
  | .vred i _ => some i
  | .vperm i _ => some i
  | .vtr i _ => some i
  | .trv i _ => some i
  | .tcfg i _ _ _ _ _ => some i
  | .acfg i _ _ => some i
  | .mma i _ _ _ _ => some i
  | .accrd i _ _ _ _ _ => some i
  | .accz i _ => some i
  | .tcvt i _ _ _ _ => some i
  | .ttr i _ _ => some i
  | .tll i _ _ => some i
  | .vld i _ _ => some i
  | .tlg i _ _ _ => some i
  | .vldg i _ _ _ => some i
  | .tsl i _ _ => some i
  | .vst i _ _ => some i
  | .accst i _ _ _ _ _ => some i
  | .tsg i _ _ _ => some i
  | .vstg i _ _ _ => some i
  | .put i _ _ _ => some i
  | .send i _ _ _ => some i
  | .sendt i _ _ _ _ => some i
  | .commit i _ => some i
  | .qsel i _ _ _ _ _ => some i
  | .fork i _ _ _ => some i
  | .join i _ => some i
  | .exit i => some i
  | .barArrive i _ => some i
  | .barWait i _ => some i
  | .fenceC i => some i
  | .fenceM i => some i
  | .fenceF i => some i
  | .evwait i _ _ => some i
  | _ => none

/-- The bundle of a thread as its core finds it in the cycle it stands in. -/
def issNow (m : Mod) (th : Nat) : Iss :=
  { m := m, th := th, cyc := (core m (th / 4)).cycle, pc := (ctx m th).pc, x := ctx m th, pops := [] }

/-- The thread may issue in the cycle its core stands in, at the start of a bundle, and every result due by then has landed (R63, R308, R335). -/
def Settled (m : Mod) (th : Nat) : Prop :=
  canIssue m th = true ∧ (ctx m th).resume = none ∧ (core m (th / 4)).nextIssue ≤ (core m (th / 4)).cycle ∧
  (ctx m th).notBefore ≤ (core m (th / 4)).cycle ∧ ∀ k ∈ dueCycles m (th / 4), (core m (th / 4)).cycle < k

/-- The operands as the slot reads them: registers at issue, and the words popped (R67, R370). -/
def reads (m : Mod) (th : Nat) (d : SlotDef) : Iss := { issNow m th with pops := (popAll (issNow m th) [d]).2 }

/-- The slot decodes without a fault, waits for nothing and raises nothing: its operands are allowed, readable and aligned, the engine takes its MMA and the matrix issue cap lets
it, and no double fault's reads keep the SDM from it (R68, R91, R230, R309, R383, R653). -/
def Clear (m : Mod) (th : Nat) (d : SlotDef) : Prop :=
  decodeFault (ctx m th) [] [d] = none ∧ bundleStall (issNow m th) [d] = 0 ∧ arrayFree (issNow m th) [d] = true ∧
  (d.sdm = true → (core m (th / 4)).sdmBusy ≤ (core m (th / 4)).cycle) ∧ valueFault (reads m th d) [d] = none

/-- The bundle that holds only the slot issues in this cycle, its guard true (R89, R90). -/
def Issues (m : Mod) (th : Nat) (d : SlotDef) : Prop := Settled m th ∧ Clear m th d ∧ guardOn d.guard (ctx m th) = true

/-- The module once the slot's queue windows are popped: the module itself where the slot names none (R93, R370). -/
def popped (m : Mod) (th : Nat) (d : SlotDef) : Mod := (popAll (issNow m th) [d]).1

/-- The bundle that follows by R173, and the loop registers that land in the next cycle. -/
def follows (m : Mod) (th : Nat) : Word × List Write := backEdge (ctx m th) (ctx m th).pc (ctx m th).depth

/-- A result of the bundle that issues now, in flight for `n` cycles. -/
def flying (m : Mod) (th : Nat) (sl : Slot) (n : Nat) (w : Write) : Landing :=
  { due := (core m (th / 4)).cycle + n, issued := (core m (th / 4)).cycle, slot := sl, bundle := (ctx m th).pc, w := w }

/-- The loop results of a bundle that falls through. -/
def loopFlying (m : Mod) (th : Nat) : List Landing := (follows m th).2.map (fun w => flying m th .s 1 w)

/-- A thread after a bundle: it waits in nothing, one more bundle counts towards its quantum, its next bundle is at `pc`, and `l` is in flight. -/
def issued (x : Ctx) (pc : Word) (l : List Landing) : Ctx :=
  { x with waiting := none, stall := 0, resume := none, qcount := x.qcount + 1, pc := pc, inflight := x.inflight ++ l }

/-- What the issue of a bundle may change in its core besides the contexts: the clock of issue, the quantum, the counters, the local-memory and operand-cache books, and the instruction prefetch (R63, R80, R219, R339, R379, R394, R635). -/
def Core.quiet (k : Core) : Core :=
  { k with nextIssue := 0, switchAt := 0, lastIssue := 0, wdFrom := 0, expired := false, counters := [], lmUse := [], opcache := [], tileReads := (0, 0), iprefetch := [], tlb := [], ctxs := [] }

/-- No table walk comes with the bundle: its instruction prefetch is off, or its address is translated by nothing or by the core's TLB (R394, R479). -/
def NoWalk (m : Mod) (th : Nat) : Prop :=
  ipfOn m (th / 4) = false ∨ (ctx m th).xbase.getLsbD 0 = false ∨
  (tlbFind (core m (th / 4)).tlb (tagBase (ctx m th).xbase) ((ctx m th).pc + 32).toNat).isSome = true

/-- A bundle changes its own thread to `x`; every other thread and core stays, and so does the rest of the module, memory with it, when no walk comes with the bundle. -/
def OnlyThread (m m' : Mod) (th : Nat) (x : Ctx) : Prop :=
  ctx m' th = x ∧ (∀ u, u ≠ th → ctx m' u = ctx m u) ∧
  (∀ c, c ≠ th / 4 → core m' c = core m c) ∧ (core m' (th / 4)).quiet = (core m (th / 4)).quiet ∧
  (NoWalk m th → m' = { m with cores := m'.cores })

end Sys2Proof.Machine
end

