-- ==== Sys2Proof/Certificates/Slice0/Obligations.lean ====
section
/-! DEFINITION. The statements for the provers, and the words of the spec they are written in. -/

namespace Sys2Proof.Machine

/-! ## The slot of a command, and what the rules say it leaves -/

/-- The slot that a command is to its core, in the cycle the core stands in. -/
def slotNow (m : Mod) (th : Nat) (c : Instr) : Option SlotDef := slotDef (core m (th / 4)) (core m (th / 4)).cycle c

/-- The issue of a slot that puts `l` in flight and changes its thread by `g`: the bundle goes on by R173, and nothing else of the module changes. -/
def Leaves (c : Instr) (s : State) (th : Nat) (d : SlotDef) (g : Ctx → Ctx) (l : List Landing) : Prop :=
  ∃ t, exec c s = .next t ∧ t.pending = s.pending ∧
    OnlyThread (popped s.mod th d) t.mod th (issued (g (ctx (popped s.mod th d) th)) (follows s.mod th).1 (loopFlying s.mod th ++ l))

/-- The last operand: a register or a window, or the immediate sign-extended (R92, R98). -/
def lastOperand (k : Iss) : RegImm → Word
  | .reg r => k.s .s r
  | .imm v => v.signExtend 64

/-- Byte `j` of a word. -/
def byteOf (x : Word) (j : Nat) : Byte := x.extractLsb' (8 * j) 8

/-- BPERM's byte for a selector byte (R129). -/
def permByte (a b : Word) (sel : Byte) : Byte :=
  let i := (sel &&& 0xF).toNat
  let src := if i < 8 then byteOf a i else byteOf b (i - 8)
  if sel.getLsbD 7 then 0 else if sel.getLsbD 6 then (if src.getLsbD 7 then 0xFF else 0x00) else src

/-- The ones of the low `n` bits, for n from 1 to 64. -/
def lowOnes (n : Nat) : Word := BitVec.allOnes 64 >>> (64 - n)

/-- What R66 and R120 to R129 say of the integer instructions: destination, latency and value, from the operands read at issue. -/
def integerResult (k : Iss) : Instr → Option (Spec × Nat × Word)
  | .add _ d a b => some (d, 1, k.s .s a + lastOperand k b)
  | .sub _ d a b => some (d, 1, k.s .s a - k.s .s b)
  | .and _ d a b => some (d, 1, k.s .s a &&& lastOperand k b)
  | .or _ d a b => some (d, 1, k.s .s a ||| lastOperand k b)
  | .xor _ d a b => some (d, 1, k.s .s a ^^^ lastOperand k b)
  | .shl _ d a b => some (d, 1, k.s .s a <<< (lastOperand k b &&& 0x3F))
  | .shr _ d a b => some (d, 1, k.s .s a >>> (lastOperand k b &&& 0x3F))
  | .sra _ d a b => some (d, 1, (k.s .s a).sshiftRight' (lastOperand k b &&& 0x3F))
  | .mul _ d a b => some (d, 3, k.s .s a * k.s .s b)
  | .mulh _ false d a b => some (d, 3, ((k.s .s a).signExtend 128 * (k.s .s b).signExtend 128).extractLsb' 64 64)
  | .mulh _ true d a b => some (d, 3, ((k.s .s a).setWidth 128 * (k.s .s b).setWidth 128).extractLsb' 64 64)
  | .div _ false d a b => some (d, 20, if k.s .s b = 0 then BitVec.allOnes 64 else (k.s .s a).sdiv (k.s .s b))
  | .div _ true d a b => some (d, 20, if k.s .s b = 0 then BitVec.allOnes 64 else k.s .s a / k.s .s b)
  | .rem _ false d a b => some (d, 20, if k.s .s b = 0 then k.s .s a else (k.s .s a).srem (k.s .s b))
  | .rem _ true d a b => some (d, 20, if k.s .s b = 0 then k.s .s a else k.s .s a % k.s .s b)
  | .mov _ d (.reg a) => some (d, 1, k.s .s a)
  | .mov _ d (.imm v) => some (d, 1, v.signExtend 64)
  | .movk _ d h v =>
    some (d, 1, (k.x.sreg d.toNat &&& ~~~(0xFFFF#64 <<< (16 * (h.toNat % 4)))) ||| (v.setWidth 64 <<< (16 * (h.toNat % 4))))
  | .sel _ d a b m => some (d, 1, if k.x.pred (m.toNat % 8) then k.s .s a else k.s .s b)
  | .bfx _ d a p n m =>
    let x := k.s .s a <<< (64 - (p.toNat + n.toNat + 1))
    some (d, 1, if m.getLsbD 0 then x.sshiftRight (63 - n.toNat) else x >>> (63 - n.toNat))
  | .bfi _ d a p n _ =>
    let ones := lowOnes (n.toNat + 1)
    some (d, 1, (k.x.sreg d.toNat &&& ~~~(ones <<< p.toNat)) ||| ((k.s .s a &&& ones) <<< p.toNat))
  | .clz _ d a => some (d, 1, (k.s .s a).clz)
  | .bperm _ d a b c =>
    some (d, 1, wordOf ((List.range 8).map (fun j => permByte (k.s .s a) (k.s .s b) (byteOf (k.s .s c) j))))
  | _ => none

/-- What R123 says of the compares: the predicate and its value. -/
def compareResult (k : Iss) : Instr → Option (Nat × Bool)
  | .cmpeq _ d a b => some (d.toNat % 8, decide (k.s .s a = lastOperand k b))
  | .cmpne _ d a b => some (d.toNat % 8, decide (k.s .s a ≠ k.s .s b))
  | .cmplt _ d a b => some (d.toNat % 8, decide ((k.s .s a).toInt < (lastOperand k b).toInt))
  | .cmpltu _ d a b => some (d.toNat % 8, decide ((k.s .s a).toNat < (lastOperand k b).toNat))
  | .cmple _ d a b => some (d.toNat % 8, decide ((k.s .s a).toInt ≤ (k.s .s b).toInt))
  | .cmpleu _ d a b => some (d.toNat % 8, decide ((k.s .s a).toNat ≤ (k.s .s b).toNat))
  | _ => none

/-! ## Floating point -/

/-- The mode of a rounding code m[3:2], where 0b00 is cr.arith.rnd (R94). -/
def codeMode (x : Ctx) (m : BitVec 4) : Rnd :=
  match (m >>> 2).toNat with
  | 0 => rndOf x.rnd
  | 1 => .near
  | 2 => .zero
  | _ => .stoch

/-- The mode in which a scalar floating instruction rounds; one that rounds nothing draws nothing (R130, R132, R133, R287). -/
def scalarMode (x : Ctx) : Instr → Rnd
  | .fadd _ _ _ _ _ m | .fmul _ _ _ _ _ m | .fma _ _ _ _ _ _ m | .fdiv _ _ _ _ _ m | .fsqrt _ _ _ _ m | .fcvt _ _ _ _ m => codeMode x m
  | _ => .near

/-- The low half of a register is an FP32 operand, all of it an FP64 one (R117). -/
def floatOperand (dbl : Bool) (x : Word) : Nat := if dbl then x.toNat else (x.setWidth 32).toNat

/-- The floating result of a scalar instruction, by the arithmetic of R130 to R135 on operands read at issue: destination, latency (R66), value and flags. -/
def floatResult (k : Iss) (mode : Rnd) (draw : Nat) : Instr → Option (Spec × Nat × FRes)
  | .fadd _ dbl d a b m =>
    some (d, 4, fAdd k.x.strict mode draw (if dbl then fp64 else fp32) (m.getLsbD 0) (floatOperand dbl (k.s .s a)) (floatOperand dbl (k.s .s b)))
  | .fmul _ dbl d a b m =>
    some (d, 4, fMul k.x.strict mode draw (if dbl then fp64 else fp32) (m.getLsbD 1) (floatOperand dbl (k.s .s a)) (floatOperand dbl (k.s .s b)))
  | .fma _ dbl d a b c m =>
    some (d, 4, fFma k.x.strict mode draw (if dbl then fp64 else fp32) (m.getLsbD 1) (m.getLsbD 0)
      (floatOperand dbl (k.s .s a)) (floatOperand dbl (k.s .s b)) (floatOperand dbl (k.s .s c)))
  | .fdiv _ dbl d a b _ =>
    some (d, if dbl then 28 else 16, fDiv k.x.strict mode draw (if dbl then fp64 else fp32) (floatOperand dbl (k.s .s a)) (floatOperand dbl (k.s .s b)))
  | .fsqrt _ dbl d a _ =>
    some (d, if dbl then 28 else 16, fSqrt k.x.strict mode draw (if dbl then fp64 else fp32) (floatOperand dbl (k.s .s a)))
  | .fmin _ dbl d a b => some (d, 2, fMinMax k.x.strict false (if dbl then fp64 else fp32) (floatOperand dbl (k.s .s a)) (floatOperand dbl (k.s .s b)))
  | .fmax _ dbl d a b => some (d, 2, fMinMax k.x.strict true (if dbl then fp64 else fp32) (floatOperand dbl (k.s .s a)) (floatOperand dbl (k.s .s b)))
  | .fcvt _ d a c _ =>
    match c.toNat % 16 with
    | 0 => some (d, 4, fCvt k.x.strict mode draw fp32 fp64 (floatOperand false (k.s .s a)))
    | 1 => some (d, 4, fCvt k.x.strict mode draw fp64 fp32 (k.s .s a).toNat)
    | 2 => some (d, 4, fromInt k.x.strict mode draw fp64 (k.s .s a).toInt)
    | 3 => some (d, 4, fromInt k.x.strict mode draw fp64 (k.s .s a).toNat)
    | 4 => some (d, 4, fromInt k.x.strict mode draw fp32 (k.s .s a).toInt)
    | 5 => some (d, 4, toInt k.x.strict mode draw fp64 true 64 (k.s .s a).toNat)
    | 6 => some (d, 4, toInt k.x.strict mode draw fp64 false 64 (k.s .s a).toNat)
    | 7 => some (d, 4, toInt k.x.strict mode draw fp32 true 64 (floatOperand false (k.s .s a)))
    | _ => none
  | _ => none

/-- The generator after `n` draws where the instruction rounds stochastically (R286, R287). -/
def drawn (x : Ctx) (mode : Rnd) : Ctx := if mode = .stoch then { x with sr0 := (srDraw x.sr0 x.sr1).1, sr1 := (srDraw x.sr0 x.sr1).2.1 } else x

/-- The bits that a stochastic rounding takes. -/
def drawBits (x : Ctx) (mode : Rnd) : Nat := if mode = .stoch then (srDraw x.sr0 x.sr1).2.2 else 0

/-- The flags in flight with a result: in STRICT mode alone (R58). -/
def flagsFlying (m : Mod) (th : Nat) (sl : Slot) (n : Nat) (fl : Flags) : List Landing :=
  if (ctx m th).strict = true ∧ fl ≠ 0 then [flying m th sl n (.flags fl)] else []

/-! ## Vectors -/

/-- An instruction under a lane mask leaves lane `j` of its destination (R104, R147): `f j` where the mask has it, else zero or what it held. -/
def laneAfter (vm : BitVec 32) (zeroIdle : Bool) (w cnt : Nat) (f : Nat → Nat) (old : Vec) (j : Nat) : Nat :=
  if j < cnt ∧ vm.getLsbD j = true then f j else if zeroIdle then 0 else lane w old j

/-- The lane width of an element type (R95). -/
def typeWidth (t : Nat) : Nat :=
  match t with
  | 0 | 6 => 16
  | 1 | 4 => 32
  | _ => 64

/-- A lane as a signed number. -/
def laneSigned (w x : Nat) : Int := if 2 ^ (w - 1) ≤ x then (x : Int) - 2 ^ w else x

/-- The integer instructions of the V slot, lane by lane (R150, R151, R161): destination, mask field, lane width and the value of an active lane. -/
def vectorInt (k : Iss) : Instr → Option (Spec × BitVec 4 × Nat × (Nat → Nat))
  | .vadd _ o => let w := typeWidth (o.c.toNat % 8); some (o.d, o.m, w, fun j => (lane w (k.v o.a) j + lane w (k.v o.b) j) % 2 ^ w)
  | .vsub _ o => let w := typeWidth (o.c.toNat % 8); some (o.d, o.m, w, fun j => ((lane w (k.v o.a) j : Int) - lane w (k.v o.b) j).emod (2 ^ w) |>.toNat)
  | .vand _ o => let w := typeWidth (o.c.toNat % 8); some (o.d, o.m, w, fun j => lane w (k.v o.a &&& k.v o.b) j)
  | .vor _ o => let w := typeWidth (o.c.toNat % 8); some (o.d, o.m, w, fun j => lane w (k.v o.a ||| k.v o.b) j)
  | .vxor _ o => let w := typeWidth (o.c.toNat % 8); some (o.d, o.m, w, fun j => lane w (k.v o.a ^^^ k.v o.b) j)
  | .vshl _ o => let w := typeWidth (o.c.toNat % 8); some (o.d, o.m, w, fun j => (lane w (k.v o.a) j * 2 ^ (lane w (k.v o.b) j % w)) % 2 ^ w)
  | .vshr _ o => let w := typeWidth (o.c.toNat % 8); some (o.d, o.m, w, fun j => lane w (k.v o.a) j / 2 ^ (lane w (k.v o.b) j % w))
  | .vsra _ o =>
    let w := typeWidth (o.c.toNat % 8)
    some (o.d, o.m, w, fun j => (laneSigned w (lane w (k.v o.a) j) / 2 ^ (lane w (k.v o.b) j % w)).emod (2 ^ w) |>.toNat)
  | .vmov _ o => some (o.d, o.m, 32, fun j => lane 32 (k.v o.a) j)
  | .vbcast _ o => let w := typeWidth (o.c.toNat % 8); some (o.d, o.m, w, fun _ => (k.s .v o.a).toNat % 2 ^ w)
  | .vperm _ o =>
    let w := typeWidth (o.c.toNat % 8)
    let n := 512 / w
    some (o.d, o.m, w, fun j => if lane w (k.v o.b) j / n % 2 = 1 then 0 else lane w (k.v o.a) (lane w (k.v o.b) j % n))
  | _ => none

/-- The floating instructions of the V slot (R152, R155, R156): destination, mask field, lane width of the result, latency, lanes computed, the values
of the lanes in order with the flags and the generator after them. -/
def vectorFloat (k : Iss) (st : RedState) : Instr → Option (Spec × BitVec 4 × Nat × Nat × Nat × List Nat × RedState)
  | .vfadd _ fmt o =>
    let r := fpLanes 0 k.x.strict (rndOf k.x.rnd) (fpFmt fmt) (o.c.getLsbD 0) (fun j => (vmOf k.x o.m).getLsbD j) (k.v o.a) (k.v o.b) (k.v o.c) st
    some (o.d, o.m, (fpFmt fmt).width, 4, 512 / (fpFmt fmt).width, r.1, r.2)
  | .vfmul _ fmt o =>
    let r := fpLanes 1 k.x.strict (rndOf k.x.rnd) (fpFmt fmt) false (fun j => (vmOf k.x o.m).getLsbD j) (k.v o.a) (k.v o.b) (k.v o.c) st
    some (o.d, o.m, (fpFmt fmt).width, 4, 512 / (fpFmt fmt).width, r.1, r.2)
  | .vfma _ fmt o =>
    let r := fpLanes 2 k.x.strict (rndOf k.x.rnd) (fpFmt fmt) false (fun j => (vmOf k.x o.m).getLsbD j) (k.v o.a) (k.v o.b) (k.v o.c) st
    some (o.d, o.m, (fpFmt fmt).width, 4, 512 / (fpFmt fmt).width, r.1, r.2)
  | .vmin _ fmt o =>
    let r := fpLanes 3 k.x.strict (rndOf k.x.rnd) (fpFmt fmt) false (fun j => (vmOf k.x o.m).getLsbD j) (k.v o.a) (k.v o.b) (k.v o.c) st
    some (o.d, o.m, (fpFmt fmt).width, 2, 512 / (fpFmt fmt).width, r.1, r.2)
  | .vmax _ fmt o =>
    let r := fpLanes 4 k.x.strict (rndOf k.x.rnd) (fpFmt fmt) false (fun j => (vmOf k.x o.m).getLsbD j) (k.v o.a) (k.v o.b) (k.v o.c) st
    some (o.d, o.m, (fpFmt fmt).width, 2, 512 / (fpFmt fmt).width, r.1, r.2)
  | .vcvt _ d a src dst rnd m =>
    let r := cvtLanes k.x.strict (rndCode rnd k.x.rnd) src.toNat dst.toNat (fun j => (vmOf k.x m).getLsbD j) (k.v a) st
    some (d, m, typeWidth dst.toNat, 4, min (512 / typeWidth src.toNat) (512 / typeWidth dst.toNat), r.1, r.2)
  | _ => none

/-- The compares of the V slot (R150, R152): mask register, mask field, lane count, the bit of an active lane, the flags and generator after them. -/
def vectorCompare (k : Iss) (st : RedState) : Instr → Option (Nat × BitVec 4 × Nat × (Nat → Bool) × RedState)
  | .vcmpeq _ o => let w := typeWidth (o.c.toNat % 8); some (o.d.toNat % 8, o.m, 512 / w, fun j => decide (lane w (k.v o.a) j = lane w (k.v o.b) j), st)
  | .vcmplt _ o =>
    let w := typeWidth (o.c.toNat % 8)
    some (o.d.toNat % 8, o.m, 512 / w, fun j => decide (laneSigned w (lane w (k.v o.a) j) < laneSigned w (lane w (k.v o.b) j)), st)
  | .vcmpltu _ o => let w := typeWidth (o.c.toNat % 8); some (o.d.toNat % 8, o.m, 512 / w, fun j => decide (lane w (k.v o.a) j < lane w (k.v o.b) j), st)
  | .vfcmp _ fmt o =>
    let r := cmpLanes k.x.strict (fpFmt fmt) (o.c.toNat % 4) (fun j => (vmOf k.x o.m).getLsbD j) (k.v o.a) (k.v o.b) st
    some (o.d.toNat % 8, o.m, 512 / (fpFmt fmt).width, fun j => r.1.getD j false, r.2)
  | _ => none

/-- The thread's generator as an instruction finds it, with no flag yet. -/
def freshDraws (x : Ctx) : RedState := { fl := 0, s0 := x.sr0, s1 := x.sr1 }

/-- The integer reductions over the active lanes (R157, R159): SUM, MIN, MAX, AND, OR, XOR. -/
def reduceInt (op w : Nat) (l : List Nat) : Nat :=
  match op with
  | 0 => l.foldl (· + ·) 0 % 2 ^ w
  | 1 => l.foldl (fun x y => if laneSigned w y < laneSigned w x then y else x) (2 ^ (w - 1) - 1)
  | 2 => l.foldl (fun x y => if laneSigned w x < laneSigned w y then y else x) (2 ^ (w - 1))
  | 3 => l.foldl (· &&& ·) (2 ^ w - 1)
  | 4 => l.foldl (· ||| ·) 0
  | _ => l.foldl (· ^^^ ·) 0

/-- A lane extended with its sign to 64 bits. -/
def laneToWord (w x : Nat) : Word := BitVec.ofInt 64 (laneSigned w x)

/-! ## Tiles, accumulators and local memory -/

/-- The issue of a slot that, besides what `Leaves` says, changes its core by `f` and takes `n` free values. -/
def LeavesCore (c : Instr) (s : State) (th : Nat) (d : SlotDef) (g : Ctx → Ctx) (l : List Landing) (f : Core → Core) (n : Nat) : Prop :=
  ∃ t, exec c s = .next t ∧ t.pending = s.pending ∧
    ctx t.mod th = issued (g (ctx (popped s.mod th d) th)) (follows s.mod th).1 (loopFlying s.mod th ++ l) ∧
    (∀ u, u ≠ th → ctx t.mod u = ctx s.mod u) ∧ (∀ e, e ≠ th / 4 → core t.mod e = core s.mod e) ∧
    (core t.mod (th / 4)).quiet = (f (core (popped s.mod th d) (th / 4))).quiet ∧
    (NoWalk s.mod th → t.mod = { popped s.mod th d with cores := t.mod.cores, free := s.mod.free + n })

/-- The accumulators written: both members of an FP64 pair (R209). -/
def accFlying (m : Mod) (th n : Nat) (ty : AccTy) (a : Nat) (cells : List (Nat × Nat)) : List Landing :=
  let part (k : Nat) : List (Nat × BitVec 32) := cells.map (fun p => (p.1, BitVec.ofNat 32 (p.2 / 2 ^ (32 * k))))
  match ty with
  | .fp64 => [flying m th .m n (.acc (2 * (a / 2)) (part 0)), flying m th .m n (.acc (2 * (a / 2) + 1) (part 1))]
  | _ => [flying m th .m n (.acc a (part 0))]

/-- The elements of a row of `rb` bytes in a format (R201). -/
def rowElems (fmt : BitVec 4) (rb : Nat) : Nat :=
  match fmt.toNat with
  | 0 => rb / 8
  | 1 => rb / 4
  | 2 | 3 | 4 => rb / 2
  | 8 | 9 => 8 * rb / 6
  | 10 => 2 * rb
  | _ => rb

/-- The array cycles of an MMA (R228). -/
def arrayCycles (fmt : BitVec 4) (k : Nat) (strict : Bool) : Nat :=
  match fmt.toNat with
  | 0 => if strict then 8 * k else 4 * k
  | 1 => if strict then 2 * k else k
  | 2 | 3 | 4 => (k + 3) / 4
  | 10 => (k + 15) / 16
  | _ => (k + 7) / 8

/-- The machine checks that an M-slot instruction raises for an accumulator a cell of which it reads with failing parity, and for bad tiles (R248, R249, R388). -/
def matrixChecks (m : Mod) (th : Nat) (slot : Slot) (acc : Option (AccTy × Nat × (Nat → Nat → Bool))) (tiles : List Nat) : List Flt :=
  let x := ctx m th
  (match acc with
    | some (ty, a, reads) => if accParity x ty a reads then [machineCheck 0x30 (slotNum slot) (4 + a) x.pc 0] else []
    | none => []) ++
  (tiles.filter (fun t => x.tileBad.contains t)).map (fun _ => machineCheck 0x32 (slotNum slot) 4 x.pc 0)

/-- The thread with machine checks made pending. -/
def Ctx.checked (x : Ctx) (l : List Flt) : Ctx := { x with checks := x.checks ++ l }

/-- The rows of a tile result and the configuration that lands with them (R215, R245). -/
def tileFlying (m : Mod) (th n : Nat) (t : Nat) (rows : List TRow) (cfg : TileCfg) : List Landing :=
  let whole (r : Nat) : RowWrite :=
    let row := rows.getD r { data := 0, scale := 0 }
    { row := r, data := BitVec.ofNat 512 row.data, mask := BitVec.allOnes 512, scale := some (BitVec.ofNat 32 row.scale) }
  [flying m th .m n (.tile t ((List.range rows.length).map whole)), flying m th .m n (.tileCfg t cfg)]

/-- A field of a stride descriptor (R108). -/
def sdField (w : Word) (p : Nat) : Nat := (w.extractLsb' p 13).toNat

/-- Unit `i` of a local-memory operand (R109 to R111). -/
def lmUnit (x : Ctx) (o : LmOp) (i : Nat) : Nat :=
  let w := x.sdesc o.sd.toNat
  (o.lm13.toNat + (if o.mode = 0 then 0 else sdField w 16) + i * sdField w 0) % 8192

/-- The scale unit of an operand of `n` rows (R110). -/
def scaleAt (x : Ctx) (o : LmOp) (n : Nat) : Nat := (lmUnit x o (n - 1) + 1) % 8192

/-- The update of mode 0b10 (R109, R112): the offset steps within 13 bits, and the descriptor keeps its other bits. -/
def sdFlying (m : Mod) (th : Nat) (sl : Slot) (o : LmOp) : List Landing :=
  let w := (ctx m th).sdesc o.sd.toNat
  let next : Word := (w &&& ~~~0x1FFF0000#64) ||| BitVec.ofNat 64 ((sdField w 16 + sdField w 32) % 8192 * 2 ^ 16)
  if o.mode = 2 then [flying m th sl 1 (.sd o.sd.toNat next)] else []

/-- The bytes of a unit of the core's local memory. -/
def unitBytes (m : Mod) (c u from_ n : Nat) : List Byte := (List.range n).map (fun j => m.mem.byte (lmAddr c (64 * u + from_ + j)))

/-- No granule of the core's own LM and SDM is marked (R386). -/
def CleanSram (m : Mod) (c : Nat) : Prop := (∀ o, o < 0x80000 → granuleOf m (lmAddr c o) = none) ∧ ∀ o, o < 0x10000 → granuleOf m (sdmAddr c o) = none

/-- The last byte that a list of writes puts at an address. -/
def lastByte (l : List (Nat × Byte)) (a : Nat) : Option Byte := (l.reverse.find? (fun p => p.1 == a)).map Prod.snd

/-- What a tile store writes: the rows, then the scale bytes, by LM byte address (R206, R216). -/
def storedBytes (x : Ctx) (o : LmOp) (rb sc : Nat) (rows : List TRow) : List (Nat × Byte) :=
  (List.range rows.length).flatMap (fun i => (List.range rb).map (fun j =>
    (64 * lmUnit x o i + j, BitVec.ofNat 8 ((rows.getD i { data := 0, scale := 0 }).data / 2 ^ (8 * j))))) ++
  (List.range rows.length).flatMap (fun i => (List.range sc).map (fun j =>
    (64 * scaleAt x o rows.length + 4 * i + j, BitVec.ofNat 8 ((rows.getD i { data := 0, scale := 0 }).scale / 2 ^ (8 * j)))))

/-! ## Global accesses -/

/-- A core without its data cache, its fills and its prefetch streams. -/
def Core.uncached (k : Core) : Core := { k.quiet with dcache := [], dfills := [], streams := [] }

/-- Where a job address leads from a thread of the module. -/
def leadsTo (m : Mod) (th : Nat) (a : Word) : XRes := (xlate m (th / 4) (ctx m th).xbase a).2

/-- The issue of a slot that makes the accesses `new` for its thread, which it leaves as `x`: every other thread and core stays, the caches of its own core
and the books apart its core stays but for `f`, and where no HBM line and no granule is marked so does all memory and the rest of the module. -/
def LeavesAccess (c : Instr) (s : State) (th : Nat) (d : SlotDef) (x : Ctx) (f : Core → Core) (new : List Access) (t : State) : Prop :=
  exec c s = .next t ∧ t.pending = s.pending ∧ ctx t.mod th = x ∧ (∀ u, u ≠ th → ctx t.mod u = ctx s.mod u) ∧
  (∀ e, e ≠ th / 4 → core t.mod e = core s.mod e) ∧ (core t.mod (th / 4)).uncached = f (core (popped s.mod th d) (th / 4)).uncached ∧
  t.mod.accs = s.mod.accs ++ new ∧ t.mod.nextAcc = s.mod.nextAcc + new.length ∧
  (s.mod.mem.check = [] → s.mod.mem.granules = [] →
    t.mod = { popped s.mod th d with cores := t.mod.cores, clusters := t.mod.clusters, free := t.mod.free, accs := t.mod.accs, nextAcc := t.mod.nextAcc })

/-- The thread after an issue that falls through and puts nothing in flight of its own. -/
def passed (m : Mod) (th : Nat) (d : SlotDef) (g : Ctx → Ctx) : Ctx :=
  issued (g (ctx (popped m th d) th)) (follows m th).1 (loopFlying m th)

/-- Does a line have an uncorrectable word among `n` bytes from an offset on, in its data (R397, R404)? -/
def ueIn (l : DLine) (off n : Nat) : Bool :=
  l.err.any (fun e => match e with
    | .ue w => decide (8 * w.toNat < off + n ∧ off < 8 * w.toNat + 8)
    | _ => false)

/-- How a load begins: a hit of the data cache is performed at once with the line's bytes, a miss in HBM waits for a fill that will install the line, any other, and one of a remote
job address, goes to its target (R138, R140, R398, R399). A tag parity error, or an uncorrectable word that the load reads, makes a miss (R404). -/
def LoadBegins (m m' : Mod) (c : Nat) (a b : Access) : Prop :=
  if a.peer.isSome || a.jobAddr.getLsbD 63 || !isHbm a.addr then b = a
  else match (dcFind m c (lineOf a.addr)).filter (fun l => l.valid && !l.err.contains .tag && !ueIn l (a.addr % 64) a.size) with
    | some l => b = { a with performed := true, answer := some { status := 0, data := sliceBytes l.data (a.addr % 64) a.size, poison := l.poison, ue := false } }
    | none => b = { a with viaFill := true } ∧ (fillOpen m' c (lineOf a.addr)).isSome = true

/-- The data of a line leave a core's data cache: a locked line stays without them, any other is no longer held (R402). -/
def LineDropped (m m' : Mod) (c line : Nat) : Prop :=
  match dcFind m c line with
  | none => (core m' c).dcache = (core m c).dcache
  | some l =>
    if l.lock then dcFind m' c line = some { l with valid := false, poison := false, prefetched := false, err := [], data := [] }
    else (core m' c).dcache = (core m c).dcache.erase l

/-- The fill of a line in flight serves the loads issued so far and will not install the line (R402). -/
def FillClosed (m m' : Mod) (c line : Nat) : Prop :=
  match fillOpen m c line with
  | none => (core m' c).dfills = (core m c).dfills
  | some f => ∃ l r, (core m c).dfills = l ++ f :: r ∧ (core m' c).dfills = l ++ { f with closed := some m.nextAcc } :: r

/-- The first `n` bytes of a word, unpoisoned. -/
def lowBytes (n : Nat) (x : Word) : List (Byte × Bool) := (List.range n).map (fun j => (byteOf x j, false))

/-! ## Control flow and control registers -/

/-- A taken branch: the thread goes to `a`, with `l` in flight and no back edge, and the core issues nothing for two cycles (R80, R177). -/
def Branches (c : Instr) (s : State) (th : Nat) (d : SlotDef) (a : Word) (l : List Landing) : Prop :=
  ∃ t, exec c s = .next t ∧ t.pending = s.pending ∧ OnlyThread (popped s.mod th d) t.mod th (issued (ctx (popped s.mod th d) th) a l) ∧
    (core t.mod (th / 4)).nextIssue = (core s.mod (th / 4)).cycle + 3

/-- What a CRW lands: a loop register, a stride descriptor within its fields, or a control register (R52, R108, R166). -/
def crwLanding (n : Nat) (v : Word) : Write :=
  if 0x30 ≤ n then .sd (n - 0x30) (v &&& 0x1FFF1FFF1FFF#64)
  else if 0x28 ≤ n then .lpc (n - 0x28) (v.setWidth 32) true
  else if 0x24 ≤ n then .lpe (n - 0x24) v
  else if 0x20 ≤ n then .lps (n - 0x20) v
  else .cr n v

/-- A write of zero to the end register of the innermost active level (R181). -/
def leavesLoop (x : Ctx) (n : Nat) (v : Word) : Bool := decide (0x24 ≤ n ∧ n < 0x28 ∧ v = 0 ∧ x.depth = n - 0x23)

/-- The entry of R196's example: d ← (a × b) XOR ((a × b) >> 29). -/
def hashEntry : List Byte :=
  toBytes 16 0x8002101300010000 ++ toBytes 5 0x030F39E800 ++ toBytes 5 0x025F7C001D ++ toBytes 5 0x005E3CF400 ++ List.replicate 65 0

/-! ## Channels, threads and barriers -/

/-- The endpoint with a field changed. -/
def Ctx.withEp (x : Ctx) (e : Nat) (f : Endpoint → Endpoint) : Ctx := { x with eps := tblMod {} x.eps e f }

/-- An entry staged: 16 bytes, a low and b high, for one credit (R364). -/
def staged (x : Ctx) (ch : Nat) (a b : Word) : Ctx :=
  Ctx.withEp { x with sendCh := BitVec.ofNat 7 ch, sendBuf := x.sendBuf ++ [b ++ a] } ch (fun k => { k with credit := k.credit - 1 })

/-- The status that R365 writes to an endpoint that is broken or closed. -/
def refusedBy (x : Ctx) (ch : Nat) : Ctx := x.withEp ch (fun k => { k with status := if k.state = 3 then 3 else 6 })

/-- Is the endpoint broken or closed? -/
def epDown (x : Ctx) (ch : Nat) : Bool := (x.endp ch).state == 3 || (x.endp ch).state == 0

/-- The message that COMMIT sends (R363, R364). -/
def message (x : Ctx) (th ch : Nat) : Ctl :=
  let k := x.endp ch
  { id := 0, kind := .msg, ep := { peer := none, thread := BitVec.ofNat 13 th, ep := BitVec.ofNat 7 ch }, queue := k.chQueue, c0 := k.chC0,
    epoch := k.epoch, count := x.sendBuf.length, closed := false, entries := x.sendBuf, job := x.job, req := k.req }

/-- The packet in which a message goes to a peer (R363, R513, R514): a SEND of its entries, in class 0 or 2. -/
def messagePacket (x : Ctx) (th ch : Nat) (p : BitVec 16) : Packet :=
  let c := message x th ch
  { emptyPacket with
    dst := p, len := BitVec.ofNat 9 (16 * c.entries.length), cls := if c.c0 then 0 else 2, type := ctlType .msg, k := BitVec.ofNat 3 (c.queue.toNat / 32768), word2 := channelWord c,
    data := c.entries.flatMap (fun e => toBytes 16 e.toNat),
    job := x.job.extractLsb' 0 16, epoch := x.job.extractLsb' 16 8, traffic := x.job.extractLsb' 24 3, replay := x.job.extractLsb' 27 2 }

/-- Is queue `q` of the thread's core named by the masks, open to the thread, and not empty (R372)? -/
def selectable (m : Mod) (th : Nat) (a b : Word) (q : Nat) : Bool :=
  let k := queueAt m (128 * (th / 4) + q)
  decide (q < 128) && (if q < 64 then a.getLsbD q else b.getLsbD (q - 64)) &&
  k.isOpen && k.rctx.toNat == th % 4 && k.rgen == (ctx m th).gen && wordsIn k != 0

/-! ## Exceptions -/

/-- No table is walked for the address: it is untranslated, or the core's TLB holds it (R475, R479). -/
def NoWalkTo (m : Mod) (th : Nat) (a : Word) : Prop :=
  (ctx m th).xbase.getLsbD 0 = false ∨ (tlbFind (core m (th / 4)).tlb (tagBase (ctx m th).xbase) a.toNat).isSome = true

/-- A frame of the thread can be pushed, to module address `b` (R312). -/
def Pushes (m : Mod) (th b : Nat) : Prop :=
  let a := (ctx m th).ssp - 64
  (ctx m th).ssp.toNat % 64 = 0 ∧ a.getLsbD 63 = false ∧ leadsTo m th a = .here b ∧ (regionOf b = .hbm ∨ ∃ q o, regionOf b = .cm q o)

/-- The resume address (R310). -/
def resumeAt (x : Ctx) : Word := match x.hold with | some h => h.bundle | none => x.pc

/-- cr.tprog at an entry (R320). -/
def progress (x : Ctx) : Word :=
  match x.hold with
  | some h => 0x8000000000000000#64 ||| BitVec.ofNat 64 (h.steps % 65536) |||
      (match h.redirect with | some a => 0x4000000000000000#64 ||| ((a >>> 5) &&& 0x3FFFFFFFFFF#64) <<< 16 | none => 0)
  | none => x.resume.getD 0

/-- cr.cause (R314). -/
def causeOf (df : Bool) (f : Flt) : Word :=
  BitVec.ofNat 64 ((if df then 2 ^ 31 else 0) + f.level * 2 ^ 28 + f.slot.toNat * 2 ^ 25 + f.code.toNat * 2 ^ 16 + f.detail.toNat)

/-- The frame's words (R313). -/
def frameOf (x : Ctx) (cause addr aux time : Word) : List Word :=
  [resumeAt x, cause, (x.mask.setWidth 64 <<< 16) ||| (crStatus x &&& 0xFFFF), addr, progress x, aux, x.ssp, time]

/-- The edges kept at an entry: that of the interrupted H bundle, where a CRW of the bundle had a part in it, before those kept already (R180, R181). -/
def edgesKept (x : Ctx) : List KeptEdge :=
  match x.hold with
  | some h => (match h.edge with | some (next, ws) => if h.byCrw then [{ bundle := h.bundle, next := next, writes := ws }] else [] | none => []) ++ x.edges
  | none => x.edges

/-- The thread from the entry until its frame push is answered (R311, R312). -/
def entering (x : Ctx) (f : Flt) (time : Word) : Ctx :=
  let frame := frameOf x (causeOf false f) f.addr f.aux time
  let more : Option Word := if (progress x).getLsbD 63 then some (progress x) else none
  let push : Entry := { level := f.level, frame := frame, at_ := x.ssp - 64 }
  { x with waiting := none, stall := 0, hold := none, stepFault := none, qcount := 0, resume := more, pc := resumeAt x, cause := causeOf false f, epc := resumeAt x,
           edges := edgesKept x, tprog := progress x, entry := some push }

/-- An entry of thread `th`, which stood at `x`: its frame is on its way to `b`, its core chooses a thread, every other thread and core stays, and so does what its core
holds apart from its data cache and its armed arrivals. -/
def Enters (s t : State) (th : Nat) (x : Ctx) (f : Flt) (b : Nat) : Prop :=
  t.pending = s.pending ∧ ctx t.mod th = entering x f s.mod.tb.time ∧ (∀ u, u ≠ th → ctx t.mod u = ctx s.mod u) ∧
  (∀ e, e ≠ th / 4 → core t.mod e = core s.mod e) ∧
  { (core t.mod (th / 4)).uncached with queues := [] } = { (core s.mod (th / 4)).uncached with queues := [], idle := true } ∧
  ∃ a, a ∈ t.mod.accs ∧ a.kind = .framePush ∧ a.thread = BitVec.ofNat 13 th ∧ a.gen = x.gen ∧ a.jobAddr = x.ssp - 64 ∧ a.addr = b ∧ a.peer = none ∧
    a.performed = false ∧ a.data = ((frameOf x (causeOf false f) f.addr f.aux s.mod.tb.time).flatMap wordBytes).map (fun v => (v, false))

/-- The interrupts of a thread (R303): pending bit, level, code. -/
def interrupts : List (Nat × Nat × Nat) := [(0, 1, 0x01), (1, 1, 0x02), (2, 1, 0x03), (3, 2, 0x10), (4, 2, 0x11), (5, 2, 0x12)]

/-- Is the interrupt pending and unmasked (R306)? -/
def unmasked (x : Ctx) (e : Nat × Nat × Nat) : Bool := x.pendInt.getLsbD e.1 && decide (x.mask.toNat < e.2.1)

/-- The interrupt that R308 takes: unmasked, of the highest level, and within it of the lowest code. -/
def Chosen (x : Ctx) (e : Nat × Nat × Nat) : Prop :=
  e ∈ interrupts ∧ unmasked x e = true ∧ ∀ k ∈ interrupts, unmasked x k = true → k.2.1 < e.2.1 ∨ (k.2.1 = e.2.1 ∧ e.2.2 ≤ k.2.2)

/-- The detail of an interrupt (R315). -/
def intDetail (m : Mod) (th bit : Nat) : Nat := if bit = 0 then arrivalQueue m th else if bit = 2 then lowestBit 16 (ctx m th).mpMask.toNat else 0

/-- The thread in double-fault state, at the double-fault entry (R323). -/
def doubled (x : Ctx) (f : Flt) (cyc : Nat) : Ctx :=
  { x with waiting := none, stall := 0, hold := none, resume := none, stepFault := none, entry := none, rteAt := none, rteBad := none, cause := causeOf true f,
           edges := edgesKept x, epc := resumeAt x, tprog := progress x, mask := 4, sup := true, dbl := true, dblEpc := resumeAt x, pc := x.vbase + 0x500, notBefore := settledAt x (cyc + 2) }

/-- The module as the fault of a slot leaves it: the status of an endpoint, and the walks of an access that ends in a fault, unless the fault is that of a window (R365, R488). -/
def faulted (k : Iss) (d : SlotDef) (m : Mod) : Mod := if (unboundFault k [d]).isSome then m else d.onFault k m

/-- A frame of the thread cannot be pushed, and why (R312): its stack pointer is not aligned, its address leads to no memory of the module, or its page is not present. -/
def PushFails (m : Mod) (th n : Nat) : Prop :=
  let a := (ctx m th).ssp - 64
  let off : Prop := (ctx m th).ssp.toNat % 64 ≠ 0
  let away : Prop := a.getLsbD 63 = true ∨ ∃ b, leadsTo m th a = .here b ∧ regionOf b ≠ .hbm ∧ ∀ q o, regionOf b ≠ .cm q o
  (n = 0 ∧ off) ∨ (n = 1 ∧ ¬off ∧ away) ∨ (n = 2 ∧ ¬off ∧ a.getLsbD 63 = false ∧ leadsTo m th a = .notPresent)

/-- Double-fault state entered by the thread, which stood at `x`: its frame is in its slot of the double-fault area, whose two cycles take the SDM from LDS and STS, and no
other byte of a canonical memory changes, but for the event log, where a machine check is recorded (R323, R326, R383). -/
def Doubles (s t : State) (th : Nat) (x : Ctx) (f : Flt) (aux : Word) : Prop :=
  let at_ := sdmAddr (th / 4) ((256 * (core s.mod (th / 4)).dfBase.toNat + 64 * (th % 4)) % 65536)
  t.pending = s.pending ∧ ctx t.mod th = doubled x f (core s.mod (th / 4)).cycle ∧ (∀ u, u ≠ th → ctx t.mod u = ctx s.mod u) ∧
  (core t.mod (th / 4)).sdmBusy = (core s.mod (th / 4)).cycle + 2 ∧
  (s.canonical → t.mod.mem.bytes at_ 64 = (frameOf x (causeOf true f) f.addr aux s.mod.tb.time).flatMap wordBytes ∧
    ∀ a, a < at_ ∨ at_ + 64 ≤ a → (f.level = 4 → a < 0x02FFC1000000 ∨ 0x02FFC5000000 ≤ a) → t.mod.mem.byte a = s.mod.mem.byte a)

/-! ## A core at work -/

/-- One thread changes to `x`; every other thread and every other core stays. -/
def ThreadOnly (s t : State) (th : Nat) (x : Ctx) : Prop :=
  t.pending = s.pending ∧ ctx t.mod th = x ∧ (∀ u, u ≠ th → ctx t.mod u = ctx s.mod u) ∧ ∀ e, e ≠ th / 4 → core t.mod e = core s.mod e

/-- A row of a tile as a result leaves it (R162, R205). -/
def rowLanded (tile : Nat) (x : Ctx) (w : RowWrite) : Ctx :=
  let k := 16 * tile + w.row
  { x with trow := tblPut x.trow k ((tblGet 0 x.trow k &&& ~~~w.mask) ||| (w.data &&& w.mask)),
           tscale := match w.scale with | some s => tblPut x.tscale k s | none => x.tscale }

/-- The thread's own control registers after a CRW of `v` to register `n` has landed (R53 to R58, R305, R314, R316, R320, R336, R477). -/
def crLanded (x : Ctx) (n : Nat) (v : Word) : Ctx :=
  match n with
  | 0x000 => if v.getLsbD 15 then { x with haz := false } else x
  | 0x002 => { x with flags := x.flags &&& ~~~(v.extractLsb' 16 5), rnd := if v.extractLsb' 4 2 = 3 then x.rnd else v.extractLsb' 4 2, strict := v.getLsbD 0 }
  | 0x003 => { x with sr0 := v }
  | 0x004 => { x with sr1 := v }
  | 0x005 => if (v.extractLsb' 0 3).toNat ≤ 4 then { x with mask := v.extractLsb' 0 3 } else x
  | 0x007 => { x with epc := v &&& ~~~0x1F#64 }
  | 0x008 => { x with ssp := v }
  | 0x00A => { x with vbase := v &&& ~~~0x7FF#64 }
  | 0x00B => { x with tprog := v &&& 0xC3FFFFFFFFFFFFFF#64 }
  | 0x00C => { x with prio := v.getLsbD 0 }
  | 0x011 => { x with xbase := v &&& 0x00007FFFFFF00001#64 }
  | _ => x

/-- What the landing of a result changes in its thread (R51, R63, R166); none for one in LM or SDM. -/
def landed (x : Ctx) : Write → Option Ctx
  | .s r v => some { x with s := tblPut x.s r v }
  | .v r v mask => some { x with v := tblPut x.v r ((x.vreg r &&& ~~~mask) ||| (v &&& mask)) }
  | .vm r v mask => some (if r = 0 then x else { x with vm := tblPut x.vm r ((x.vmask r &&& ~~~mask) ||| (v &&& mask)) })
  | .p r v => some (if r = 0 then x else { x with p := tblPut x.p r v })
  | .sd r v => some { x with sd := tblPut x.sd r v }
  | .lps k v => some { x with lps := tblPut x.lps k v }
  | .lpe k v => some { x with lpe := tblPut x.lpe k v }
  | .lpc k v _ => some { x with lpc := tblPut x.lpc k v }
  | .window w q => some { x with windows := tblPut x.windows w q }
  | .flags f => some { x with flags := x.flags ||| f }
  | .tile k rows => some { rows.foldl (rowLanded k) x with tileBad := x.tileBad.filter (· != k) }
  | .tileCfg k cfg => some { x with tcfg := tblPut x.tcfg k cfg }
  | .acc a cells => some { x with acc := cells.foldl (fun t p => tblPut t (256 * a + p.1) p.2) x.acc,
                                  accBad := x.accBad.filter (fun k => !(k / 256 == a && cells.any (fun p => p.1 == k % 256))) }
  | .accTy a ty => some { x with accTy := tblPut x.accTy a ty }
  | .cr n v => some (crLanded x n v)
  | .check f => some { x with checks := x.checks ++ [f] }
  | .lm _ | .sdm _ => none

/-- The flags that a result sets as it lands. -/
def flagsIn : Write → BitVec 5
  | .flags f => f
  | _ => 0

/-- The bytes that a result writes as it lands, by module address. -/
def bytesIn (c : Nat) : Write → List (Nat × Byte)
  | .lm l => l.map (fun p => (lmAddr c p.1, p.2))
  | .sdm l => l.map (fun p => (sdmAddr c p.1, p.2))
  | _ => []

/-! ## Bundles (R64, R68, R72, R78, R93, R309) -/

/-- The slots of a bundle in the cycle of its core, and those whose guard is true (R90). -/
def slotsNow (m : Mod) (th : Nat) (b : Bundle) : List SlotDef := b.defs (core m (th / 4)) (core m (th / 4)).cycle
def activeNow (m : Mod) (th : Nat) (b : Bundle) : List SlotDef := (slotsNow m th b).filter (fun d => guardOn d.guard (ctx m th))

/-- The fault that decode finds in a slot of a bundle (R91, R93): an encoding or an operand that is ILLEGAL, else PRIV, else a queue window that the S and the V slot name both. -/
def DecodesTo (m : Mod) (th : Nat) (b : Bundle) (w : Slot) (f : Flt) : Prop :=
  let ds := slotsNow m th b
  (∃ k, (w, k) ∈ b.bad ∧ f = syncFault w 0x21 k 0) ∨
  ((∀ k, (w, k) ∉ b.bad) ∧ ∃ d ∈ ds, d.slot = w ∧
    ((∃ k, d.illegal = some k ∧ f = syncFault w 0x21 k 0) ∨
     (d.illegal = none ∧ d.priv (ctx m th) = true ∧ f = syncFault w 0x20 0 0) ∨
     (d.illegal = none ∧ d.priv (ctx m th) = false ∧ w = .s ∧ f = syncFault .s 0x21 3 0 ∧ ∃ e ∈ ds, e.slot = .v ∧ ∃ q n k, (q, n) ∈ d.wins ∧ (q, k) ∈ e.wins)))

/-- The words that the windows of a bundle pop, read by its slots (R67, R93). -/
def issWith (m : Mod) (th : Nat) (b : Bundle) : Iss := { issNow m th with pops := (popAll (issNow m th) (activeNow m th b)).2 }

/-- The fault that the values of an active slot raise: that of a window, of the instruction, or of the target of its branch in an H bundle (R70, R91, R372). -/
def ValuesTo (m : Mod) (th : Nat) (b : Bundle) (d : SlotDef) (f : Flt) : Prop :=
  let k := issWith m th b
  d ∈ activeNow m th b ∧
  (unboundFault k [d] = some f ∨ (unboundFault k [d] = none ∧ (d.fault k = some f ∨ (d.fault k = none ∧ d.branch = true ∧ holdTargetFault k (activeNow m th b) = some f))))

/-- The bundle waits, with the code of its long stall (R68, R349): for a pending register, else for the words of its windows, else for what its earliest slot that waits needs. -/
def WaitsFor (m : Mod) (th : Nat) (b : Bundle) (n : Nat) : Prop :=
  let act := activeNow m th b
  let pending : Prop := ∃ d ∈ act, pendingReg (ctx m th) d = true
  let short : Prop := windowsEmpty m th (windowNeeds (ctx m th) th act) = true
  (n = 1 ∧ pending) ∨ (n = 2 ∧ ¬pending ∧ short) ∨
  (¬pending ∧ ¬short ∧ ∃ d ∈ act, d.stall (issNow m th) = n ∧ n ≠ 0 ∧ ∀ e ∈ act, (slotNum e.slot).toNat < (slotNum d.slot).toNat → e.stall (issNow m th) = 0)

/-- The bundle decodes without a fault and waits for nothing but, where it is QUIET, fixed results, the engine or the SDM. -/
def MayGo (m : Mod) (th : Nat) (b : Bundle) : Prop := (∀ w f, ¬DecodesTo m th b w f) ∧ ∀ n, ¬WaitsFor m th b n

/-- Nor does it wait for the engine, the issue cap or the SDM (R230, R383, R653). -/
def Ready (m : Mod) (th : Nat) (b : Bundle) : Prop :=
  MayGo m th b ∧ arrayFree (issNow m th) (activeNow m th b) = true ∧ ∀ d ∈ activeNow m th b, d.sdm = true → (core m (th / 4)).sdmBusy ≤ (core m (th / 4)).cycle

/-- All that the slot does is put results in flight: the latency and the result of each. -/
def OnlyLands (k : Iss) (d : SlotDef) (ws : List (Nat × Write)) : Prop :=
  d.ends = false ∧ d.hold = none ∧ d.rte = false ∧
  ∀ m, d.eff k m = ws.foldl (fun m w => setCtx m k.th (fun x =>
    { x with inflight := x.inflight ++ [{ due := k.cyc + w.1, issued := k.cyc, slot := d.slot, bundle := k.pc, w := w.2 }] })) m

/-- Two states that differ in counters alone. -/
def ButCounters (s t : State) : Prop :=
  t.pending = s.pending ∧ { t.mod with cores := [] } = { s.mod with cores := [] } ∧ ∀ e, { core t.mod e with counters := [] } = { core s.mod e with counters := [] }

/-- The context that R337 chooses, and at which priority: of the threads ready in the switch cycle, those of high priority alone if there is one, the first after the
last chosen. -/
def NextThread (m : Mod) (c i : Nat) (high : Bool) : Prop :=
  let last := if high then (core m c).lastHigh else (core m c).lastNormal
  let there (j : Nat) := j < 4 ∧ ready m (4 * c + j) = true ∧ (ctx m (4 * c + j)).readyAt ≤ switchCycle m c
  let able (j : Nat) := there j ∧ (high = true → (ctx m (4 * c + j)).prio = true)
  (high = true ↔ ∃ j, there j ∧ (ctx m (4 * c + j)).prio = true) ∧ able i ∧ ∀ j, able j → (i + 3 - last) % 4 ≤ (j + 3 - last) % 4

/-- The core after a switch to context `i`: the switch cycle passes unless the thread is the same (R337, R338, R339). -/
def switched (m : Mod) (c i : Nat) (high : Bool) : Core :=
  let k := core m c
  { k with cur := i, expired := false, idle := false, lastHigh := if high then i else k.lastHigh, lastNormal := if high then k.lastNormal else i,
           nextIssue := if i ≠ k.cur then max k.nextIssue (switchCycle m c + 1) else if k.idle then max k.nextIssue (switchCycle m c) else k.nextIssue,
           ctxs := [], counters := [] }

/-- A thread that leaves its turn waits in the long stall of its next bundle, where that cannot issue (R68). -/
def parked (m : Mod) (u : Nat) (x : Ctx) : Ctx :=
  if x.live = true ∧ stallOf x = 0 ∧ stallNow m u ≠ 0 then { x with waiting := nextBundle m u, stall := BitVec.ofNat 4 (stallNow m u) } else x

/-- A switch of core `c` to context `i`. -/
def Switches (s t : State) (c i : Nat) (high : Bool) : Prop :=
  let old := (core s.mod c).cur
  t.pending = s.pending ∧ { core t.mod c with ctxs := [], counters := [] } = switched s.mod c i high ∧ (∀ e, e ≠ c → core t.mod e = core s.mod e) ∧
  (∀ u, u ≠ 4 * c + i → u ≠ 4 * c + old → ctx t.mod u = ctx s.mod u) ∧ ctx t.mod (4 * c + i) = { ctx s.mod (4 * c + i) with qcount := 0 } ∧
  (i ≠ old → ctx t.mod (4 * c + old) = parked s.mod (4 * c + old) { ctx s.mod (4 * c + old) with qcount := 0 }) ∧ t.mod = { s.mod with cores := t.mod.cores }

/-! ## The debug unit, queues and channels -/

/-- The control range of the tiles answers, a steward bridge leads to the register's tile, and no fence covers the register (R27, R603, R649). -/
def Reachable (m : Mod) (o : Nat) : Prop :=
  meshRuns m = true ∧ (o < 0x800000 → stewardReaches m (o / 0x10000) = true) ∧ fencedAt m (ctlAddr o) m.now = false

/-- Apart from one core, its threads among them, the module stays, but for the answer to the write. -/
def CoreChanged (s t : State) (c : Nat) (k : Core) : Prop :=
  t.pending = s.pending ∧ core t.mod c = k ∧ (∀ e, e ≠ c → core t.mod e = core s.mod e) ∧ t.mod = { s.mod with cores := t.mod.cores, answer := .none }

/-- Is no context of the core live (R342)? -/
def noneLive (m : Mod) (c : Nat) : Bool := [0, 1, 2, 3].all (fun j => !(ctx m (4 * c + j)).live)

/-- A halted thread (R231, R320, R346): it stands at its resume address, which cr.epc holds, an H instruction in progress has left its progress, and its count of
bundles is 0. -/
def haltedAt (x : Ctx) : Ctx :=
  let more : Option Word := if (progress x).getLsbD 63 then some (progress x) else none
  { x with waiting := none, stall := 0, hold := none, resume := more, halted := true, pc := resumeAt x, epc := resumeAt x, tprog := progress x, qcount := 0,
           edges := edgesKept x }

/-- What RESTORE takes from a save area, for a context that stood at `x` (R52, R347, R348): what no CRW could write is not taken, and a configuration word and an accumulator
type are taken as they stand (log 112). -/
def Restored (d : List Byte) (x y : Ctx) : Prop :=
  let n (off len : Nat) : Nat := ofBytes (sliceBytes d off len)
  let w (off : Nat) : Word := wordOf (sliceBytes d off 8)
  (∀ r, r < 32 → y.sreg r = w (8 * r)) ∧ (∀ r, r < 32 → y.vreg r = vecOf (sliceBytes d (0x100 + 64 * r) 64)) ∧
  (∀ r, 0 < r → r < 8 → y.vmask r = BitVec.ofNat 32 (n (0x900 + 4 * r) 4) ∧ y.pred r = (d.getD (0x920 + r) 0).getLsbD 0) ∧
  (∀ t, t < 8 → y.tconf t = { rows := n (0x928 + 4 * t) 4 / 2 ^ 13 % 16 + 1, rowBytes := n (0x928 + 4 * t) 4 / 2 ^ 7 % 64 + 1,
                              fmt := BitVec.ofNat 4 (n (0x928 + 4 * t) 4 / 8 % 16), scale := n (0x928 + 4 * t) 4 % 8 }) ∧
  (∀ t r, t < 8 → r < 16 → y.tdata t r = vecOf (sliceBytes d (0xC00 + 1088 * t + 64 * r) 64) ∧ y.tsc t r = BitVec.ofNat 32 (n (0xC00 + 1088 * t + 1024 + 4 * r) 4)) ∧
  (∀ a, a < 4 → y.aty a = if n (0x948 + a) 1 = 1 then .int32 else if n (0x948 + a) 1 = 2 then .fp64 else .fp32) ∧
  (∀ a c, a < 4 → c < 256 → y.acell a c = BitVec.ofNat 32 (n (0x2E00 + 1024 * a + 4 * c) 4)) ∧ y.accBad = [] ∧ y.tileBad = [] ∧
  (∀ r, r < 8 → y.sdesc r = w (0x980 + 8 * r) &&& 0x00001FFF1FFF1FFF) ∧
  (∀ k, k < 4 → tblGet 0 y.lps k = w (0x9C0 + 8 * k) &&& ~~~0x1F#64 ∧ tblGet 0 y.lpe k = w (0x9E0 + 8 * k) &&& ~~~0x1F#64 ∧ tblGet 0 y.lpc k = (w (0xA00 + 8 * k)).setWidth 32) ∧
  y.haz = (w 0xA20).getLsbD 15 ∧ y.sup = (w 0xA20).getLsbD 0 ∧ y.flags = (w 0xA28).extractLsb' 16 5 ∧ y.strict = (w 0xA28).getLsbD 0 ∧
  ((w 0xA28).extractLsb' 4 2 ≠ 3 → y.rnd = (w 0xA28).extractLsb' 4 2) ∧ y.sr0 = w 0xA30 ∧ y.sr1 = w 0xA38 ∧
  (((w 0xA40).extractLsb' 0 3).toNat ≤ 4 → y.mask = (w 0xA40).extractLsb' 0 3) ∧ y.cause = w 0xA48 &&& 0xFEFFFFFF ∧ y.epc = w 0xA50 &&& ~~~0x1F#64 ∧ y.pc = y.epc ∧
  y.ssp = w 0xA58 ∧ y.vbase = w 0xA60 &&& ~~~0x7FF#64 ∧ y.tprog = w 0xA68 &&& 0xC3FFFFFFFFFFFFFF ∧ y.prio = (w 0xA70).getLsbD 0 ∧ y.job = (w 0xA78).setWidth 29 ∧
  y.xbase = w 0xA80 &&& 0x00007FFFFFF00001 ∧ y.resume = (if y.tprog.getLsbD 63 then some y.tprog else none) ∧ y.qcount = (w 0xA88).toNat ∧
  (∀ q, q < 16 → tblFind y.windows q = if (d.getD (0xA90 + q) 0).getLsbD 7 then some ((d.getD (0xA90 + q) 0).setWidth 7) else none) ∧
  y.pendS = BitVec.ofNat 32 (n 0xAA0 4) ∧ y.pendV = BitVec.ofNat 32 (n 0xAA4 4) ∧ y.pendT = BitVec.ofNat 8 (n 0xAA8 1) ∧
  y.pendInt = BitVec.ofNat 6 (n 0xAB0 2) ∧ y.mpMask = BitVec.ofNat 16 (n 0xAB2 2) ∧ y.rotPtr = BitVec.ofNat 7 (n 0xAB8 1) ∧ y.toll = min 4 (n 0xAB9 1 % 8) ∧ y.tollQ = [] ∧
  y.sendCh = BitVec.ofNat 7 (n 0xAC0 1) ∧ y.sendBuf.length = min 4 (n 0xAC1 1 % 8) ∧ (∀ i, i < y.sendBuf.length → y.sendBuf[i]? = some (BitVec.ofNat 128 (n (0xB00 + 16 * i) 16))) ∧
  y.live = true ∧ y.halted = true ∧ y.gen = x.gen + 1 ∧ y.inflight = [] ∧ y.hold = none ∧ y.entry = none ∧ y.waiting = none ∧ y.edges = [] ∧
  y.eps = x.eps ∧ y.seq = x.seq ∧ y.outstanding = x.outstanding ∧ y.ctrs = x.ctrs ∧ y.barmem = x.barmem ∧ y.arrived = x.arrived ∧ y.bypass = x.bypass

/-- Queue `q` changed, and of its core, of every thread and of all else nothing but what `m` has. -/
def QueueChanged (m t : Mod) (q : Nat) (k : Queue) : Prop :=
  queueAt t q = k ∧ (∀ p, p ≠ q → queueAt t p = queueAt m p) ∧ (∀ u, ctx t u = ctx m u) ∧ (∀ e, e ≠ q / 128 → core t e = core m e) ∧
  { core t (q / 128) with queues := [] } = { core m (q / 128) with queues := [] }

/-- May an open queue of a core take the run of `d` store entries from `b` on: no other open queue holds one of them (R351)? -/
def RunFree (m : Mod) (c b d : Nat) : Prop :=
  ∀ e ∈ (core m c).queues, e.2.isOpen = true → b + d ≤ e.2.base ∨ e.2.base + e.2.depth ≤ b

/-- The runs that an OPEN may take: whole multiples of the depth, in the store or in the quarter of the context (R341, R351). -/
def Runs (m : Mod) (c ctxn d b : Nat) : Prop :=
  let lo := if quarters (core m c) then 512 * ctxn else 0
  let hi := if quarters (core m c) then 512 * ctxn + 512 else 2048
  lo ≤ b ∧ b + d ≤ hi ∧ (b - lo) % d = 0 ∧ RunFree m c b d

/-- A queue with the RW fields of a write of qctl (R354). -/
def qctlFields (k : Queue) (v : Word) : Queue := { k with ctx := v.extractLsb' 24 2, ldepth := v.extractLsb' 16 4, evarm := v.getLsbD 2 }

/-- An endpoint with the RW fields of a write of chctl (R358). -/
def chctlFields (k : Endpoint) (v : Word) : Endpoint :=
  { k with gfault := v.getLsbD 57, c0 := v.getLsbD 56, want := v.extractLsb' 48 8, peer := v.extractLsb' 32 16, remote := v.getLsbD 31, queue := v.extractLsb' 0 18 }

/-- The number of the channel of an item at its queue: that of the grant its OPEN obtained. Items of a peer name no OPEN: of its grants of the class the first that is not
released (log 116). -/
def channelOf (k : Queue) (c : Ctl) : Option Nat := (k.grants.find? (fun g => g.ep == c.ep && g.c0 == c.c0 && g.req == c.req && !g.released)).map (fun g => g.chan)

/-- A queue once the channel of an item is released: its grant goes with the last entry of the channel that the queue holds (R362). -/
def letGo (k : Queue) (c : Ctl) : Queue :=
  match channelOf k c with
  | none => k
  | some n =>
    let marked := k.grants.map (fun g => if g.chan = n then { g with released := true } else g)
    { k with grants := marked.filter (fun g => !g.released || k.msgs.any (fun x => x.chan == g.chan)) }

/-- An item of control traffic of an endpoint of this module (R363). -/
def endpointItem (m : Mod) (th e : Nat) (kind : CtlKind) (k : Endpoint) (n : Nat) : Ctl :=
  { id := m.nextNet, kind := kind, ep := { peer := none, thread := BitVec.ofNat 13 th, ep := BitVec.ofNat 7 e }, queue := k.chQueue, c0 := k.chC0,
    epoch := k.epoch, count := n, closed := false, entries := [], job := (ctx m th).job, req := k.req }

/-! ## Memory, caches and scrubbers -/

/-- The access `id` of a module, ready at its target: its own module's, not held back by program order, not served by a fill, not yet performed (R446, R454, R455). -/
def AtTarget (m : Mod) (id : Nat) (a : Access) : Prop :=
  m.accs.find? (fun k => k.id == id) = some a ∧ a.performed = false ∧ a.viaFill = false ∧ a.present = true ∧ a.peer = none ∧ a.sent = false ∧ a.unitsDone = 0 ∧ accHeld m a = false ∧
  a.kind ≠ .vstore ∧ a.kind ≠ .tsgRow ∧ a.kind ≠ .framePush

/-- The access is performed with response `r`; every thread stays, and of memory only what `w` writes from address `a` on changes, where memory is canonical. -/
def Performs (s t : State) (m : Mod) (id : Nat) (k : Access) (r : Resp) (a : Nat) (w : List Byte) : Prop :=
  t.pending = s.pending ∧ accFind t.mod id = some { k with performed := true, answer := some r } ∧ (∀ u, ctx t.mod u = ctx m u) ∧
  (m.mem.wf = true → t.mod.mem.bytes a w.length = w ∧ ∀ b, b < a ∨ a + w.length ≤ b → t.mod.mem.byte b = m.mem.byte b)

/-- A signed number of `n` bits. -/
def signedOf (n x : Nat) : Int := if 2 ^ (n - 1) ≤ x then (x : Int) - 2 ^ n else x

/-- The new value of an atomic on `n` bits (R101, R145): old value x, operand b, comparand c; FADD rounds to nearest even with subnormals kept and has one NaN (R146). -/
def atomicValue (op n x b c : Nat) : Option Nat :=
  match op with
  | 0 => some ((x + b) % 2 ^ n)
  | 1 => some (x &&& b % 2 ^ n)
  | 2 => some (x ||| b % 2 ^ n)
  | 3 => some (x ^^^ b % 2 ^ n)
  | 4 => some (b % 2 ^ n)
  | 5 => some (if x = c % 2 ^ n then b % 2 ^ n else x)
  | 6 => some (if signedOf n (b % 2 ^ n) < signedOf n x then b % 2 ^ n else x)
  | 7 => some (if signedOf n x < signedOf n (b % 2 ^ n) then b % 2 ^ n else x)
  | 8 => some (if b % 2 ^ n < x then b % 2 ^ n else x)
  | 9 => some (if x < b % 2 ^ n then b % 2 ^ n else x)
  | 10 =>
    let f := if n = 64 then fp64 else if n = 32 then fp32 else bf16
    let sum := (fAdd true .near 0 f false x (b % 2 ^ n)).bits
    some (if isNan (unpack f sum) then f.qnan else sum)
  | _ => none

/-- A range of memory that answers an access whole: HBM that is not disabled, none of whose lines is marked, or LM, SDM or CM, none of whose granules is. -/
def Sound (m : Mod) (a : Nat) : Prop :=
  (regionOf a = .hbm ∧ disabled m 3 = false ∧ m.mem.check = []) ∨
  (((∃ q o, regionOf a = .cm q o) ∨ (∃ c o, regionOf a = .lm c o) ∨ ∃ c o, regionOf a = .sdm c o) ∧ m.mem.granules = [])

/-- A store of 8 bytes into a queue view does what the command `c` does at the module that it came to, whose tile it keeps busy. -/
def ActsAs (s t : State) (m : Mod) (id : Nat) (a : Access) (tile : Nat) (c : Instr) : Prop :=
  ∃ u, exec c { s with mod := touchTile m tile } = .next u ∧ t = { u with mod := { u.mod with accs := t.mod.accs } } ∧
    accFind t.mod id = some { a with performed := true, answer := some { status := 0, data := [], poison := false, ue := false } }

/-- The module steps at `at_`: the time is that or what it was. -/
def timeTo (m : Mod) (at_ : Nat) : Nat := max m.now at_

/-- A whole write of an 8-byte register (R13). -/
def wholeWrite (a : RegAccess) : Bool := a.at_ == 0 && a.size == 8

/-! ## Registers -/

/-- The always-on part of the control range answers, and no fence covers the register at an offset (R603, R648). -/
def AoReachable (m : Mod) (o : Nat) : Prop := m.pwr.aoOn = true ∧ m.pwr.down = false ∧ fencedAt m (ctlAddr o) m.now = false

/-- Does a submission ring of a log size outside 1 to 16 stop as it is enabled (R547)? -/
def badLog (x : BitVec 5) : Bool := decide (x = 0 ∨ 16 < x.toNat)

/-! ## Stream engines -/

/-- The descriptors of a queue of an engine, oldest first. -/
def inQueue (m : Mod) (q queue : Nat) : List SDesc := tblGet [] (cluster m q).dqs queue

/-- The descriptor after a chunk of `n` destination bytes has been issued (R416, R420). -/
def afterChunk (d : SDesc) (n : Nat) : SDesc :=
  if d.destBytes ≤ d.off + n then { d with nextChunk := d.nextChunk + 1, row := d.row + 1, off := 0, idx := none }
  else { d with nextChunk := d.nextChunk + 1, off := d.off + n }

/-- The job address of the index of a descriptor's row (R416). -/
def indexAt (d : SDesc) : Word := d.words.getD 5 0 + BitVec.ofNat 64 (4 * d.row)

/-- The descriptor of a GATHER or SCATTER with the index of its row read from memory, where it has not been. -/
def withIndex (m : Mod) (d : SDesc) : SDesc :=
  if (d.op = 2 ∨ d.op = 3) ∧ d.idx = none then { d with idx := some (BitVec.ofNat 32 (ofBytes (m.mem.bytes (indexAt d).toNat 4))) } else d

/-- The 32 bytes of a completion record (R425). -/
def recordBytes (m : Mod) (d : SDesc) : List Byte :=
  let bits (lo : Nat) : Word := BitVec.ofNat 64 ((List.range 64).foldl (fun s i => s + if d.detached.contains (lo + i) then 2 ^ i else 0) 0)
  let head : Word := BitVec.ofNat 64 (d.doneCount * 2 ^ 32) ||| (d.seq.setWidth 64 <<< 16) ||| (d.status m).setWidth 64
  wordBytes head ++ wordBytes (d.failAddr m) ++ wordBytes (bits 0) ++ wordBytes (bits 64)

/-! ## The fabric -/

/-- Only link `l` changes, to `k`; the outputs `out` leave, and the time is `at_` where that is later. -/
def LinkOnly (s t : State) (l : Nat) (k : Link) (out : List Output) (at_ : Nat) : Prop :=
  t.pending = s.pending ∧ linkOf t.mod l = k ∧ (∀ j, j ≠ l → linkOf t.mod j = linkOf s.mod j) ∧ t.mod.out = s.mod.out ++ out ∧ t.mod.now = timeTo s.mod at_ ∧
  (at_ ≤ s.mod.now → t.mod.tb = s.mod.tb) ∧
  t.mod = { s.mod with fab := { s.mod.fab with links := t.mod.fab.links }, out := t.mod.out, now := t.mod.now, tb := t.mod.tb }

/-- Link `l`, with nothing waiting at its port, goes DOWN at `at_` and its reset starts (R525, R532, R604). -/
def GoesDown (s t : State) (l : Nat) (at_ : Nat) : Prop :=
  t.pending = s.pending ∧ (linkOf t.mod l).state = 0 ∧ (linkOf t.mod l).window = [] ∧ (linkOf t.mod l).downAt = timeTo s.mod at_ ∧ t.mod.now = timeTo s.mod at_ ∧
  t.mod.fab.floodSeq = s.mod.fab.floodSeq + 1 ∧
  (∃ r ∈ t.mod.rcv.resets, r.d = .link (BitVec.ofNat 7 l) ∧ r.draining = true ∧ r.drainAt = t.mod.now + 100000) ∧
  t.mod.mem = s.mod.mem ∧ ∀ u, ctx t.mod u = { ctx s.mod u with eps := (ctx t.mod u).eps }

/-- May a packet stand in a codeword (R513, R514)? Its type is assigned, it has word 2 where its type does, and as many data bytes as its header says. -/
def PacketOk (p : Packet) : Prop :=
  typeKnown p.type.toNat = true ∧ (hasWord2 p.type.toNat = false → p.word2 = 0) ∧ p.data.length = dataLen p.type.toNat p.len.toNat

/-- The codewords of a replay, the first marked REPLAY; each acknowledges what was last accepted (R507, R508). -/
def resent (l : Nat) (ack : Byte) (w : List (Byte × List Byte)) : List Output :=
  match w with
  | [] => []
  | x :: t => .codeword l (codewordOf 2 x.1 ack x.2) :: t.map (fun y => .codeword l (codewordOf 0 y.1 ack y.2))

/-- The link after a DATA codeword with these bytes has left it: it is kept until it is acknowledged (R508). -/
def afterData (k : Link) (body : List Byte) (now : Nat) : Link :=
  { k with window := k.window ++ [(k.txSeq, body)], ackAt := if k.window = [] then now else k.ackAt, txSeq := k.txSeq + 1 }

/-- Nothing waits at the port of an up link, and it may send (R508). -/
def portIdle (k : Link) : Prop := k.state = 2 ∧ k.txq = [] ∧ k.ctl = []

/-- What an up link sends as an LCTRL leaves it at a time: the codeword that carries it (R503, R516). -/
def sentCtl (l : Nat) (k : Link) (x : Lctrl) (t : Int) : List Output := [.codeword l (codewordOf 0 k.txSeq (k.rxNext - 1) (x.bytes t)), .lctrl l x t]

/-- The rounded half of a sum of times in 1/16 ns that R533 forms. -/
def halfOf (x : Int) : Int := x / 2

/-- An LCTRL that returns the credits of a packet (R510, R516). -/
def creditBytes (p : Packet) : List Byte :=
  [0x30, 1] ++ (List.range 10).flatMap (fun vc => toBytes 2 (if vc = vcOf p then packetCredits p % 65536 else 0)) ++ List.replicate 10 0

/-- The packet `p` has left the receive buffer of a link, and its credits return in an LCTRL, at once where nothing waits at the port (R510). -/
def Frees (k k' : Link) (p : Packet) (now : Nat) : Prop :=
  let f := { k with rxq := k.rxq.eraseP (fun x => x == p) }
  k'.rxq = f.rxq ∧ (p ∉ k.rxq ∨ k.state ≠ 2 ∨ 5 ≤ p.cls.toNat → k' = f) ∧
  (p ∈ k.rxq → p.cls.toNat ≤ 4 → portIdle k → k.window.length < 128 → k' = afterData f (creditBytes p) now)

/-- The packet `p` has left the receive buffer of link `l` of module `m`, and the response `q` is sent; every thread stays (R510, R517). -/
def Answers (s t : State) (m : Mod) (l : Nat) (p q : Packet) : Prop :=
  t.pending = s.pending ∧ (∀ u, ctx t.mod u = ctx m u) ∧
  ∃ m1, t.mod = (fabSend m1 q).1 ∧ m1.mem = t.mod.mem ∧ m1.fab = { m.fab with links := m1.fab.links } ∧
    Frees (linkOf m l) (linkOf m1 l) p m.now ∧ ∀ j, j ≠ l → linkOf m1 j = linkOf m j

/-- The response to a request: of its type, with its tags, in class 3, or 4 for a read of a stream engine, which a request does not tell (R514, R515; log 104). -/
def reply (p : Packet) (type status : Byte) (poison : Bool) (data : List Byte) : Packet :=
  { src := 0, dst := p.src, len := BitVec.ofNat 9 data.length, rev := 0, order := 0, poison := poison, vcd := false, cls := if type == 0x11 && Config.ofStream p.src.toNat p.k.toNat p.ftag.toNat then 4 else 3,
    type := type, op := 0, status := status, k := p.k, ftag := p.ftag, replay := p.replay, traffic := p.traffic, epoch := p.epoch, job := p.job, word2 := 0, data := data }

/-- Is the packet a request of a type for this module, taken at its own epoch, while no reset of the module is under way (R16, R618)? -/
def Requests (m : Mod) (p : Packet) (type : Byte) : Prop :=
  p.type = type ∧ p.dst = m.fab.id ∧ m.fab.parts.any (fun x => x.p == p) = false ∧ m.rcv.resets.any (fun r => r.d == .module) = false ∧ staleTags m p.job.toNat p.epoch = false

/-- A module of which no part of the packet of link `l` is performed any more. -/
def partGone (m : Mod) (l : Nat) (p : Packet) : Mod := { m with fab := { m.fab with parts := m.fab.parts.eraseP (fun x => x.link == l && x.p == p) } }

/-- What a turn of `units` units does with the packet `p` of link `l`, a transfer of `n` bytes at `a` of which `done` units had been performed: the bytes of those from
`lo` on up to `hi` (R450). -/
def TurnOf (m : Mod) (l : Nat) (p : Packet) (a n units done lo hi : Nat) (last : Prop) : Prop :=
  (done = 0 ∧ m.fab.parts.any (fun x => x.p == p) = false ∨
    (0 < done ∧ ∃ x, m.fab.parts.find? (fun x => x.link == l && x.p == p) = some x ∧ x.done = done)) ∧
  done < unitCount a n ∧ (last ↔ unitCount a n ≤ done + max 1 units) ∧ lo = max a (8 * (a / 8 + done)) ∧ hi = min (a + n) (8 * (a / 8 + done + max 1 units))

/-- A part of the packet has been performed, it stays in its buffer, and `got` is what it has read (R450). -/
def PartKept (s t : State) (m : Mod) (l : Nat) (p : Packet) (done : Nat) (got : List (Byte × Bool)) : Prop :=
  t.pending = s.pending ∧ (∀ u, ctx t.mod u = ctx m u) ∧ t.mod.out = m.out ∧
  t.mod.fab = { (partGone m l p).fab with parts := (partGone m l p).fab.parts ++ [{ link := l, p := p, done := done, got := got }] }

/-- The link after it has sent a packet, where nothing else waited at its port: a codeword more is kept until it is acknowledged, and the credits are taken (R508, R510). -/
def afterSend (k : Link) (p : Packet) (now : Nat) : Link :=
  afterData { k with credits := tblPut k.credits (vcOf p) (creditOf k (vcOf p) - packetCredits p), lastClass := if 2 ≤ p.cls.toNat then p.cls.toNat else k.lastClass } (packetBytes p) now

/-- May the port of a link send the packet at once (R508, R510, R511)? -/
def portFree (k : Link) (p : Packet) : Prop :=
  portIdle k ∧ k.window.length < 128 ∧ p.cls.toNat ≤ 4 ∧ (k.mode = 2 → p.cls.toNat ≤ 1) ∧ packetCredits p ≤ creditOf k (vcOf p)

/-- An open endpoint towards a lost peer is broken with status 0x05 (R368, R532). -/
def EndpointsBreak (s t : State) (peer : BitVec 16) : Prop :=
  ∀ u e, (tblGet {} (ctx s.mod u).eps e).chPeer = some peer → (tblGet {} (ctx s.mod u).eps e).state = 2 →
    (tblGet {} (ctx t.mod u).eps e).state = 3 ∧ (tblGet {} (ctx t.mod u).eps e).credit = 0 ∧ (tblGet {} (ctx t.mod u).eps e).status = 5

/-- The flood of a type in a packet is new to the router of the link's die and to the steward (R530). -/
def NewFlood (m : Mod) (l : Nat) (p : Packet) (type : Byte) : Prop :=
  p.type = type ∧ m.pwr.aoOn = true ∧ m.pwr.down = false ∧ floodKey p ∉ (keysOf m (l % 8)).map FloodEntry.key ∧ floodKey p ∉ m.fab.stewardKeys

/-- The router of the link's die and the steward hold the key of the flood (R530). -/
def KeyHeld (t : State) (l : Nat) (p : Packet) (now : Nat) : Prop :=
  ({ key := floodKey p, at_ := now } : FloodEntry) ∈ keysOf t.mod (l % 8) ∧ floodKey p ∈ t.mod.fab.stewardKeys

/-! ## The host interface -/

/-- Of the host ports only `p` changes, to `q`; the outputs `out` leave, and the time is `at_` where that is later. -/
def PortOnly (s t : State) (p : Bool) (q : Port) (out : List Output) (at_ : Nat) : Prop :=
  t.pending = s.pending ∧ portOfHost t.mod p = q ∧ portOfHost t.mod (!p) = portOfHost s.mod (!p) ∧ t.mod.out = s.mod.out ++ out ∧ t.mod.now = timeTo s.mod at_ ∧
  (at_ ≤ s.mod.now → t.mod.tb = s.mod.tb) ∧
  t.mod = { s.mod with hq := { s.mod.hq with port0 := t.mod.hq.port0, port1 := t.mod.hq.port1 }, out := t.mod.out, now := t.mod.now, tb := t.mod.tb }

/-- The port with one of its completion rings at `k`, after it has sent its interrupt, and what leaves: the message of the vector, which is pending while it is masked (R552). -/
def afterInterrupt (q : Port) (p : Bool) (n : Nat) (k : CRing) : Port × List Output :=
  let k' := { k with since := 0, firstAt := none }
  let v := k.vector.toNat
  let x : MsixVec := tblGet {} q.msix v
  ({ q with crings := tblPut q.crings n k', msixPending := if x.masked && !q.msixPending.contains v then q.msixPending ++ [v] else q.msixPending },
   if x.masked then [] else [.msix p v x.addr x.data])

/-- The read requests of a range of host memory, each at most the port's read request size (R540). -/
def readsOf (q : Port) (p : Bool) (a n : Nat) : List Output := (piecesAt q.readSize a n).map (fun x => .hostRead p x.1 x.2)

/-- The writes of bytes of host memory, each at most the port's payload size, without relaxed ordering (R540). -/
def writesOf (q : Port) (p : Bool) (a : Nat) (d : List Byte) : List Output :=
  (piecesAt q.payload a d.length).map (fun x => .hostWrite p x.1 ((d.drop (x.1 - a)).take x.2) false false)

/-- A port that has reported an uncorrectable error through AER, by its status bit (R540; log 106). -/
def reports (q : Port) (bit : Nat) : Port := { q with aer := q.aer ||| BitVec.ofNat 32 (2 ^ bit) }

/-- The module once a port has answered a host's access with an abort or Unsupported Request, which AER reports by its bit; a poisoned write has been reported by bit 12 too. -/
def barAnswers (m : Mod) (p : Bool) (op : BarOp) (answer : Answer) (bit : Nat) : Mod :=
  let q := portOfHost m p
  let poisoned : Bool := match op with | .write _ x => x | _ => false
  let q' := reports (if poisoned then reports q 12 else q) bit
  { m with answer := answer, hq := if p then { m.hq with port1 := q' } else { m.hq with port0 := q' } }

/-- The two words of a completion entry (R573), least significant byte first. -/
def entryBytes (e : CEntry) (phase : Bool) (head : BitVec 16) : List Byte :=
  let w0 : Word := 0#12 ++ e.ring ++ e.status ++ e.tag
  let w1 : Word := (if phase then 1#1 else 0#1) ++ e.result.setWidth 47 ++ head
  ((List.range 8).map (fun i => w0.extractLsb' (8 * i) 8)) ++ (List.range 8).map (fun i => w1.extractLsb' (8 * i) 8)

/-- A descriptor as it is recorded when it is fetched (R556). -/
def fetched (m : Mod) (p : Bool) (ring : BitVec 12) (b : List Byte) (i : Nat) : Rec :=
  { port := p, ring := ring, words := bytesWords 8 (sliceBytes b (64 * i) 64), at_ := m.now, paused := pausedNow m }

/-- A Function Level Reset of port `p`, which leaves it at `q`, and the entries of its descriptors discarded (R544, R686); a configuration request is answered with `answer`. -/
def PortResets (s t : State) (p : Bool) (q : Port) (answer : Answer) : Prop :=
  t.pending = s.pending ∧ portOfHost t.mod p = q ∧ portOfHost t.mod (!p) = portOfHost s.mod (!p) ∧
  t.mod.hq.owed = s.mod.hq.owed.filter (fun e => e.port != p) ∧
  (∀ r x, tblFind s.mod.hq.recs r = some x → tblFind t.mod.hq.recs r = some (if x.port == p && x.state != .done then { x with flr := true } else x)) ∧
  t.mod = { s.mod with hq := { s.mod.hq with port0 := t.mod.hq.port0, port1 := t.mod.hq.port1, recs := t.mod.hq.recs, owed := t.mod.hq.owed }, answer := answer }

/-- The requests of the mesh of a chunk that time out: a read that has not come back, else a write of a part here. -/
def chunkWaits (c : Chunk) : List ChunkPart := if c.ready then c.parts.filter ChunkPart.onMesh else c.reads

/-! ## Descriptors, launches and images -/

/-- The started descriptor `r` of a running engine, with its opcode (R554, R557). -/
def Started (m : Mod) (r : Nat) (x : Rec) (op : Nat) : Prop := tblFind m.hq.recs r = some x ∧ x.state = .started ∧ engineOn m = true ∧ x.op = op

/-- Descriptor `r` completes with a status and a result: of the records only it changes, to `y` with them, and its entry is owed unless it is a silent OK or its port took a Function Level Reset (R544, R553, R573). -/
def Ends (s t : State) (r : Nat) (y : Rec) (status : Byte) (result : Word) : Prop :=
  t.pending = s.pending ∧ tblFind t.mod.hq.recs r = some { y with state := .done, status := status, result := result } ∧
  (∀ k, k ≠ r → tblFind t.mod.hq.recs k = tblFind s.mod.hq.recs k) ∧
  t.mod.hq.owed = (if (y.silent && status == 0) || y.flr then s.mod.hq.owed
    else s.mod.hq.owed ++ [{ port := y.port, cring := y.cring, ring := y.ring, status := status, tag := y.tag, result := result, old := false }])

/-- As `Ends`, and nothing changes but the host queue engine's state; jobs, handles and counters stay. -/
def OnlyEnds (s t : State) (r : Nat) (y : Rec) (status : Byte) (result : Word) : Prop :=
  Ends s t r y status result ∧ t.mod = { s.mod with hq := { s.mod.hq with recs := t.mod.hq.recs, owed := t.mod.hq.owed } }

/-- Every thread of a job is being reset (R616, R617). -/
def ThreadsReset (s t : State) (job : Nat) : Prop :=
  ∀ th ∈ jobThreads s.mod job, ∃ r ∈ t.mod.rcv.resets, domainIn (.thread (BitVec.ofNat 13 th)) r.d = true

/-- Descriptor `r` completes as `Ends` says; but one of a shared job that ends HUNG, POISONED or ERROR floods a ROADBLOCK, and the rest of the job is aborted with
ABORTED_REMOTE, at an epoch of its own (R616). -/
def EndsJob (s t : State) (r : Nat) (y : Rec) (status : Byte) (result : Word) : Prop :=
  let stops := (status = 8 ∨ status = 1 ∨ status = 3) ∧ isShared s.mod y.job = true ∧ staleTags s.mod y.job y.ep = false
  (¬ stops → Ends s t r y status result) ∧
  (stops → t.pending = s.pending ∧ tblFind t.mod.hq.recs r = some { y with state := .done, status := status, result := result } ∧ t.mod.fab.floodSeq = s.mod.fab.floodSeq + 1 ∧
    (∀ j, tblFind s.mod.hq.jobs y.job = some j → tblFind t.mod.hq.jobs y.job = some { j with epoch := j.epoch + 1 }) ∧ ThreadsReset s t y.job ∧
    ∀ k z, k ≠ r → tblFind s.mod.hq.recs k = some z → z.job = y.job → z.state = .recorded → ∃ w, tblFind t.mod.hq.recs k = some w ∧ w.state = .done ∧ w.status = 7)

/-- Every item of a descriptor is settled (R609). -/
def itemsSettled (m : Mod) (r k : Nat) : Option Item := (tblFind m.hq.items k).map (fun e => if e.record == r then { e with ended := true, running := false } else e)

/-- HBM answers reads of `n` bytes at job address `a` with no translation, no fence and no error. -/
def ReadsPlain (m : Mod) (xbase a : Word) (n : Nat) : Prop :=
  xbase.getLsbD 0 = false ∧ a.toNat + n ≤ 0x030000000000 ∧ disabled m 3 = false ∧ m.mem.check = [] ∧ ∀ b, fencedAt m b m.now = false

/-- The report of a check on no bundle (R588). -/
def reportOf (code : Nat) : Word := (BitVec.ofNat 25 code ++ 7#3 ++ 0#9 ++ 0#27 : BitVec 64)

/-- The EVADD packet of a remote SIGNAL (R514, R566). -/
def signalPacket (x : Rec) : Packet :=
  { src := 0, dst := BitVec.ofNat 16 (x.w 2 / 2 ^ 48), len := 8, rev := 0, order := 0, poison := false, vcd := false, cls := 1, type := 7, op := 0, status := 0,
    k := BitVec.ofNat 3 (x.w 2), ftag := 0, replay := x.tags.extractLsb' 27 2, traffic := x.tags.extractLsb' 24 3, epoch := x.tags.extractLsb' 16 8,
    job := x.tags.extractLsb' 0 16, word2 := BitVec.ofNat 64 (x.w 2 % 65536), data := toBytes 8 (x.w 3 % 2 ^ 32) }

/-- The values that a thread of a launch starts with, in context `u` at position `pos` of image `h` (R330, R562, R583). -/
def StartsAt (s t : State) (u r pos : Nat) (x : Rec) (j : Job) (h : Handle) (strict : Bool) (rnd : BitVec 2) : Prop :=
  let y := ctx t.mod u
  y.live = true ∧ y.gen = (ctx s.mod u).gen + 1 ∧ y.pc = h.codeBase + BitVec.ofNat 64 (32 * h.entry) ∧ tblGet 0 y.s 1 = BitVec.ofNat 64 pos ∧ (∀ k, k ≠ 1 → tblGet 0 y.s k = 0) ∧
  y.sup = false ∧ y.flags = 0 ∧ y.strict = strict ∧ y.rnd = rnd ∧ y.job = x.tags ∧ y.xbase = j.xbase ∧ y.prio = (x.words.getD 0 0).getLsbD 26 ∧
  y.ssp = j.stackBase + BitVec.ofNat 64 (u + 1) * j.stackBytes ∧ (h.sup = true → y.vbase = h.codeBase + BitVec.ofNat 64 (32 * h.handler)) ∧ y.bypass = h.bypass ∧ y.launch = some r ∧
  ∃ i, y.item = some i ∧ (tblFind t.mod.hq.items i).any (fun e => e.record == r && e.core == u / 4 && e.pos == pos) = true

/-! ## Resets -/

/-- A reset of `d` is under way after the command: it drains until 100 us after now, with the cause of a hang or started through DBG_RESET as said or as one that it takes over;
those that it contains are taken over, and no thread in the domain issues (R602, R604, R606). -/
def Begins (s t : State) (d : Domain) (hang dbg : Bool) : Prop :=
  t.pending = s.pending ∧
  (∃ r, t.mod.rcv.resets = s.mod.rcv.resets.filter (fun x => !domainIn x.d d) ++ [r] ∧ r.d = d ∧ r.draining = true ∧ r.drainAt = s.mod.now + 100000 ∧ r.escalated = false ∧
    r.hang = (hang || s.mod.rcv.resets.any (fun x => domainIn x.d d && x.hang)) ∧ r.dbg = (dbg || s.mod.rcv.resets.any (fun x => domainIn x.d d && x.dbg))) ∧
  ∀ u, domainHolds d u = true → threadFenced t.mod u = true

/-- No reset under way covers the domain (R606). -/
def Uncovered (m : Mod) (d : Domain) : Prop := ∀ r ∈ m.rcv.resets, domainIn d r.d = false

/-- The drain of reset `r` is over: the time, and the reset's limit from then on (R602, R604). -/
def Drained (s t : State) (r : Reset) : Prop :=
  t.pending = s.pending ∧ t.mod.now = (if outstanding s.mod r.d then timeTo s.mod r.drainAt else s.mod.now) ∧
  ∃ x ∈ t.mod.rcv.resets, x.d = r.d ∧ x.draining = false ∧ x.limitAt = t.mod.now + resetLimit r.d

/-- The context is at its reset state, but for what a reset keeps: its generation, its starts and its barrier memberships (R12, R36, R605). Of its Toll queue only releases
are left, which leave with the tokens of the bucket that the reset filled (R527). -/
def ContextReset (s t : State) (u : Nat) : Prop :=
  let y := ctx t.mod u
  y = { Ctx.reset u with gen := y.gen, starts := y.starts, barmem := (ctx s.mod u).barmem, toll := y.toll, tollAt := y.tollAt, tollQ := y.tollQ } ∧ (∀ c ∈ y.tollQ, c.kind = .rel) ∧
  (y.toll < 4 ∨ y.tollQ ≠ [] → ((ctx s.mod u).live = true ∧ ∃ e ∈ (ctx s.mod u).eps, e.2.chC0 = true) ∨ ∃ c ∈ (ctx s.mod u).tollQ, c.kind = .rel)

/-- The context that KILL resets: as `ContextReset`, but its Toll bucket and queue are as an EXIT leaves them (R527, R604). -/
def ContextKilled (s t : State) (u : Nat) : Prop :=
  let x := ctx s.mod u
  let y := ctx t.mod u
  y = { Ctx.reset u with gen := y.gen, starts := y.starts, barmem := x.barmem, toll := y.toll, tollAt := y.tollAt, tollQ := y.tollQ } ∧
  ((∀ e ∈ x.eps, e.2.chC0 = false) → y.toll = x.toll ∧ y.tollAt = x.tollAt ∧ y.tollQ = x.tollQ)

/-- HBM, the journal apart, holds what it held (R605). -/
def HbmKept (s t : State) : Prop := s.canonical → ∀ a, a < 0x02FFC0000000 → t.mod.mem.byte a = s.mod.mem.byte a

/-! ## Recovery -/

/-- Work item `i` of descriptor `x` is lost and may be replayed: neither is over (R607). -/
def LostItem (m : Mod) (i : Nat) (it : Item) (x : Rec) : Prop :=
  engineOn m = true ∧ tblFind m.hq.items i = some it ∧ it.lost = true ∧ it.ended = false ∧ it.failed = false ∧ tblFind m.hq.recs it.record = some x ∧ x.state = .running ∧ x.blame = none ∧
  mayReplay m i = true

/-- The launch of work item `i` ends for it: the item is settled, the descriptor carries a status with its thread as result, no core starts it any more, and its threads end by thread reset (R609, R615). -/
def LaunchEnds (s t : State) (i : Nat) (it : Item) (x : Rec) (status : Byte) (code : Nat) : Prop :=
  t.pending = s.pending ∧ tblFind t.mod.hq.items i = some { it with ended := true, running := false } ∧
  tblFind t.mod.hq.recs it.record = some { x with blame := some (status, BitVec.ofNat 64 (code * 2 ^ 13 + it.lostBy)), todo := [] } ∧
  ∀ u ∈ recordThreads s.mod it.record, ∃ r ∈ t.mod.rcv.resets, domainIn (.thread (BitVec.ofNat 13 u)) r.d = true

/-! ## Time and telemetry -/

/-- The units of a snapshot (R641, R642): its END, and what each enabled kind takes; the tiles' records are left out while the compute dies are off. -/
def snapshotUnits (m : Mod) : Nat :=
  let on (i n : Nat) : Nat := if m.tb.telKinds.getLsbD i then n else 0
  let tile (n : Nat) : Nat := if m.pwr.state = 2 then 0 else n
  1 + on 0 (tile (2048 * 9)) + on 1 (tile (128 * 3)) + on 2 7 + on 3 3 + on 4 13 + on 5 1

/-- The telemetry ring after `n` units more: tail moves on, modulo the ring. -/
def tailAfter (m : Mod) (n : Nat) : BitVec 26 := BitVec.ofNat 26 ((m.tb.telTail.toNat + n) % ringUnits m.tb)

/-- The 64 bytes of the TRIGGER record of an edge on a pin (R641). -/
def triggerUnit (m : Mod) (pin : BitVec 3) (rising : Bool) : List Byte :=
  let w0 : Word := 7#8 ++ 0#8 ++ (pin.setWidth 16 : BitVec 16) ++ m.tb.edgeSeq
  let w2 : Word := m.fab.id ++ 0#48
  let w4 : Word := if rising then 1 else 0
  [w0, m.tb.time, w2, 0, w4, 0, 0, 0].flatMap wordBytes

/-! ## Power -/

/-- The dwell timer of level `n` at a sample of the input: the time from which every sample has been below the level's threshold (R651). -/
def dwell (m : Mod) (mv : BitVec 16) (n : Nat) : Option Nat :=
  if mv.toNat < [48000, 46500, 45000, 43000, 40000].getD (n - 1) 0 then some ((tblFind m.pwr.below n).getD m.now) else none

/-- The leave timer of level `n`, which is due, at a sample of the input (R652). -/
def leaving (m : Mod) (mv : BitVec 16) (n : Nat) : Option Nat :=
  if n ∈ m.pwr.due ∧ n < 5 ∧ [49000, 47500, 46000, 44000].getD (n - 1) 0 ≤ mv.toNat then some ((tblFind m.pwr.above n).getD m.now) else none

/-- The module is at the highest level that is due, and the levels due are S1 to S4 (R651). -/
def LevelOk (p : Power) : Prop := (∀ n ∈ p.due, 1 ≤ n ∧ n ≤ 4 ∧ n ≤ p.level) ∧ (p.level = 0 ∨ p.level ∈ p.due)

/-- The mode of the links in a power state at a shed level: keep-alive in P2 and at S4, width 1 at S3, else full (R501, R648, R651). -/
def linkWidth (state : BitVec 2) (level : Nat) : BitVec 2 := if state = 2 ∨ 4 ≤ level then 2 else if level = 3 then 1 else 0

/-- An event record is written, or dropped with a number of its own, unless the journal is closed (R621, R657). -/
def Recorded (s t : State) (n : Nat) : Prop := t.mod.rcv.evSeq = if s.mod.hq.journalClosed then s.mod.rcv.evSeq else s.mod.rcv.evSeq + BitVec.ofNat 64 n

/-- What a loss of the tiles' power leaves of every context and cluster (R12, R36, R649). -/
def TilesLost (s t : State) : Prop :=
  (∀ u, ctx t.mod u = { Ctx.reset u with gen := (ctx s.mod u).gen, starts := (ctx s.mod u).starts, barmem := (ctx s.mod u).barmem }) ∧ t.mod.clusters = [] ∧ t.mod.accs = [] ∧ t.mod.net = []

/-- The steps of R657 have been taken: AO alone runs, the hosts are told, and of HBM stack 31 holds what it held. -/
def ModuleOff (s t : State) : Prop :=
  t.pending = s.pending ∧ t.mod.pwr.down = true ∧ t.mod.pwr.aoOn = true ∧ t.mod.pwr.level = 0 ∧ t.mod.pwr.due = [] ∧ t.mod.hq.journalClosed = true ∧ t.mod.pins.pwrFail = true ∧ TilesLost s t ∧
  (∀ l, (linkOf t.mod l).state = 0) ∧ t.mod.hq.jobs = s.mod.hq.jobs ∧ t.mod.hq.recs = s.mod.hq.recs ∧ (∀ e ∈ t.mod.hq.handles, e.2.valid = false) ∧
  (s.canonical → ∀ a, 124 * 24 * 2 ^ 30 ≤ a → a < 0x02FFC0000000 → (placeOf s.mod (a / 2 ^ 30 % 24)).getLsbD 16 = false → (placeOf s.mod (a / 2 ^ 30 % 24)).getLsbD 7 = false → t.mod.mem.byte a = s.mod.mem.byte a)

/-- Every domain, AO included, is without power: the journal is lost, fuses and boot store are kept (R12, R597, R684). -/
def AllOff (s t : State) : Prop :=
  t.pending = s.pending ∧ t.mod.pwr.aoOn = false ∧ t.mod.pwr.down = true ∧ t.mod.cores = [] ∧ t.mod.clusters = [] ∧ t.mod.accs = [] ∧ t.mod.fab = {} ∧ t.mod.tb = {} ∧ t.mod.rcv = {} ∧ t.mod.place = [] ∧
  t.mod.hq.journalLost = true ∧ t.mod.hq.jobs = [] ∧ t.mod.hq.recs = [] ∧ t.mod.hq.handles = [] ∧ t.mod.hq.owed = [] ∧
  t.mod.sec.keyHash = s.mod.sec.keyHash ∧ t.mod.sec.revoked = s.mod.sec.revoked ∧ t.mod.sec.seed = s.mod.sec.seed ∧ t.mod.sec.fuseCtr = s.mod.sec.fuseCtr ∧ t.mod.sec.pref = s.mod.sec.pref ∧ t.mod.sec.stage = 0 ∧
  (s.mod.sec.updBusy = false → t.mod.sec.store = s.mod.sec.store ∧ t.mod.sec.broken = s.mod.sec.broken)

/-- Some die, stack or steward sensor reads at or above its limit, in 1/16 degree (R638, R689). -/
def SensorAt (p : Power) (die stack : Int) : Prop := ∃ i x, tblFind p.temps i = some x ∧ ((i < 32 ∧ die ≤ x) ∨ (32 ≤ i ∧ i < 64 ∧ stack ≤ x) ∨ (i = 64 ∧ die ≤ x))

/-- An issue limit in % and a clock in MHz once `n` steps have been undone, the clock first (R658, R690). -/
def stepsUndone (n issue clk : Nat) : Nat × Nat :=
  (List.range n).foldl (fun k _ => if k.2 < 800 then (k.1, k.2 + 100) else (if k.1 < 100 then k.1 + 5 else k.1, k.2)) (issue, clk)

/-- One step down of an issue limit in % and a clock in MHz (R658). -/
def StepDown (issue clk issue' clk' : Nat) : Prop :=
  (25 < issue → issue' + 5 = issue ∧ clk' = clk) ∧ (issue ≤ 25 → issue' = issue ∧ (600 < clk → clk' + 100 = clk) ∧ (clk ≤ 600 → clk' = clk))

/-! ## Boot and attestation -/

/-- An interface takes a request, and none is outstanding on it (R674). -/
def MailFree (m : Mod) (b : Mailbox) : Prop := mailOpen m b = true ∧ ∀ r ∈ m.sec.reports, r.m ≠ b

/-- A response leaves, and nothing else changes. -/
def Replied (s : State) (b : Mailbox) (command status : Byte) (d : List Byte) : State := { s with mod := { s.mod with out := s.mod.out ++ [.reply b command status d] } }

/-- The identity key pair (R661, R670). -/
def idKey (x : Sec) : MlDsa.Key := MlDsa.keyGen (shake256 (toBytes 32 x.seed.toNat ++ [0x48, 0x4F, 0x52, 0x4F, 0x56, 0x2D, 0x49, 0x44, 0x45, 0x4E, 0x54, 0x49, 0x54, 0x59]) 32)

/-- The bytes of the control sector after the first, which holds the preference (R662; log 20). -/
def controlBytes (x : Sec) : List Byte := (List.range 0xFFF).map (fun i => (tblFind x.store (1 + i)).getD (Config.controlByte (1 + i)))

/-- The levels of the sideband pins as boundary scan captures them, the first two as given (R687; log 122). -/
def pinsCaptured (m : Mod) (first : Bool × Bool) : List Bool :=
  [first.1, first.2, !m.pins.modReset, !m.hq.port0.perst, !m.hq.port1.perst] ++ (List.range 12).map (fun b => m.pins.absent.contains (BitVec.ofNat 4 b))

/-- The four messages through a mailbox, each with its command byte and its payload length (R674). -/
def IsMessage (b : Mail) (i : Instr) (command : Byte) (length : Nat) : Prop :=
  (i = .getIdentity b ∧ command = 1 ∧ length = 0) ∨ (i = .getCert b ∧ command = 2 ∧ length = 0) ∨ (∃ mask nonce, i = .getReport b mask nonce ∧ command = 3 ∧ length = 34) ∨
  (∃ off data, i = .storeWrite b off data ∧ command = 16 ∧ length = 8 + data.length)

/-- The bytes of a report before its signature, as R675 lays them out. -/
def ReportLaid (m : Mod) (mask : BitVec 16) (nonce d : List Byte) : Prop :=
  let regs := (List.range 16).filter (fun i => mask.getLsbD i)
  d.length = 184 + 64 * regs.length ∧ sliceBytes d 0 4 = [0x41, 0x48, 0x52, 0x54] ∧ d.getD 4 0 = 1 ∧ d.getD 5 0 = 0 ∧ sliceBytes d 6 2 = toBytes 2 mask.toNat ∧ sliceBytes d 8 8 = wordBytes m.tb.time ∧ sliceBytes d 16 32 = nonce ∧
  sliceBytes d 48 64 = digest (idKey m.sec).pub ∧ (∀ c, c < 4 → d.getD (112 + c) 0 = BitVec.ofNat 8 (tblGet 0 m.sec.fuseCtr c)) ∧ sliceBytes d 116 2 = toBytes 2 m.fab.id.toNat ∧
  (∀ mf, slotManifest m.sec m.sec.slot.toNat = some mf → d.getD 118 0 = BitVec.ofNat 8 mf.keySlot) ∧ d.getD 119 0 = BitVec.ofNat 8 m.sec.slot.toNat ∧
  (∀ i, i < 16 → sliceBytes d (120 + 4 * i) 4 = toBytes 4 (tblGet 0 m.sec.mrCount i).toNat) ∧ ∀ j n, regs[j]? = some n → sliceBytes d (184 + 64 * j) 64 = mrOf m.sec n

/-- MRn has been extended with `d`, and no other measurement register has (R672). -/
def Extended (x y : Sec) (n : Nat) (d : List Byte) : Prop :=
  mrOf y n = digest (mrOf x n ++ d) ∧ tblGet 0 y.mrCount n = tblGet 0 x.mrCount n + 1 ∧ ∀ k, k ≠ n → mrOf y k = mrOf x k ∧ tblGet 0 y.mrCount k = tblGet 0 x.mrCount k

/-- The least svn of the components of a counter's class that run; 0 without one (R665, R666). -/
def LeastSvn (x : Sec) (mf : Manifest) (c v : Nat) : Prop :=
  let inClass (k : Component) : Prop := (if c = 0 then k.type = 1 else if c = 1 then k.type = 2 else 3 ≤ k.type) ∧ x.degraded.getLsbD (k.type - 1) = false
  ((∃ k ∈ mf.comps, inClass k ∧ k.svn = v) ∧ ∀ k ∈ mf.comps, inClass k → v ≤ k.svn) ∨ (v = 0 ∧ ∀ k ∈ mf.comps, ¬ inClass k)

end Sys2Proof.Machine

open Sys2Proof hiding core
open Sys2Proof.Machine

/-- For every command c and state s, the step of s with c at the front of its queue is exec of c on s with the queue's rest; the step of a state whose queue is empty passes one nanosecond of time and leaves the queue empty; in the stages ROM and FIRMWARE of a boot it ends the stage too (R667). The tick on an empty queue (log 1) and that a stage lasts one tick (log 19) are the model's choices. -/
def Obligations.StepRunsFront : Prop :=
  (∀ (c : Instr) (s : State) (rest : List Instr), s.pending = c :: rest → step s = exec c { s with pending := rest }) ∧
  (∀ s : State, s.pending = [] → s.mod.sec.stage ≠ 0 → s.mod.sec.stage ≠ 1 → step s = .next { pending := [], mod := toTime s.mod (s.mod.now + 1) }) ∧
  (∀ s : State, s.pending = [] → s.mod.pwr.aoOn = true → s.mod.pwr.down = false → s.mod.sec.stage = 0 ∨ s.mod.sec.stage = 1 →
    step s = .next { pending := [], mod := toTime { s.mod with sec := bootStage s.mod.sec, pins := { s.mod.pins with fatal := s.mod.pins.fatal || (bootStage s.mod.sec).stage == 15 } } (s.mod.now + 1) })

/-- For every command c and every state s, exec of c on s answers a next state, and that state's queue is the queue of s: no command stops the block and no command places another in the queue. That a command the state does not enable leaves the state as it is is the model's choice (log 7). -/
def Obligations.EveryCommandGoesOn : Prop :=
  ∀ (c : Instr) (s : State), ∃ t, exec c s = .next t ∧ t.pending = s.pending

/-- For every state whose waiting commands are all commands that an interface of the module can carry, a step answers a next state whose waiting commands are again all such commands. -/
def Obligations.CarriedCommandsStayCarried : Prop :=
  ∀ s t : State, s.carried → step s = .next t → t.carried

/-- For every state whose memory is in canonical form (addresses strictly rising, no entry that holds what an unlisted byte reads as), a step answers a next state whose memory is in canonical form. -/
def Obligations.CanonicalMemoryStaysCanonical : Prop :=
  ∀ s t : State, s.canonical → step s = .next t → t.canonical

/-- The state after reset has no command waiting and a memory in canonical form with nothing listed. The setup registers of the steward, of every cluster and of every core read their reset values, every thread's generator holds its seeds, and no context is live. That memory lists nothing (an unlisted byte reads 0) is the model's choice (log 2). -/
def Obligations.ResetMeetsInvariants : Prop :=
  let m := State.reset.mod
  State.reset.carried ∧ State.reset.canonical ∧ State.reset.pending = [] ∧ m.mem.cells = [] ∧
  (∀ e ∈ [(0xA00008, 0x0007D00064001000#64), (0xC00008, 0x3E800000001#64), (0xC00400, 0x1000000000000064#64), (0xD00000, 0x640000#64), (0xD00008, 0#64), (0xD00010, 0x32000641388#64), (0xD00808, 0xE0000007F#64),
    (0xE00000, 0#64), (0xE00010, 0#64), (0xE00018, 0#64), (0xF00100, 0#64), (0xF00200, 0x1907D00A020001#64), (0xF00208, 0#64), (0xF00210, 0#64), (0xF00218, 0#64)], regRead m e.1 = some e.2) ∧
  (∀ q, q < 128 → regRead m (0x10000 * q) = some 0x186A0#64 ∧ regRead m (0x10000 * q + 8) = some 0x3E8#64 ∧ regRead m (0x10000 * q + 0x20) = some 0#64) ∧
  (∀ c, c < 2048 → regRead m (coreBlock c + 8) = some 0#64 ∧ regRead m (coreBlock c + 0x10) = some 0xFF00#64 ∧ regRead m (coreBlock c + 0x18) = some 0x4000C#64 ∧ regRead m (coreBlock c + 0x20) = some 0x100#64 ∧
    (core m c).quantum = 0x10000 ∧ (core m c).wdLimit = 0x400000) ∧
  (∀ u, u < 8192 → (ctx m u).live = false ∧ (ctx m u).sr0 = 0x9E3779B97F4A7C15#64 ∧ (ctx m u).sr1 = BitVec.ofNat 64 u)

/-- For ADD, SUB, AND, OR, XOR, the shifts, MUL, MULH, DIV, REM, MOV, MOVK, SEL, BFX, BFI, CLZ and BPERM in every operand form (register, queue window, immediate): when the thread may issue in this cycle, the slot decodes without fault, waits for nothing and its guard is true, exec answers a next state in which the value of the rule is in flight for register d with the latency of R66, the bundle goes on by R173, and every other thread and core, every register of the thread, and (when the instruction prefetch walks no table) memory and the rest of the module are as the popped windows leave them. -/
def Obligations.IntegerResults : Prop :=
  ∀ (s : State) (c : Instr) (i : Issue) (d : SlotDef) (r : Spec) (n : Nat) (v : Word),
    issuer c = some i → slotNow s.mod i.thread.toNat c = some d → Issues s.mod i.thread.toNat d →
    integerResult (reads s.mod i.thread.toNat d) c = some (r, n, v) →
    Leaves c s i.thread.toNat d id [flying s.mod i.thread.toNat .s n (.s r.toNat v)]

/-- For CMPEQ, CMPNE, CMPLT, CMPLTU, CMPLE and CMPLEU in every operand form: when the bundle issues in this cycle with a true guard, exec answers a next state in which true or false is in flight for predicate d[2:0] with latency 1, by the signed, unsigned or 64-bit comparison of R123, and every other thread, core and register, memory and the rest of the module stay as they are. -/
def Obligations.CompareResults : Prop :=
  ∀ (s : State) (c : Instr) (i : Issue) (d : SlotDef) (p : Nat) (v : Bool),
    issuer c = some i → slotNow s.mod i.thread.toNat c = some d → Issues s.mod i.thread.toNat d →
    compareResult (reads s.mod i.thread.toNat d) c = some (p, v) →
    Leaves c s i.thread.toNat d id [flying s.mod i.thread.toNat .s 1 (.p p v)]

/-- For FADD, FMUL, FMA, FDIV, FSQRT, FMIN, FMAX and FCVT in both formats and every operand form: when the bundle issues in this cycle with a true guard, exec answers a next state in which the value of the arithmetic in the mode of m[3:2] (R94) is in flight for d with the latency of R66, its flags with it in STRICT mode alone, the thread's generator has advanced by one draw exactly when the rounding is stochastic, and nothing else changes. -/
def Obligations.ScalarFloatResults : Prop :=
  ∀ (s : State) (c : Instr) (i : Issue) (d : SlotDef) (r : Spec) (n : Nat) (v : FRes),
    issuer c = some i → slotNow s.mod i.thread.toNat c = some d → Issues s.mod i.thread.toNat d →
    let x := ctx s.mod i.thread.toNat
    floatResult (reads s.mod i.thread.toNat d) (scalarMode x c) (drawBits x (scalarMode x c)) c = some (r, n, v) →
    Leaves c s i.thread.toNat d (fun y => drawn y (scalarMode x c))
      ([flying s.mod i.thread.toNat .s n (.s r.toNat (BitVec.ofNat 64 v.bits))] ++ flagsFlying s.mod i.thread.toNat .s n v.fl)

/-- For FCMP with any condition and operand form: when the bundle issues in this cycle with a true guard, exec answers a next state in which predicate d[2:0] is in flight for two cycles; its value is false for EQ, LT and LE and true for UNORD when either operand is NaN, and otherwise that of the comparison; nv is in flight with it in STRICT mode alone, and nothing else changes. -/
def Obligations.ScalarFloatCompare : Prop :=
  ∀ (s : State) (i : Issue) (dbl : Bool) (p a b : Spec) (m : BitVec 4) (d : SlotDef),
    slotNow s.mod i.thread.toNat (.fcmp i dbl p a b m) = some d → Issues s.mod i.thread.toNat d →
    let k := reads s.mod i.thread.toNat d
    let f := if dbl then fp64 else fp32
    let va := readF k.x.strict f (floatOperand dbl (k.s .s a))
    let vb := readF k.x.strict f (floatOperand dbl (k.s .s b))
    let nan := isNan va || isNan vb
    let cond := m.toNat % 4
    let v : Bool := if nan then cond == 3 else if cond = 0 then cmpV va vb == 0 else if cond = 1 then decide (cmpV va vb < 0) else if cond = 2 then decide (cmpV va vb ≤ 0) else false
    let fl : Flags := if nan && (cond == 1 || cond == 2 || isSnan f va || isSnan f vb) then flNv else 0
    Leaves (.fcmp i dbl p a b m) s i.thread.toNat d id
      ([flying s.mod i.thread.toNat .s 2 (.p (p.toNat % 8) v)] ++ flagsFlying s.mod i.thread.toNat .s 2 fl)

/-- For FP64 and FP32 operands in both arithmetic modes: a finite nonzero number, a subnormal one in STRICT mode alone since FAST reads it as a zero, divided by a zero is infinity with the sign of the operands' signs and dz alone; the square root of -0 is -0 with no flag, that of a number below zero, subnormal ones of STRICT mode among them, is the canonical quiet NaN with nv alone; FMIN of zeros of different signs is -0 and FMAX of them +0; FMIN and FMAX of a NaN and a number are a NaN. -/
def Obligations.FloatSpecialCases : Prop :=
  ∀ (strict : Bool) (mode : Rnd) (r : Nat) (f : FFmt), (f = fp64 ∨ f = fp32) →
    (∀ x y : Nat, (fld x f.mb f.eb ≠ 0 ∨ (strict = true ∧ fld x 0 f.mb ≠ 0)) → fld x f.mb f.eb ≠ 2 ^ f.eb - 1 →
      (y % 2 ^ (f.width - 1) = 0 ∨ (strict = false ∧ fld y f.mb f.eb = 0)) →
      fDiv strict mode r f x y = { bits := f.signBit (bitOf x (f.width - 1) != bitOf y (f.width - 1)) + f.infBits, fl := flDz }) ∧
    fSqrt strict mode r f (f.signBit true) = { bits := f.signBit true, fl := 0 } ∧
    (∀ x : Nat, bitOf x (f.width - 1) = true → (fld x f.mb f.eb ≠ 0 ∨ (strict = true ∧ fld x 0 f.mb ≠ 0)) → (fld x f.mb f.eb ≠ 2 ^ f.eb - 1 ∨ fld x 0 f.mb = 0) →
      fSqrt strict mode r f x = { bits := f.qnan, fl := flNv }) ∧
    (∀ a b : Bool, a ≠ b → fMinMax strict false f (f.signBit a) (f.signBit b) = { bits := f.signBit true, fl := 0 } ∧
      fMinMax strict true f (f.signBit a) (f.signBit b) = { bits := 0, fl := 0 }) ∧
    (∀ (isMax : Bool) (x y : Nat), isNan (readF strict f x) = true ∨ isNan (readF strict f y) = true →
      isNan (unpack f (fMinMax strict isMax f x y).bits) = true ∧
      (fMinMax strict isMax f x y).fl = if isSnan f (readF strict f x) || isSnan f (readF strict f y) then flNv else 0)

/-- For every magnitude m times 2 to the e and every coarser spacing 2 to the q, the rounded multiple n lies next to the exact value and is the value itself when that is a multiple: toward zero takes the lower neighbour, nearest even is within half the spacing and even at a tie, and stochastic takes the upper neighbour exactly when the draw is below the discarded part in 65,536ths, rounded down. The inexact mark is set exactly when a part is discarded. -/
def Obligations.RoundingChoosesNeighbour : Prop :=
  ∀ (mode : Rnd) (draw m d : Nat) (e : Int),
    let n := (roundAt mode draw m e (e + d) false).1
    let t := m / 2 ^ d
    let rem := m % 2 ^ d
    ((roundAt mode draw m e (e + d) false).2 = decide (rem ≠ 0)) ∧ (rem = 0 → n = t) ∧ (n = t ∨ n = t + 1) ∧
    (mode = .zero → n = t) ∧
    (mode = .near → 2 * (n * 2 ^ d) ≤ 2 * m + 2 ^ d ∧ 2 * m ≤ 2 * (n * 2 ^ d) + 2 ^ d ∧ (2 * rem = 2 ^ d → n % 2 = 0)) ∧
    (mode = .stoch → (n = t + 1 ↔ draw < rem * 65536 / 2 ^ d))

/-- For VADD, VSUB, VAND, VOR, VXOR, VSHL, VSHR, VSRA, VMOV, VBCAST and VPERM at every element type and operand form: when the bundle issues in this cycle with a true guard, exec answers a next state in which a vector write is in flight for two cycles which, over any old contents, leaves each active lane with the value of the rule and each other lane kept or zeroed by m[0]; nothing else changes. -/
def Obligations.VectorIntegerResults : Prop :=
  ∀ (s : State) (c : Instr) (i : Issue) (d : SlotDef) (r : Spec) (m : BitVec 4) (w : Nat) (f : Nat → Nat),
    issuer c = some i → slotNow s.mod i.thread.toNat c = some d → Issues s.mod i.thread.toNat d →
    vectorInt (reads s.mod i.thread.toNat d) c = some (r, m, w, f) →
    ∃ data mask : Vec, Leaves c s i.thread.toNat d id [flying s.mod i.thread.toNat .v 2 (.v r.toNat data mask)] ∧
      ∀ (old : Vec) (j : Nat), j < 512 / w →
        lane w (merge old data mask) j = laneAfter ((ctx s.mod i.thread.toNat).vmask (m.toNat / 2)) (m.getLsbD 0) w (512 / w) f old j

/-- For VFADD, VFMUL, VFMA, VMIN, VMAX in the three formats and VCVT between any pair of types: when the bundle issues in this cycle with a true guard, exec answers a next state in which a vector write of the latency of R66 is in flight that leaves each active lane with its computed value, each other lane kept or zeroed by m[0]; the flags of the active lanes are in flight in STRICT mode, the generator has taken the draws of the lanes in order, and nothing else changes. -/
def Obligations.VectorFloatResults : Prop :=
  ∀ (s : State) (c : Instr) (i : Issue) (d : SlotDef) (r : Spec) (m : BitVec 4) (w n cnt : Nat) (l : List Nat) (st : RedState),
    issuer c = some i → slotNow s.mod i.thread.toNat c = some d → Issues s.mod i.thread.toNat d →
    vectorFloat (reads s.mod i.thread.toNat d) (freshDraws (ctx s.mod i.thread.toNat)) c = some (r, m, w, n, cnt, l, st) →
    ∃ data mask : Vec,
      Leaves c s i.thread.toNat d (fun y => { y with sr0 := st.s0, sr1 := st.s1 })
        ([flying s.mod i.thread.toNat .v n (.v r.toNat data mask)] ++ flagsFlying s.mod i.thread.toNat .v n st.fl) ∧
      ∀ (old : Vec) (j : Nat), j < 512 / w →
        lane w (merge old data mask) j =
          laneAfter ((ctx s.mod i.thread.toNat).vmask (m.toNat / 2)) (m.getLsbD 0) w cnt (fun j => l.getD j 0 % 2 ^ w) old j

/-- For VCMPEQ, VCMPLT, VCMPLTU and VFCMP: a mask write is in flight for two cycles which leaves the bit of an active lane with the comparison, that of an inactive lane kept or zeroed by m[0], and every bit at or above the lane count zero; flags are in flight in STRICT mode. VMOP combines two masks by its operation, VMS copies the low 32 bits of a scalar and VSM a mask, zero-extended; each with latency 2 and no lane mask. Nothing else changes. -/
def Obligations.VectorMaskResults : Prop :=
  (∀ (s : State) (c : Instr) (i : Issue) (d : SlotDef) (r : Nat) (m : BitVec 4) (n : Nat) (f : Nat → Bool) (st : RedState),
    issuer c = some i → slotNow s.mod i.thread.toNat c = some d → Issues s.mod i.thread.toNat d →
    vectorCompare (reads s.mod i.thread.toNat d) (freshDraws (ctx s.mod i.thread.toNat)) c = some (r, m, n, f, st) →
    ∃ bits on : BitVec 32,
      Leaves c s i.thread.toNat d id ([flying s.mod i.thread.toNat .v 2 (.vm r bits on)] ++ flagsFlying s.mod i.thread.toNat .v 2 st.fl) ∧
      ∀ (old : BitVec 32) (j : Nat), j < 32 →
        (merge old bits on).getLsbD j =
          if n ≤ j then false
          else if ((ctx s.mod i.thread.toNat).vmask (m.toNat / 2)).getLsbD j then f j
          else if m.getLsbD 0 then false else old.getLsbD j) ∧
  (∀ (s : State) (i : Issue) (o : VR) (d : SlotDef),
    (slotNow s.mod i.thread.toNat (.vmop i o) = some d → Issues s.mod i.thread.toNat d →
      let a := (ctx s.mod i.thread.toNat).vmask (o.a.toNat % 8)
      let b := (ctx s.mod i.thread.toNat).vmask (o.b.toNat % 8)
      let v := match o.c.toNat % 8 with
        | 0 => a &&& b
        | 1 => a ||| b
        | 2 => a ^^^ b
        | 3 => a &&& ~~~b
        | _ => ~~~a
      Leaves (.vmop i o) s i.thread.toNat d id [flying s.mod i.thread.toNat .v 2 (.vm (o.d.toNat % 8) v (BitVec.allOnes 32))]) ∧
    (slotNow s.mod i.thread.toNat (.vms i o) = some d → Issues s.mod i.thread.toNat d →
      Leaves (.vms i o) s i.thread.toNat d id
        [flying s.mod i.thread.toNat .v 2 (.vm (o.d.toNat % 8) (((reads s.mod i.thread.toNat d).s .v o.a).setWidth 32) (BitVec.allOnes 32))]) ∧
    (slotNow s.mod i.thread.toNat (.vsm i o) = some d → Issues s.mod i.thread.toNat d →
      Leaves (.vsm i o) s i.thread.toNat d id
        [flying s.mod i.thread.toNat .v 2 (.s o.d.toNat (((ctx s.mod i.thread.toNat).vmask (o.a.toNat % 8)).setWidth 64))]))

/-- For VRED when the bundle issues in this cycle with a true guard: the result of an integer operation is the sum modulo the width, the signed minimum or maximum, or the bitwise combination of the active lanes, with the value of R159 when none is active; that of a floating operation is the tree of R158. With b[5] it is in flight for scalar d, sign-extended or zero-extended; without, for lane 0 of vector d with every other lane zero. Latency 8; flags and draws as the floating steps make them; nothing else changes. -/
def Obligations.ReductionResults : Prop :=
  ∀ (s : State) (i : Issue) (o : VR) (d : SlotDef),
    slotNow s.mod i.thread.toNat (.vred i o) = some d → Issues s.mod i.thread.toNat d →
    let x := ctx s.mod i.thread.toNat
    let v := (reads s.mod i.thread.toNat d).v o.a
    let t := o.b.toNat % 8
    let op := o.c.toNat % 8
    let w := typeWidth t
    let active := (List.range (512 / w)).filter (fun j => (x.vmask (o.m.toNat / 2)).getLsbD j)
    let res : Word × RedState := match floatType t with
      | some f =>
        let r := redFloat op x.strict (rndOf x.rnd) f (fun j => (x.vmask (o.m.toNat / 2)).getLsbD j) v (freshDraws x)
        (BitVec.ofNat 64 r.1, r.2)
      | none => (laneToWord w (reduceInt op w (active.map (lane w v))), freshDraws x)
    Leaves (.vred i o) s i.thread.toNat d (fun y => { y with sr0 := res.2.s0, sr1 := res.2.s1 })
      ([flying s.mod i.thread.toNat .v 8
          (if o.b.getLsbD 5 then .s o.d.toNat res.1 else .v o.d.toNat (BitVec.ofNat 512 (res.1.toNat % 2 ^ w)) (BitVec.allOnes 512))] ++
        flagsFlying s.mod i.thread.toNat .v 8 res.2.fl)

/-- For VTR and TRV when the bundle issues in this cycle with a true guard: VTR leaves a write of row c[3:0] of tile d[2:0] in flight for two cycles that gives each active 32-bit lane the vector's, zeroes or keeps the others by m[0], and leaves the scale bytes; TRV leaves a vector write that gives each active lane the row's. A tile with an uncorrectable error reads as zeros and raises the machine check of R388. Nothing else changes. -/
def Obligations.TileRowMoves : Prop :=
  ∀ (s : State) (i : Issue) (o : VR) (d : SlotDef),
    let th := i.thread.toNat
    let x := ctx s.mod th
    let vm := x.vmask (o.m.toNat / 2)
    (slotNow s.mod th (.vtr i o) = some d → Issues s.mod th d →
      ∃ data mask : Vec,
        Leaves (.vtr i o) s th d id [flying s.mod th .v 2 (.tile (o.d.toNat % 8) [{ row := o.c.toNat % 16, data := data, mask := mask, scale := none }])] ∧
        ∀ (old : Vec) (j : Nat), j < 16 →
          lane 32 (merge old data mask) j = laneAfter vm (o.m.getLsbD 0) 32 16 (lane 32 ((reads s.mod th d).v o.a)) old j) ∧
    (slotNow s.mod th (.trv i o) = some d → Issues s.mod th d →
      ∃ data mask : Vec,
        Leaves (.trv i o) s th d (fun y => y.checked (matrixChecks s.mod th .v none [o.a.toNat % 8])) [flying s.mod th .v 2 (.v o.d.toNat data mask)] ∧
        ∀ (old : Vec) (j : Nat), j < 16 →
          lane 32 (merge old data mask) j =
            laneAfter vm (o.m.getLsbD 0) 32 16 (lane 32 (if x.tileBad.contains (o.a.toNat % 8) then 0 else x.tdata (o.a.toNat % 8) (o.c.toNat % 16))) old j)

/-- For TCFG, ACFG and ACCZ when the bundle issues in this cycle with a true guard: TCFG leaves the tile's new configuration in flight for one cycle, ACFG the new type of its accumulator, and of both members of a pair that is or becomes FP64, and ACCZ zero for all 256 cells of the accumulator, or of both members of an FP64 pair; nothing else changes, the cells under an ACFG and the type under an ACCZ with it. -/
def Obligations.MatrixConfiguration : Prop :=
  ∀ (s : State) (i : Issue) (d : SlotDef),
    let th := i.thread.toNat
    let x := ctx s.mod th
    (∀ (t : BitVec 3) (rows1 : BitVec 4) (rb1 : BitVec 6) (fmt : BitVec 4) (scale : BitVec 3),
      slotNow s.mod th (.tcfg i t rows1 rb1 fmt scale) = some d → Issues s.mod th d →
      Leaves (.tcfg i t rows1 rb1 fmt scale) s th d id
        [flying s.mod th .m 1 (.tileCfg t.toNat { rows := rows1.toNat + 1, rowBytes := rb1.toNat + 1, fmt := fmt, scale := scale.toNat })]) ∧
    (∀ (acc type : BitVec 2), slotNow s.mod th (.acfg i acc type) = some d → Issues s.mod th d →
      let ty : AccTy := match type.toNat with
        | 0 => .fp32
        | 1 => .int32
        | _ => .fp64
      Leaves (.acfg i acc type) s th d id
        (if ty = .fp64 ∨ x.aty acc.toNat = .fp64 then
          [flying s.mod th .m 1 (.accTy (2 * (acc.toNat / 2)) ty), flying s.mod th .m 1 (.accTy (2 * (acc.toNat / 2) + 1) ty)]
        else [flying s.mod th .m 1 (.accTy acc.toNat ty)])) ∧
    (∀ acc : BitVec 2, slotNow s.mod th (.accz i acc) = some d → Issues s.mod th d →
      Leaves (.accz i acc) s th d id (accFlying s.mod th 1 (x.aty acc.toNat) acc.toNat ((List.range 256).map (fun c => (c, 0)))))

/-- For every K, addend, pair of rows, mode and choice of the free values: the new cell of MMA.INT8 is the addend plus the sum of the products of the signed bytes, modulo 2^32. For MMA.MXINT8, K a multiple of 8, each group of 8 elements adds its integer sum P of products times 2^e, e = sA + sB - 254 from the scale bytes of its blocks: P x 2^e where e is not below 0, else P / 2^-e rounded toward minus infinity, and nothing where a scale byte is 0xFF; the cell is the addend with these, modulo 2^32. At scale bytes of 127 it is that of MMA.INT8. -/
def Obligations.IntegerDotProduct : Prop :=
  ∀ (strict : Bool) (seed k : Nat) (acc : BitVec 32) (a b : TRow),
    let byte (r : TRow) (i : Nat) : BitVec 8 := BitVec.ofNat 8 (r.data / 2 ^ (8 * i))
    let dot := ((List.range k).map (fun i => (byte a i).signExtend 32 * (byte b i).signExtend 32)).foldl (· + ·) acc
    mmaCell strict .int8 seed k acc.toNat a b = dot.toNat ∧
    (k % 8 = 0 →
      let group (g : Nat) : Int :=
        let p := ((List.range 8).map (fun i => (byte a (8 * g + i)).toInt * (byte b (8 * g + i)).toInt)).foldl (· + ·) 0
        let e : Int := (a.scaleOf (8 * g) : Int) + b.scaleOf (8 * g) - 254
        if a.scaleOf (8 * g) = 255 ∨ b.scaleOf (8 * g) = 255 then 0 else if 0 ≤ e then p * 2 ^ e.toNat else p.fdiv (2 ^ (-e).toNat)
      mmaCell strict .mxint8 seed k acc.toNat a b = (BitVec.ofInt 32 (((List.range (k / 8)).map group).foldl (· + ·) (acc.toNat : Int))).toNat) ∧
    (k % 8 = 0 → (∀ g, g < k / 8 → a.scaleOf (8 * g) = 127 ∧ b.scaleOf (8 * g) = 127) → mmaCell strict .mxint8 seed k acc.toNat a b = dot.toNat) ∧
    ((∀ g, 8 * g < k → a.scaleOf (8 * g) = 255 ∨ b.scaleOf (8 * g) = 255) → mmaCell strict .mxint8 seed k acc.toNat a b = acc.toNat)

/-- For MMA in every format when the bundle issues in this cycle with a true guard and the engine free: exec answers a next state in which, for every row i below the rows of tA and j below those of tB, cell 16i + j of the accumulator (of both members of an FP64 pair) is in flight for n + 6 cycles, n by R228, computed from the rows, the addend of R233 and the mode; the engine holds the MMA for n cycles; a cell that it reads with failing parity, or a bad tile, raises its machine check; nothing else changes. The engine keeps the operands with the MMA and the array its cycles, from which the poison of a failing MMA and the issue cap are found. -/
def Obligations.MatrixMultiply : Prop :=
  ∀ (s : State) (i : Issue) (fmt : BitVec 4) (acc : BitVec 2) (ta tb : BitVec 3) (d : SlotDef) (f : Fmt),
    let th := i.thread.toNat
    let x := ctx s.mod th
    slotNow s.mod th (.mma i fmt acc ta tb) = some d → Issues s.mod th d → fmtOf fmt = some f →
    let k := rowElems fmt (x.tconf ta.toNat).rowBytes
    let n := arrayCycles fmt k x.strict
    let cyc := (core s.mod (th / 4)).cycle
    let as := tileRows x ta.toNat (x.tconf ta.toNat).rows
    let bs := tileRows x tb.toNat (x.tconf tb.toNat).rows
    let add := addendOf x cyc f.accTy acc.toNat (x.tconf ta.toNat).rows (x.tconf tb.toNat).rows
    let op : MmaOp := { fmt := fmt, strict := x.strict, seed := s.mod.free, k := k, rowsA := rowPairs as, rowsB := rowPairs bs, addends := (List.range 256).map add }
    let cells : List (Nat × Nat) := (List.range (x.tconf ta.toNat).rows).flatMap (fun r => (List.range (x.tconf tb.toNat).rows).map (fun c =>
      (16 * r + c, mmaCell x.strict f (256 * s.mod.free + (16 * r + c)) k (add (16 * r + c)) (as.getD r { data := 0, scale := 0 }) (bs.getD c { data := 0, scale := 0 }))))
    LeavesCore (.mma i fmt acc ta tb) s th d
      (fun y => y.checked (matrixChecks s.mod th .m (some (f.accTy, acc.toNat, mmaReads x cyc (x.tconf ta.toNat).rows (x.tconf tb.toNat).rows)) (if ta = tb then [ta.toNat] else [tb.toNat, ta.toNat])))
      (accFlying s.mod th (n + 6) f.accTy acc.toNat cells)
      (fun co => { co with mmas := co.mmas.filter (fun r => decide (cyc < r.t + r.n + 6)) ++ [{ t := cyc, n := n, ctx := th % 4, acc := acc.toNat, ty := f.accTy, op := op }], arrayRuns := co.arrayRuns.filter (fun r => decide (64 * (cyc / 64) < r.1 + r.2)) ++ [(cyc, n)] }) 1

/-- For ACCRD and ACCST when the bundle issues in this cycle with a true guard, with the columns, element size and row bytes of R214: element j of row i is the conversion of cell 16i + col + j, or of the poison value where the parity of a cell it reads fails. ACCRD leaves the rows and the configuration (16 rows, scale 0) in flight for six cycles; ACCST leaves, for eight, one local-memory write of each row's bytes at its unit, a later row's over an earlier's, and the update of its descriptor. The draws are one for each element where the readout rounds stochastically. Nothing else changes. -/
def Obligations.AccumulatorReadout : Prop :=
  ∀ (s : State) (i : Issue) (acc : BitVec 2) (fmt : BitVec 4) (rnd : BitVec 2) (half : Bool) (d : SlotDef) (f : Fmt) (o : Readout),
    let th := i.thread.toNat
    let x := ctx s.mod th
    let ty := x.aty acc.toNat
    let mode := rndCode rnd x.rnd
    let draws := if o.rounds && decide (mode = .stoch) then drawN (16 * o.cols) x.sr0 x.sr1 else (List.replicate (16 * o.cols) 0, x.sr0, x.sr1)
    let reads (_ c : Nat) : Bool := decide (o.col ≤ c % 16 ∧ c % 16 < o.col + o.cols)
    let rows : List TRow := (List.range 16).map (fun r =>
      { data := ofLanes o.bits ((List.range o.cols).map (fun j =>
          readoutElem x.strict mode (draws.1.getD (o.cols * r + j) 0) ty f (accRead x ty acc.toNat reads (16 * r + o.col + j)))), scale := 0 })
    let g (slot : Slot) (y : Ctx) : Ctx := { y.checked (matrixChecks s.mod th slot (some (ty, acc.toNat, reads)) []) with sr0 := draws.2.1, sr1 := draws.2.2 }
    fmtOf fmt = some f → readoutOf ty f half = some o →
    (∀ t : BitVec 3, slotNow s.mod th (.accrd i t acc fmt rnd half) = some d → Issues s.mod th d →
      Leaves (.accrd i t acc fmt rnd half) s th d (g .m) (tileFlying s.mod th 6 t.toNat rows { rows := 16, rowBytes := o.rowBytes, fmt := fmt, scale := 0 })) ∧
    (∀ lm : LmOp, slotNow s.mod th (.accst i acc lm fmt rnd half) = some d → Issues s.mod th d →
      ∃ bytes, Leaves (.accst i acc lm fmt rnd half) s th d (g .t) (flying s.mod th .t 8 (.lm bytes) :: sdFlying s.mod th .t lm) ∧
        ∀ a, tblFind bytes a = lastByte (storedBytes x lm o.rowBytes 0 rows) a)

/-- For TCVT and TTR when the bundle issues in this cycle with a true guard: TCVT keeps the row count and K and leaves the rows in the new format with the row bytes and scale count that K needs, a copy of the configured bytes where the formats agree, one draw for each element where it rounds stochastically, one that converts exactly too: that is log 14, which follows R287; R244 says that an element converted exactly takes no draw. TTR leaves K rows whose element i of row k is element k of row i, in the same format with scale 0. A bad source tile reads as zeros and raises its machine check; nothing else changes. -/
def Obligations.TileConversion : Prop :=
  ∀ (s : State) (i : Issue) (td ta : BitVec 3) (d : SlotDef) (f : Fmt),
    let th := i.thread.toNat
    let x := ctx s.mod th
    let c := x.tconf ta.toNat
    let k := rowElems c.fmt c.rowBytes
    let src := tileRows x ta.toNat c.rows
    let chk := matrixChecks s.mod th .m none [ta.toNat]
    fmtOf c.fmt = some f →
    (∀ (fmt : BitVec 4) (rnd : BitVec 2) (g : Fmt), fmtOf fmt = some g →
      slotNow s.mod th (.tcvt i td ta fmt rnd) = some d → Issues s.mod th d →
      let mode := rndCode rnd x.rnd
      let cfg : TileCfg := { rows := c.rows, rowBytes := (k * g.bits + 7) / 8, fmt := fmt, scale := g.scaleFor ((k * g.bits + 7) / 8) }
      let draws := if f ≠ g ∧ mode = .stoch then drawN (c.rows * k) x.sr0 x.sr1 else (List.replicate (c.rows * k) 0, x.sr0, x.sr1)
      Leaves (.tcvt i td ta fmt rnd) s th d (fun y => { y.checked chk with sr0 := draws.2.1, sr1 := draws.2.2 })
        (tileFlying s.mod th 8 td.toNat
          (if f = g then src.map (fun r => { data := r.data % 2 ^ (8 * c.rowBytes), scale := r.scale % 2 ^ (8 * c.scale) })
          else cvtRows x.strict mode f g k draws.1 src) cfg)) ∧
    (slotNow s.mod th (.ttr i td ta) = some d → Issues s.mod th d →
      Leaves (.ttr i td ta) s th d (fun y => y.checked chk)
        (tileFlying s.mod th 8 td.toNat
          ((List.range k).map (fun j => { data := ofLanes f.bits (src.map (fun r => elemOf f r.data j)), scale := 0 }))
          { rows := k, rowBytes := c.rows * (f.bits / 8), fmt := c.fmt, scale := 0 }))

/-- When the bundle issues in this cycle with a true guard and no granule of the core's LM and SDM is marked: TLL leaves each configured row and its scale bytes in flight for half the rows, rounded up; VLD the 64 bytes of its unit for three cycles; LDS the extended bytes for two; TSL one write of the configured bytes for half the rows, VST of 64 bytes for two cycles, STS of the form's low bytes for one; mode 0b10 steps its descriptor's offset modulo 8,192 in the next cycle; nothing else changes. -/
def Obligations.LocalMemoryAccess : Prop :=
  ∀ (s : State) (i : Issue) (d : SlotDef),
    let th := i.thread.toNat
    let x := ctx s.mod th
    let co := th / 4
    CleanSram s.mod co →
    (∀ (t : BitVec 3) (o : LmOp), slotNow s.mod th (.tll i t o) = some d → Issues s.mod th d →
      let c := x.tconf t.toNat
      Leaves (.tll i t o) s th d id (flying s.mod th .l ((c.rows + 1) / 2) (.tile t.toNat ((List.range c.rows).map (fun r =>
        { row := r, data := vecOf (unitBytes s.mod co (lmUnit x o r) 0 c.rowBytes), mask := BitVec.allOnes 512,
          scale := some (BitVec.ofNat 32 (ofBytes (unitBytes s.mod co (scaleAt x o c.rows) (4 * r) c.scale))) }))) :: sdFlying s.mod th .l o)) ∧
    (∀ (r : Spec) (o : LmOp), slotNow s.mod th (.vld i r o) = some d → Issues s.mod th d →
      Leaves (.vld i r o) s th d id
        (flying s.mod th .l 3 (.v r.toNat (vecOf (unitBytes s.mod co (lmUnit x o 0) 0 64)) (BitVec.allOnes 512)) :: sdFlying s.mod th .l o)) ∧
    (∀ (t : BitVec 3) (o : LmOp), slotNow s.mod th (.tsl i t o) = some d → Issues s.mod th d →
      let c := x.tconf t.toNat
      ∃ bytes, Leaves (.tsl i t o) s th d (fun y => y.checked (matrixChecks s.mod th .t none [t.toNat]))
          (flying s.mod th .t ((c.rows + 1) / 2) (.lm bytes) :: sdFlying s.mod th .t o) ∧
        ∀ a, tblFind bytes a = lastByte (storedBytes x o c.rowBytes c.scale (tileRows x t.toNat c.rows)) a) ∧
    (∀ (v : Spec) (o : LmOp), slotNow s.mod th (.vst i v o) = some d → Issues s.mod th d →
      Leaves (.vst i v o) s th d id
        (flying s.mod th .t 2 (.lm ((List.range 64).map (fun j => (64 * lmUnit x o 0 + j, (x.vreg v.toNat).extractLsb' (8 * j) 8)))) :: sdFlying s.mod th .t o)) ∧
    (∀ (form : LoadForm) (r a : Spec) (imm : BitVec 16), slotNow s.mod th (.lds i form r a imm) = some d → Issues s.mod th d →
      let at_ := ((reads s.mod th d).s .s a + imm.signExtend 64).toNat % 65536
      Leaves (.lds i form r a imm) s th d id
        [flying s.mod th .s 2 (.s r.toNat (extendLoad form (ofBytes ((List.range (loadSize form)).map (fun j => s.mod.mem.byte (sdmAddr co (at_ + j)))))))]) ∧
    (∀ (form : StoreForm) (r a : Spec) (imm : BitVec 16), slotNow s.mod th (.sts i form r a imm) = some d → Issues s.mod th d →
      let k := reads s.mod th d
      let at_ := (k.s .s a + imm.signExtend 64).toNat % 65536
      Leaves (.sts i form r a imm) s th d id
        [flying s.mod th .s 1 (.sdm ((List.range (storeSize form)).map (fun j => (at_ + j, byteOf (k.s .s r) j))))])

/-- For LDG in every form and VLDG when the bundle issues in this cycle with a true guard: exec answers a next state in which the pending bit of register d is set, one load of the form's size from the job address a + imm (R138) is under way for d, performed at once by a valid line of the data cache and waiting for a fill where HBM is missed, the bundle goes on, and no other thread, core or register changes, nor, where no line or granule is marked, any byte of memory. -/
def Obligations.GlobalLoadsIssue : Prop :=
  ∀ (s : State) (i : Issue) (r a : Spec) (imm : BitVec 16) (d : SlotDef),
    let th := i.thread.toNat
    let ja (sl : Slot) : Word := (reads s.mod th d).s sl a + imm.signExtend 64
    (∀ form : LoadForm, slotNow s.mod th (.ldg i form r a imm) = some d → Issues s.mod th d →
      ∃ b t, LeavesAccess (.ldg i form r a imm) s th d (passed s.mod th d (fun y => { y with pendS := y.pendS ||| BitVec.ofNat 32 (2 ^ r.toNat) })) id [b] t ∧
        LoadBegins s.mod t.mod (th / 4)
          { mkAccess s.mod th .s .load (ja .s) (leadsTo s.mod th (ja .s)) (loadSize form) with dest := .s r.toNat form } b) ∧
    (slotNow s.mod th (.vldg i r a imm) = some d → Issues s.mod th d →
      ∃ b t, LeavesAccess (.vldg i r a imm) s th d (passed s.mod th d (fun y => { y with pendV := y.pendV ||| BitVec.ofNat 32 (2 ^ r.toNat) })) id [b] t ∧
        LoadBegins s.mod t.mod (th / 4) { mkAccess s.mod th .l .load (ja .l) (leadsTo s.mod th (ja .l)) 64 with dest := .v r.toNat } b)

/-- For STG in every form and VSTG when the bundle issues in this cycle with a true guard: exec answers a next state in which one store of the register's low bytes, or of the vector's 64, to the job address a + imm is under way; a VSTG to its own STRM_SUBMIT address takes one descriptor credit; a valid, unpoisoned line of the core's data cache that an STG hits takes its bytes, a poisoned one or one whose tag parity fails is dropped, and a fill of the line in flight merges them; and no other thread, core or register changes, nor, where no line or granule is marked, any byte of memory. -/
def Obligations.GlobalStoresIssue : Prop :=
  ∀ (s : State) (i : Issue) (r a : Spec) (imm : BitVec 16) (d : SlotDef),
    let th := i.thread.toNat
    let ja (sl : Slot) : Word := (reads s.mod th d).s sl a + imm.signExtend 64
    (∀ form : StoreForm, slotNow s.mod th (.stg i form r a imm) = some d → Issues s.mod th d →
      let b : Access := { mkAccess s.mod th .s .store (ja .s) (leadsTo s.mod th (ja .s)) (storeSize form) with
        data := lowBytes (storeSize form) ((reads s.mod th d).s .s r) }
      ∃ t, LeavesAccess (.stg i form r a imm) s th d (passed s.mod th d id) id [b] t ∧
        (b.peer = none → isHbm b.addr = true →
          (∀ l, dcFind s.mod (th / 4) (lineOf b.addr) = some l → l.valid = true → l.poison = false → l.err.contains .tag = false →
            ∃ e, dcFind t.mod (th / 4) (lineOf b.addr) = some { l with data := patchBytes l.data (b.addr % 64) (b.data.map Prod.fst), err := e }) ∧
          (∀ l, dcFind s.mod (th / 4) (lineOf b.addr) = some l → (l.valid = true ∧ l.poison = true) ∨ l.err.contains .tag = true →
            LineDropped s.mod t.mod (th / 4) (lineOf b.addr)) ∧
          (∀ f, fillOpen s.mod (th / 4) (lineOf b.addr) = some f → ∃ more, fillOpen t.mod (th / 4) (lineOf b.addr) = some { f with merged := f.merged ++ more } ∧
            more.map DMerge.data = b.data.map Prod.fst))) ∧
    (slotNow s.mod th (.vstg i r a imm) = some d → Issues s.mod th d →
      let x := leadsTo s.mod th (ja .t)
      let own : Bool := x == .here (0x700000000000 + 0x10000 * (th / 64) + 0x1000 + 0x800 * (th / 4 % 16) + 0x100 + 0x100 * (th % 4))
      ∃ t, LeavesAccess (.vstg i r a imm) s th d (passed s.mod th d (fun y => if own then { y with outstanding := y.outstanding + 1 } else y)) id
        [{ mkAccess s.mod th .t .vstore (ja .t) x 64 with
            data := (List.range 64).map (fun j => (((ctx s.mod th).vreg r.toNat).extractLsb' (8 * j) 8, false)) }] t)

/-- For AMO in every form and operation and PUT of every length when the bundle issues in this cycle with a true guard: AMO sets the pending bit of d, makes one atomic with the operation, the low bytes of b and c, at the address in a, drops the data of the line from the core's cache and keeps a fill of it in flight from installing (the model's choice, log 88); PUT makes one write, or two where it crosses a 256-byte boundary, numbered 0 and 1, of the local-memory bytes with their poison, those of an uncorrectable granule zero and SRAM_UE raised for it (read so by the model, log 98). No other thread, core or register changes, nor, where no line or granule is marked, any byte of memory. -/
def Obligations.AtomicsAndPutsIssue : Prop :=
  ∀ (s : State) (i : Issue) (d : SlotDef),
    let th := i.thread.toNat
    let k := reads s.mod th d
    (∀ (form : AmoForm) (r a b c : Spec) (m : BitVec 4), slotNow s.mod th (.amo i form r a b c m) = some d → Issues s.mod th d →
      let ja := k.s .s a
      let x := leadsTo s.mod th ja
      ∃ t, LeavesAccess (.amo i form r a b c m) s th d (passed s.mod th d (fun y => { y with pendS := y.pendS ||| BitVec.ofNat 32 (2 ^ r.toNat) })) id
        [{ mkAccess s.mod th .s .amo ja x (amoSize form) with
            op := m, data := lowBytes (amoSize form) (k.s .s b), cmp := k.s .s c, dest := .s r.toNat (amoLoad form) }] t ∧
        ∀ p, x = .here p → LineDropped s.mod t.mod (th / 4) (lineOf p) ∧ FillClosed s.mod t.mod (th / 4) (lineOf p)) ∧
    (∀ (r l : Spec) (len1 : BitVec 8), slotNow s.mod th (.put i r l len1) = some d → Issues s.mod th d →
      let n := len1.toNat + 1
      let da := k.s .t r
      let room := 256 - da.toNat % 256
      let from_ := (k.s .t l).toNat % 2 ^ 19
      let at_ (j : Nat) : Nat := lmAddr (th / 4) (from_ + j)
      let byte (j : Nat) : Byte × Bool :=
        if granuleOf s.mod (at_ j) = some .ue then (0, false) else (s.mod.mem.byte (at_ j), decide (granuleOf s.mod (at_ j) = some .poison))
      let chk : List Flt := if (List.range n).any (fun j => decide (granuleOf s.mod (at_ j) = some .ue)) then [machineCheck 0x32 (slotNum .t) 0 (ctx s.mod th).pc 0] else []
      let part (step off len : Nat) : Access :=
        { mkAccess s.mod th .t .put (da + BitVec.ofNat 64 off) (leadsTo s.mod th (da + BitVec.ofNat 64 off)) len with
          id := s.mod.nextAcc + step, step := step, data := (List.range len).map (fun j => byte (off + j)) }
      ∃ t, LeavesAccess (.put i r l len1) s th d (passed s.mod th d (fun y => y.checked chk)) id
        (if n ≤ room then [part 0 0 n] else [part 0 0 room, part 1 room (n - room)]) t)

/-- For TLG and TSG when the bundle issues in this cycle with a true guard: the thread holds in the instruction at its bundle with no step completed, what it read at issue and the bundle that follows kept (kept at the first issue: log 84, DEDUCED), its core chooses a thread (R68), and one access for each step is under way (all made at issue: log 50, DEDUCED): step i to base + i × stride, the configured bytes of row i, and the scale block of 4 × rows bytes last where the tile has scales; those of TSG carry the tile's bytes. A bad tile raises its check on TSG. A tile with no step to make is passed over at once. No other thread or core changes, nor, where no line or granule is marked, any byte of memory. -/
def Obligations.TileGlobalIssue : Prop :=
  ∀ (s : State) (i : Issue) (t : BitVec 3) (base stride : Spec) (d : SlotDef),
    let th := i.thread.toNat
    let x := ctx s.mod th
    let c := x.tconf t.toNat
    let k := reads s.mod th d
    let steps := c.rows + (if c.scale = 0 then 0 else 1)
    let held (kind : HoldKind) (l : List Flt) : Ctx :=
      if steps = 0 then issued x (follows s.mod th).1 (loopFlying s.mod th)
      else { x.checked l with waiting := none, stall := 0, resume := none, qcount := 0,
                              hold := some { kind := kind, bundle := x.pc, steps := 0, redirect := none, edge := some (follows s.mod th), byCrw := false, got := [], failed := none, wroteAt := none } }
    let turn (k : Core) : Core := if steps = 0 then k else { k with idle := true }
    let part (sl : Slot) (kind : AccKind) (j : Nat) : Access :=
      let ja := k.s sl base + BitVec.ofNat 64 j * k.s sl stride
      { mkAccess s.mod th sl kind ja (leadsTo s.mod th ja) (if j < c.rows then c.rowBytes else 4 * c.rows) with id := s.mod.nextAcc + j, step := j }
    (slotNow s.mod th (.tlg i t base stride) = some d → Issues s.mod th d →
      ∃ u, LeavesAccess (.tlg i t base stride) s th d (held (.tlg t.toNat c (k.s .l base) (k.s .l stride)) []) turn
        ((List.range steps).map (fun j => { part .l .tlgRow j with dest := .tile t.toNat j })) u) ∧
    (slotNow s.mod th (.tsg i t base stride) = some d → Issues s.mod th d →
      let row (r : Nat) : TRow := if x.tileBad.contains t.toNat then { data := 0, scale := 0 } else { data := (x.tdata t.toNat r).toNat, scale := (x.tsc t.toNat r).toNat }
      let bytes (j : Nat) : List Byte :=
        if j < c.rows then (List.range c.rowBytes).map (fun q => BitVec.ofNat 8 ((row j).data / 2 ^ (8 * q)))
        else (List.range (4 * c.rows)).map (fun q => if q % 4 < c.scale then BitVec.ofNat 8 ((row (q / 4)).scale / 2 ^ (8 * (q % 4))) else 0)
      ∃ u, LeavesAccess (.tsg i t base stride) s th d (held (.tsg t.toNat c (k.s .t base) (k.s .t stride)) (matrixChecks s.mod th .t none [t.toNat])) turn
        ((List.range steps).map (fun j => { part .t .tsgRow j with data := (bytes j).map (fun b => (b, false)) })) u)

/-- For CPRE and CINV when the bundle issues in this cycle with a true guard: where the address is no remote one and is translated to HBM of this module, CPRE leaves the line's data present in the core's data cache or a fill of it in flight that will install it, and CINV drops the data of the line it finds there, keeps a lock, and keeps the fill of it in flight from installing; the thread's registers, every other thread and core and, where no line or granule is marked, all memory stay. -/
def Obligations.CacheInstructions : Prop :=
  ∀ (s : State) (i : Issue) (a : Spec) (imm : BitVec 16) (d : SlotDef),
    let th := i.thread.toNat
    let x := leadsTo s.mod th ((reads s.mod th d).s .s a + imm.signExtend 64)
    (slotNow s.mod th (.cpre i a imm) = some d → Issues s.mod th d →
      ∃ t, LeavesAccess (.cpre i a imm) s th d (passed s.mod th d id) id [] t ∧
        ∀ p, x = .here p → isHbm p = true → ((reads s.mod th d).s .s a + imm.signExtend 64).getLsbD 63 = false →
          (∃ l, dcFind t.mod (th / 4) (lineOf p) = some l ∧ l.valid = true) ∨ (fillOpen t.mod (th / 4) (lineOf p)).isSome = true) ∧
    (slotNow s.mod th (.cinv i a imm) = some d → Issues s.mod th d →
      ∃ t, LeavesAccess (.cinv i a imm) s th d (passed s.mod th d id) id [] t ∧
        ∀ p, x = .here p → LineDropped s.mod t.mod (th / 4) (lineOf p) ∧ FillClosed s.mod t.mod (th / 4) (lineOf p))

/-- For every slot instruction that decodes without a fault, in a thread that may issue in this cycle: when its guard is false, the bundle issues, no queue window is popped and nothing of the slot takes effect; the thread goes to the next bundle by R173, and every register, thread, core and all memory stay. A NOP of any slot whose guard is true does the same. -/
def Obligations.GuardedOffSlotsDoNothing : Prop :=
  (∀ (s : State) (c : Instr) (i : Issue) (d : SlotDef),
    issuer c = some i → slotNow s.mod i.thread.toNat c = some d → Settled s.mod i.thread.toNat →
    decodeFault (ctx s.mod i.thread.toNat) [] [d] = none → guardOn d.guard (ctx s.mod i.thread.toNat) = false →
    ∃ t, exec c s = .next t ∧ t.pending = s.pending ∧
      OnlyThread s.mod t.mod i.thread.toNat (issued (ctx s.mod i.thread.toNat) (follows s.mod i.thread.toNat).1 (loopFlying s.mod i.thread.toNat))) ∧
  (∀ (s : State) (i : Issue) (sl : Slot) (d : SlotDef),
    slotNow s.mod i.thread.toNat (.nop i sl) = some d → Issues s.mod i.thread.toNat d → Leaves (.nop i sl) s i.thread.toNat d id [])

/-- For BR, CALL, BRI and CALLI when the bundle issues in this cycle with a true guard: the thread's next bundle is at the bundle's address plus 32 times the signed offset, or at the address in a; the core issues nothing before the third cycle; no back edge is taken; CALL and CALLI put the address of the bundle after them in flight for d for one cycle; nothing else changes. -/
def Obligations.BranchesRedirect : Prop :=
  ∀ (s : State) (i : Issue) (d : SlotDef),
    let th := i.thread.toNat
    let pc := (ctx s.mod th).pc
    let k := reads s.mod th d
    (∀ off : BitVec 28, slotNow s.mod th (.br i off) = some d → Issues s.mod th d → Branches (.br i off) s th d (pc + off.signExtend 64 * 32) []) ∧
    (∀ (r : Spec) (off : BitVec 22), slotNow s.mod th (.call i r off) = some d → Issues s.mod th d →
      Branches (.call i r off) s th d (pc + off.signExtend 64 * 32) [flying s.mod th .s 1 (.s r.toNat (pc + 32))]) ∧
    (∀ a : Spec, slotNow s.mod th (.bri i a) = some d → Issues s.mod th d → Branches (.bri i a) s th d (k.s .s a) []) ∧
    (∀ r a : Spec, slotNow s.mod th (.calli i r a) = some d → Issues s.mod th d →
      Branches (.calli i r a) s th d (k.s .s a) [flying s.mod th .s 1 (.s r.toNat (pc + 32))])

/-- For LOOP and LOOPI when the bundle at address A issues in this cycle with a true guard: with a count n of at least 1, the start A + 32, the end A + 32 × end and the count n - 1 of the level are in flight for one cycle and the thread falls through; with a count of 0 no register is written and the next bundle is at A + 32 × end + 32 as after a taken branch; nothing else changes. -/
def Obligations.LoopsStart : Prop :=
  ∀ (s : State) (i : Issue) (lvl : BitVec 2) (d : SlotDef),
    let th := i.thread.toNat
    let pc := (ctx s.mod th).pc
    let goes (c : Instr) (n e : Nat) : Prop :=
      (n ≠ 0 → Leaves c s th d id
        [flying s.mod th .s 1 (.lps lvl.toNat (pc + 32)), flying s.mod th .s 1 (.lpe lvl.toNat (pc + BitVec.ofNat 64 (32 * e))),
         flying s.mod th .s 1 (.lpc lvl.toNat (BitVec.ofNat 32 (n - 1)) false)]) ∧
      (n = 0 → Branches c s th d (pc + BitVec.ofNat 64 (32 * e + 32)) [])
    (∀ (a : Spec) (e : BitVec 20), slotNow s.mod th (.loop i a lvl e) = some d → Issues s.mod th d →
      goes (.loop i a lvl e) (((reads s.mod th d).s .s a).setWidth 32).toNat e.toNat) ∧
    (∀ (cnt : BitVec 12) (e : BitVec 14), slotNow s.mod th (.loopi i cnt lvl e) = some d → Issues s.mod th d → goes (.loopi i cnt lvl e) cnt.toNat e.toNat)

/-- For every thread state and address E: where the innermost active level does not end at E the next bundle is E + 32 and no loop register changes; where the active levels from k + 1 up to the innermost end at E with a count of zero, and level k ends at E with a nonzero count, the next bundle is the start of level k, whose count is decremented, and the end registers of the inner levels become zero; where none of the levels that end at E still counts, the next bundle is E + 32 and their end registers become zero. -/
def Obligations.BackEdgeRule : Prop :=
  ∀ (x : Ctx) (E : Word) (n : Nat),
    let ends (j : Nat) : Bool := tblGet 0 x.lpe j == E
    let spent (j : Nat) : Bool := tblGet 0 x.lpc j == 0
    let zeroed (lo hi : Nat) : List Write := ((List.range (hi - lo)).map (fun j => Write.lpe (hi - 1 - j) 0))
    ((∀ j, j + 1 = n → ends j = false) → backEdge x E n = (E + 32, [])) ∧
    (∀ k, k < n → (∀ j, k < j → j < n → ends j = true ∧ spent j = true) → ends k = true → spent k = false →
      backEdge x E n = (tblGet 0 x.lps k, zeroed (k + 1) n ++ [.lpc k (tblGet 0 x.lpc k - 1) false])) ∧
    (∀ k, k ≤ n → (∀ j, k ≤ j → j < n → ends j = true ∧ spent j = true) → (∀ j, j + 1 = k → ends j = false) →
      backEdge x E n = (E + 32, zeroed k n))

/-- When the bundle issues in this cycle with a true guard: CRR puts the register's value at issue in flight for d for one cycle; CRW puts the write of the register in flight for one cycle, stride descriptors within their fields, and a zero written to the end register of the innermost active level suppresses the back edge; nothing else changes. RTE notes the frame's address, the stack pointer, leaves the thread at the bundle with every register, and has its core choose a thread; outside double-fault state it makes one load of the frame, or notes why the stack pointer's address has none (R319). -/
def Obligations.ControlRegisterAccess : Prop :=
  ∀ (s : State) (i : Issue) (d : SlotDef),
    let th := i.thread.toNat
    let x := ctx s.mod th
    (∀ (r : Spec) (crn : BitVec 12), slotNow s.mod th (.crr i r crn) = some d → Issues s.mod th d →
      Leaves (.crr i r crn) s th d id [flying s.mod th .s 1 (.s r.toNat (crRead s.mod th crn.toNat))]) ∧
    (∀ (r : Spec) (crn : BitVec 12), slotNow s.mod th (.crw i r crn) = some d → Issues s.mod th d →
      let v := (reads s.mod th d).s .s r
      let w := flying s.mod th .s 1 (crwLanding crn.toNat v)
      ∃ t, exec (.crw i r crn) s = .next t ∧ t.pending = s.pending ∧
        OnlyThread (popped s.mod th d) t.mod th
          (if leavesLoop x crn.toNat v then issued (ctx (popped s.mod th d) th) (x.pc + 32) [w]
          else issued (ctx (popped s.mod th d) th) (follows s.mod th).1 (loopFlying s.mod th ++ [w]))) ∧
    (slotNow s.mod th (.rte i) = some d → Issues s.mod th d →
      let target := (frameTarget s.mod th x.ssp x.ssp).2
      let y : Ctx := { x with
        waiting := none, stall := 0, resume := none, qcount := 0, rteAt := some x.ssp
        rteBad := match x.dbl, target with
          | false, .inr n => some n
          | _, _ => x.rteBad }
      ∃ l t, LeavesAccess (.rte i) s th d y (fun k => { k with idle := true }) l t ∧
        match x.dbl, target with
        | false, .inl b => ∃ a, l = [a] ∧ LoadBegins s.mod t.mod (th / 4) (mkAccess s.mod th .s .frameRead x.ssp (.here b) 64) a
        | _, _ => l = [])

/-- For every thread and value: what a CRW lands in cr.srseed0, cr.srseed1, cr.epc, cr.ssp, cr.vbase, cr.tprog, cr.prio, cr.quantum, cr.xbase and cr.share is what a CRR reads afterwards, within the register's writable bits; cr.mask takes 0 to 4 and keeps its value for 5 to 7; a rnd of 0b11 in cr.arith leaves rnd; the flags and haz are cleared by writing one; and a write of cr.thread, cr.cause, cr.dfsp, cr.time or cr.job changes nothing. cr.waitdog takes its limit and keeps why. As a CRW of a loop register or a stride descriptor lands, a CRR reads the start and end registers whole, the count registers in 32 bits, and the descriptors within their fields. -/
def Obligations.ControlRegisterWritesRead : Prop :=
  ∀ (m : Mod) (t : Nat) (v : Word),
    let after (n : Nat) : Word := crRead (crLand m t n v) t n
    after 3 = v ∧ after 4 = v ∧ after 7 = (v &&& ~~~0x1F#64) ∧ after 8 = v ∧ after 0xA = (v &&& ~~~0x7FF#64) ∧
    after 0xB = (v &&& 0xC3FFFFFFFFFFFFFF#64) ∧ after 0xC = (v &&& 1#64) ∧ after 0xD = (v.setWidth 32).setWidth 64 ∧
    after 0x11 = (v &&& 0x7FFFFFF00001#64) ∧ after 0x12 = (v &&& 0x1007F01FF#64) ||| (if (core m (t / 4)).conf then 0x1000000000000#64 else 0) ∧
    (v.toNat % 8 ≤ 4 → after 5 = v &&& 7#64) ∧ (4 < v.toNat % 8 → crLand m t 5 v = m) ∧
    (let y := ctx (crLand m t 2 v) t
     y.strict = v.getLsbD 0 ∧ (v.extractLsb' 4 2 = 3 → y.rnd = (ctx m t).rnd) ∧ (v.extractLsb' 4 2 ≠ 3 → y.rnd = v.extractLsb' 4 2) ∧
       y.flags = (ctx m t).flags &&& ~~~(v.extractLsb' 16 5)) ∧
    ((ctx (crLand m t 0 v) t).haz = ((ctx m t).haz && !v.getLsbD 15)) ∧
    (∀ n ∈ [1, 6, 9, 0xF, 0x10], crLand m t n v = m) ∧
    after 0xE = (crRead m t 0xE &&& 0xFFFF000000000000#64) ||| (v.setWidth 32).setWidth 64 ∧
    (∀ (n : Nat) (l : Landing), 0x20 ≤ n → n < 0x40 → l.w = crwLanding n v →
      crRead (landWrite m t l) t n = if n < 0x28 then v else if n < 0x2C then (v.setWidth 32).setWidth 64 else if n < 0x30 then crRead m t n else v &&& 0x1FFF1FFF1FFF#64)

/-- When the bundle issues in this cycle with a true guard: a user-defined opcode of the S or the V slot puts one result in flight, of the kind and with the declared latency of its entry as it stands in this cycle, with its flags in STRICT mode, and changes nothing of its thread but that and the generator; under the example entry of R197 the result is (a × b) XOR ((a × b) >> 29) after five cycles. WDT has the 96 bytes it read stand as entry b of the table from the 24th cycle on, and changes nothing of its thread. -/
def Obligations.UserDefinedOpcodes : Prop :=
  ∀ (s : State) (i : Issue) (d : SlotDef),
    let th := i.thread.toNat
    let co := core s.mod (th / 4)
    (∀ (vslot : Bool) (e : BitVec 5) (o : VR), slotNow s.mod th (.userDefinedOpcode i vslot e o) = some d → Issues s.mod th d →
      let ent := entryAt co (32 * (if vslot then 1 else 0) + e.toNat) co.cycle
      let sl : Slot := if vslot then .v else .s
      ∃ w fl a b, LeavesCore (.userDefinedOpcode i vslot e o) s th d (fun y => { y with sr0 := a, sr1 := b })
          (flying s.mod th sl (entryLat ent) w :: flagsFlying s.mod th sl (entryLat ent) fl) id 0 ∧
        (match w with
          | .s r _ => vslot = false ∧ entryKind ent ≠ 1 ∧ r = o.d.toNat
          | .p r _ => vslot = false ∧ entryKind ent = 1 ∧ r = o.d.toNat % 8
          | .v r _ _ => vslot = true ∧ entryKind ent ≠ 1 ∧ r = o.d.toNat
          | .vm r _ _ => vslot = true ∧ entryKind ent = 1 ∧ r = o.d.toNat % 8
          | _ => False)) ∧
    (∀ (e : BitVec 5) (o : VR), slotNow s.mod th (.userDefinedOpcode i false e o) = some d → Issues s.mod th d →
      entryAt co e.toNat co.cycle = hashEntry →
      let x := (reads s.mod th d).s .s o.a * (reads s.mod th d).s .s o.b
      Leaves (.userDefinedOpcode i false e o) s th d id [flying s.mod th .s 5 (.s o.d.toNat (x ^^^ (x >>> 29)))]) ∧
    (∀ a b : Spec, slotNow s.mod th (.wdt i a b) = some d → Issues s.mod th d → CleanSram s.mod (th / 4) →
      let k := reads s.mod th d
      let ent := (List.range 96).map (fun j => s.mod.mem.byte (lmAddr (th / 4) ((k.s .s a).toNat + j)))
      LeavesCore (.wdt i a b) s th d id [] (fun y => { y with wdtPend := y.wdtPend ++ [(co.cycle + 24, (k.s .s b).toNat, ent)] }) 0 ∧
      ∀ cyc, co.cycle + 24 ≤ cyc → entryAt { co with wdtPend := co.wdtPend ++ [(co.cycle + 24, (k.s .s b).toNat, ent)] } (k.s .s b).toNat cyc = ent)

/-- When the bundle issues in this cycle with a true guard: SEND on an open endpoint stages a and b as one entry and takes a credit, and on a closed or broken one writes its status; SENDT does the same where it can, and puts in flight whether it did; COMMIT of an empty buffer does nothing, on a closed or broken endpoint discards the buffer and writes the status, and else sends the message: onto the control network of this module, or as a packet to the peer that holds the queue, or, of class 0 without a token or behind others, into the Toll queue; one of class 0 that leaves takes a token, of which the bucket gains one for every 256 ticks of the timebase. Nothing else changes. -/
def Obligations.SendsStage : Prop :=
  ∀ (s : State) (i : Issue) (ch : BitVec 7) (d : SlotDef),
    let th := i.thread.toNat
    let x := ctx s.mod th
    let c := ch.toNat
    (∀ a b : Spec, slotNow s.mod th (.send i ch a b) = some d → Issues s.mod th d →
      Leaves (.send i ch a b) s th d (fun y => if epDown x c then refusedBy y c else staged y c (x.sreg a.toNat) (x.sreg b.toNat)) []) ∧
    (∀ (a b : Spec) (p : BitVec 3), slotNow s.mod th (.sendt i ch a b p) = some d → Issues s.mod th d →
      let credit := if (x.endp c).chC0 ∧ 4 ≤ (x.tollQ.filter (fun k => k.kind == .msg)).length then 0 else (x.endp c).credit
      let room := x.sendBuf = [] ∨ (x.sendCh = ch ∧ x.sendBuf.length < 4)
      let ok : Bool := (x.endp c).state == 2 && decide (credit ≠ 0 ∧ room)
      Leaves (.sendt i ch a b p) s th d
        (fun y => if ok then staged y c (x.sreg a.toNat) (x.sreg b.toNat) else if epDown x c then refusedBy y c else y)
        [flying s.mod th .y 1 (.p p.toNat ok)]) ∧
    (slotNow s.mod th (.commit i ch) = some d → Issues s.mod th d →
      let k := x.endp c
      let waits : Bool := k.chC0 && (!x.tollQ.isEmpty || x.toll == 0)
      (x.sendBuf = [] → Leaves (.commit i ch) s th d id []) ∧
      (x.sendBuf ≠ [] → epDown x c = true → Leaves (.commit i ch) s th d (fun y => { refusedBy y c with sendBuf := [] }) []) ∧
      (x.sendBuf ≠ [] → epDown x c = false → waits = true →
        let msg := message x th c
        Leaves (.commit i ch) s th d (fun y => { y with sendBuf := [], tollQ := y.tollQ ++ [{ msg with ep := { msg.ep with peer := k.chPeer } }] }) []) ∧
      (x.sendBuf ≠ [] → epDown x c = false → waits = false →
        ∃ t, exec (.commit i ch) s = .next t ∧ t.pending = s.pending ∧
          ctx t.mod th = passed s.mod th d (fun y =>
            if k.chC0 then { y with sendBuf := [], toll := y.toll - 1, tollAt := if y.toll = 4 then s.mod.tb.ticks else y.tollAt } else { y with sendBuf := [] }) ∧
          (∀ u, u ≠ th → ctx t.mod u = ctx s.mod u) ∧ (∀ e, e ≠ th / 4 → core t.mod e = core s.mod e) ∧
          (k.chPeer = none → t.mod.net = s.mod.net ++ [{ message x th c with id := s.mod.nextNet }] ∧
            (NoWalk s.mod th → t.mod = { s.mod with cores := t.mod.cores, net := t.mod.net, nextNet := s.mod.nextNet + 1 })) ∧
          (∀ p, k.chPeer = some p → NoWalk s.mod th →
            let q := (fabSend s.mod (messagePacket x th c p)).1
            t.mod = { s.mod with cores := t.mod.cores, fab := q.fab, out := q.out })))

/-- When a QSEL issues in this cycle with a true guard: the queue it chooses is one of those that the masks name, that the thread reads and that hold a word: the lowest, or under rotation the first above the pointer, else the lowest, and then the pointer moves to it; its number for d and the binding of the window are in flight for one cycle; nothing else changes. -/
def Obligations.QueueSelect : Prop :=
  ∀ (s : State) (i : Issue) (r a b : Spec) (window : BitVec 4) (rot : Bool) (d : SlotDef),
    let th := i.thread.toNat
    let x := ctx s.mod th
    let ok := selectable s.mod th (x.sreg a.toNat) (x.sreg b.toNat)
    slotNow s.mod th (.qsel i r a b window rot) = some d → Issues s.mod th d →
    ∃ q, ok q = true ∧
      (∀ j, ok j = true → if rot && decide (x.rotPtr.toNat < q) then j ≤ x.rotPtr.toNat ∨ q ≤ j else q ≤ j ∧ (rot = true → j ≤ x.rotPtr.toNat)) ∧
      Leaves (.qsel i r a b window rot) s th d (fun y => if rot then { y with rotPtr := BitVec.ofNat 7 q } else y)
        [flying s.mod th .y 1 (.s r.toNat (BitVec.ofNat 64 q)), flying s.mod th .y 1 (.window window.toNat (BitVec.ofNat 7 q))]

/-- For every queue and reader: popping one word of an entry without an error gives bits 63 to 0 where the entry is whole and bits 127 to 64 where half of it is gone; the first pop only marks the half; the second moves the head on modulo the depth and lowers the count by one; the last entry of a message from a thread of this module sends its credits back; a bad entry reads as zero and raises the machine check of R388 in the reader; no other queue of the core, and no memory, changes. -/
def Obligations.QueueWordsArePopped : Prop :=
  ∀ (m : Mod) (q t : Nat) (sl : Slot) (bundle : Word), t / 4 = q / 128 →
    let k := queueAt m q
    let at_ := k.base + k.hd
    let bad := (core m (q / 128)).storeBad.contains at_
    let e := tblGet 0 (core m (q / 128)).store at_
    let r := popWord m q t sl bundle
    r.2 = (if bad then 0 else if k.half then e.extractLsb' 64 64 else e.extractLsb' 0 64) ∧
    (k.half = false → queueAt r.1 q = { k with half := true }) ∧
    (k.half = true → (queueAt r.1 q).half = false ∧ (queueAt r.1 q).hd = (k.hd + 1) % k.depth ∧ (queueAt r.1 q).count = k.count - 1) ∧
    ctx r.1 t = (ctx m t).checked (if bad then [machineCheck 0x32 (slotNum sl) 3 bundle 0] else []) ∧
    (k.half = true → ∀ g rest, k.msgs = g :: rest → g.ep.peer = none →
      r.1.net = if 1 < g.left then m.net else m.net ++ [{ id := m.nextNet, kind := .cret, ep := g.ep, queue := BitVec.ofNat 18 q, c0 := g.c0, epoch := k.epoch, count := g.n,
                                                          closed := false, entries := [], job := (ctx m t).job, req := k.reqOf g.chan }]) ∧
    (∀ p, p ≠ q → queueAt r.1 p = queueAt m p) ∧ (core r.1 (q / 128)).store = (core m (q / 128)).store ∧ r.1.mem = m.mem

/-- When the bundle issues in this cycle with a true guard: FORK starts a thread with the next generation in the lowest free context of its core, at address a with b in s1 and all else at its reset value or its parent's, ready from the second cycle after, and puts the join handle in flight for d for one cycle; JOIN changes nothing of its thread; EXIT leaves its thread not live, its registers as they stand and its send buffer empty. FORK changes no other thread, and EXIT none where it works on no item. -/
def Obligations.ThreadInstructions : Prop :=
  ∀ (s : State) (i : Issue) (d : SlotDef),
    let th := i.thread.toNat
    let x := ctx s.mod th
    (∀ r a b : Spec, slotNow s.mod th (.fork i r a b) = some d → Issues s.mod th d →
      ∃ t u, exec (.fork i r a b) s = .next t ∧ t.pending = s.pending ∧
        u / 4 = th / 4 ∧ isFree s.mod u = true ∧ (∀ v, v / 4 = th / 4 → isFree s.mod v = true → u ≤ v) ∧
        ctx t.mod th = issued x (follows s.mod th).1
          (loopFlying s.mod th ++ [flying s.mod th .y 1 (.s r.toNat (BitVec.ofNat 64 (((ctx s.mod u).gen + 1).toNat * 2 ^ 32 + u)))]) ∧
        (let y := ctx t.mod u
         y.live = true ∧ y.halted = false ∧ y.gen = (ctx s.mod u).gen + 1 ∧ y.pc = x.sreg a.toNat ∧ y.s = tblPut [] 1 (x.sreg b.toNat) ∧ y.v = [] ∧ y.p = [] ∧
           y.sup = x.sup ∧ y.strict = x.strict ∧ y.rnd = x.rnd ∧ y.job = x.job ∧ y.xbase = x.xbase ∧ y.prio = x.prio ∧ y.vbase = x.vbase ∧ y.mask = 0 ∧
           y.readyAt = (core s.mod (th / 4)).cycle + 2 ∧ y.sr0 = 0x9E3779B97F4A7C15 ∧ y.sr1 = BitVec.ofNat 64 u ∧ y.inflight = [] ∧ y.flags = 0 ∧ y.haz = false) ∧
        (∀ v, v ≠ th → v ≠ u → ctx t.mod v = ctx s.mod v) ∧ (NoWalk s.mod th → t.mod = { s.mod with cores := t.mod.cores, clusters := t.mod.clusters })) ∧
    (∀ a : Spec, slotNow s.mod th (.join i a) = some d → Issues s.mod th d → Leaves (.join i a) s th d id []) ∧
    (slotNow s.mod th (.exit i) = some d → Issues s.mod th d →
      ∃ t, exec (.exit i) s = .next t ∧ t.pending = s.pending ∧
        (let y := ctx t.mod th
         y.live = false ∧ y.sendBuf = [] ∧ y.s = x.s ∧ y.v = x.v ∧ y.p = x.p ∧ y.vm = x.vm ∧ y.acc = x.acc ∧ y.trow = x.trow) ∧
        (x.item = none → (∀ v, v ≠ th → ctx t.mod v = ctx s.mod v) ∧ ∀ e, e ≠ th / 4 → core t.mod e = core s.mod e))

/-- When the bundle issues in this cycle with a true guard: BAR.ARRIVE marks the context arrived at the group; BAR.WAIT and the fences, nothing holding them back, change nothing of their thread; EVWAIT passes where its counter has reached the value modulo 2^32 and else holds its thread at the bundle, the bundle that follows kept as its first issue decides it (log 84, DEDUCED), and has its core choose a thread. BARRIER_COMPLETE clears the mark of every member once there is a member and every one has arrived, and else changes nothing; a last BAR.ARRIVE completes nothing by itself (log 57, DESIGN CHOICE). -/
def Obligations.BarriersFencesAndEvents : Prop :=
  (∀ (s : State) (i : Issue) (d : SlotDef),
    let th := i.thread.toNat
    let x := ctx s.mod th
    (∀ g : BitVec 8, slotNow s.mod th (.barArrive i g) = some d → Issues s.mod th d →
      Leaves (.barArrive i g) s th d (fun y => { y with arrived := if g.toNat ∈ y.arrived then y.arrived else y.arrived ++ [g.toNat] }) []) ∧
    (∀ g : BitVec 8, slotNow s.mod th (.barWait i g) = some d → Issues s.mod th d →
      g.toNat ∉ x.arrived ∧ Leaves (.barWait i g) s th d id []) ∧
    (∀ c ∈ [Instr.fenceC i, Instr.fenceM i, Instr.fenceF i], slotNow s.mod th c = some d → Issues s.mod th d → Leaves c s th d id []) ∧
    (∀ a b : Spec, slotNow s.mod th (.evwait i a b) = some d → Issues s.mod th d →
      let va := x.sreg a.toNat
      let vb := x.sreg b.toNat
      let counter : BitVec 32 := if va.getLsbD 63 then tblGet 0 s.mod.hq.evc (va.extractLsb' 0 16).toNat else tblGet 0 x.ctrs (va.extractLsb' 0 3).toNat
      if (counter - vb.setWidth 32).toNat < 2 ^ 31 then Leaves (.evwait i a b) s th d id []
      else ∃ t, exec (.evwait i a b) s = .next t ∧ t.pending = s.pending ∧
        (let held : Hold :=
           { kind := .evwait va vb, bundle := x.pc, steps := 0, redirect := none, edge := some (follows s.mod th), byCrw := false, got := [], failed := none, wroteAt := none }
         ctx t.mod th = { x with waiting := none, stall := 0, resume := none, qcount := 0, hold := some held }) ∧
        (∀ u, u ≠ th → ctx t.mod u = ctx s.mod u) ∧ (∀ e, e ≠ th / 4 → core t.mod e = core s.mod e) ∧
        (core t.mod (th / 4)).quiet = { (core s.mod (th / 4)).quiet with idle := true } ∧
        (NoWalk s.mod th → t.mod = { s.mod with cores := t.mod.cores }))) ∧
  (∀ (s : State) (g : BitVec 8),
    let member (t : Nat) : Bool := (tblGet 0 (ctx s.mod t).barmem (g.toNat / 64)).getLsbD (g.toNat % 64)
    let some_ := ∃ t, member t = true
    let all := ∀ t, member t = true → g.toNat ∈ (ctx s.mod t).arrived
    ∃ t, exec (.barrierComplete g) s = .next t ∧ t.pending = s.pending ∧
      (some_ ∧ all → ∀ u, ctx t.mod u = if member u then { ctx s.mod u with arrived := (ctx s.mod u).arrived.filter (· != g.toNat) } else ctx s.mod u) ∧
      (¬ (some_ ∧ all) → t.mod = s.mod))

/-- At a boundary of a thread whose frame can be pushed, in the cycle in which its next bundle could issue: EXCEPTION_ENTRY takes the first machine check that has arrived while cr.mask is below 4, else the unmasked pending interrupt of the highest level and lowest code, whose pending bit it clears, else the fault of a step while cr.mask is below 3. An edge in which a CRW of the interrupted H bundle had a part is kept for the return (log 84). A slot instruction whose decode finds a fault enters with it whatever its guard, and one whose values, popped words among them, raise a fault enters with it where its guard is true; the bundle pops nothing and has no other effect. The thread stands at the resume address with cause, epc and tprog written, and a write of the eight frame words is on its way to cr.ssp - 64; its core chooses a thread, and no other thread and no other core changes. What a cycle is that "could issue" is the model's for a thread that waits for a frame (log 107). -/
def Obligations.ExceptionsAreTaken : Prop :=
  (∀ (s : State) (thread : ThreadId) (b : Nat),
    let th := thread.toNat
    let s0 : State := { s with mod := toBoundary s.mod th }
    let x := ctx s0.mod th
    atBoundary s.mod th = true → x.dbl = false → Pushes s0.mod th b →
    (∀ f rest, x.checks = f :: rest → f.level = 4 → x.mask ≠ 4 → NoWalkTo s0.mod th (x.ssp - 64) →
      ∃ t, exec (.exceptionEntry thread) s = .next t ∧ Enters s0 t th { x with checks := rest } f b) ∧
    (x.checks = [] → (∀ e, Chosen x e →
      let f : Flt := { level := e.2.1, code := BitVec.ofNat 8 e.2.2, slot := 7, detail := BitVec.ofNat 16 (intDetail s0.mod th e.1) }
      ∃ t, exec (.exceptionEntry thread) s = .next t ∧
        Enters s0 t th { x with pendInt := x.pendInt &&& ~~~(BitVec.ofNat 6 (2 ^ e.1)), mpMask := if e.1 = 2 then 0 else x.mpMask } f b)) ∧
    (x.checks = [] → (∀ e ∈ interrupts, unmasked x e = false) → ∀ f, x.stepFault = some f → f.level = 3 → x.mask.toNat < 3 →
      ∃ t, exec (.exceptionEntry thread) s = .next t ∧ Enters s0 t th x f b)) ∧
  (∀ (s : State) (c : Instr) (i : Issue) (d : SlotDef) (f : Flt) (b : Nat),
    let th := i.thread.toNat
    let x := ctx s.mod th
    let k := reads s.mod th d
    issuer c = some i → slotNow s.mod th c = some d → Settled s.mod th → x.dbl = false → x.mask.toNat < 3 →
    (decodeFault x [] [d] = some f → Pushes s.mod th b → ∃ t, exec c s = .next t ∧ Enters s t th x f b) ∧
    (decodeFault x [] [d] = none → guardOn d.guard x = true → bundleStall (issNow s.mod th) [d] = 0 → arrayFree (issNow s.mod th) [d] = true →
      (d.sdm = true → (core s.mod (th / 4)).sdmBusy ≤ (core s.mod (th / 4)).cycle) → valueFault k [d] = some f → Pushes (faulted k d s.mod) th b →
      ∃ t, exec c s = .next t ∧ Enters s t th (ctx (faulted k d s.mod) th) f b))

/-- An answered frame push writes cr.ssp, cr.mask and sup and starts the handler of the level; one answered with an error enters double-fault state with FRAME_PUSH, the failed cause in aux. A synchronous fault of a step at cr.mask 3 or 4, and a machine check at cr.mask 4, enter double-fault state with their own cause, in the thread's SDM slot; any in double-fault state, whatever cr.mask, starts the reset of the core. Under the standard handler (R601) a completed entry of level 3 or 4 ends the thread. An RTE whose frame has been read resumes at frame.epc with sup and mask from the frame (a mask above 4 there leaves cr.mask, the model's choice, log 25); in double-fault state it reads the SDM slot and leaves the state; one whose frame has no address enters double-fault state with FRAME_POP. An entry of a step's fault or an interrupt whose frame cannot be pushed enters double-fault state at once with FRAME_PUSH and the failed cause in aux. An H instruction that the RTE's bundle still holds goes on to frame.epc, and the edge of an interrupted H bundle is kept, as the model reads them (log 84). -/
def Obligations.ExceptionPaths : Prop :=
  ∀ (s : State) (thread : ThreadId),
    let th := thread.toNat
    let x := ctx s.mod th
    let cyc := (core s.mod (th / 4)).cycle
    (meshRuns s.mod = true → ∀ e a r, x.entry = some e → pushAccess s.mod th = some a → a.answer = some r →
      (r.status = 0 → x.stdHandler = false → ∃ t, exec (.framePushComplete thread) s = .next t ∧ t.pending = s.pending ∧
        ctx t.mod th = { x with entry := none, resume := none, ssp := e.at_, mask := BitVec.ofNat 3 e.level, sup := true,
                                pc := x.vbase + BitVec.ofNat 64 (0x100 * e.level), notBefore := settledAt x (cyc + 1) } ∧
        (∀ u, u ≠ th → ctx t.mod u = ctx s.mod u) ∧ t.mod = { s.mod with cores := t.mod.cores, accs := t.mod.accs }) ∧
      (r.status = 0 → x.stdHandler = true → 3 ≤ e.level → x.live = true →
        ∃ t, exec (.framePushComplete thread) s = .next t ∧ t.pending = s.pending ∧ (ctx t.mod th).live = false) ∧
      (r.status ≠ 0 → x.stdHandler = false → x.dbl = false →
        let f : Flt := { level := 0, code := 0x40, slot := 7, detail := if r.poison then 3 else 4 }
        ∃ t, exec (.framePushComplete thread) s = .next t ∧ Doubles s t th { x with entry := none } f (e.frame.getD 1 0))) ∧
    (atBoundary s.mod th = true → ∀ f,
      let s0 : State := { s with mod := toBoundary s.mod th }
      let x0 := ctx s0.mod th
      let y := { x0 with checks := if f.level = 4 then x0.checks.drop 1 else x0.checks }
      (x0.dbl = false → x0.stdHandler = false →
        (∃ rest, x0.checks = f :: rest ∧ f.level = 4 ∧ x0.mask = 4) ∨
        (x0.checks = [] ∧ (∀ e ∈ interrupts, unmasked x0 e = false) ∧ x0.stepFault = some f ∧ f.level = 3 ∧ 3 ≤ x0.mask.toNat) →
        ∃ t, exec (.exceptionEntry thread) s = .next t ∧ Doubles s0 t th y f 0) ∧
      (x0.dbl = false → x0.stdHandler = false → x0.checks = [] → ∀ n, PushFails s0.mod th n → NoWalkTo s0.mod th (x0.ssp - 64) ∨ s0.mod.mem.check = [] →
        let fails (x : Ctx) (f : Flt) (t : State) : Prop :=
          Doubles s0 t th { entering x f s0.mod.tb.time with entry := none, qcount := x.qcount } { level := 0, code := 0x40, slot := 7, detail := BitVec.ofNat 16 n } (causeOf false f)
        ((∀ e ∈ interrupts, unmasked x0 e = false) → x0.stepFault = some f → f.level = 3 → x0.mask.toNat < 3 →
          ∃ t, exec (.exceptionEntry thread) s = .next t ∧ fails x0 f t) ∧
        (∀ e, Chosen x0 e → ∃ t, exec (.exceptionEntry thread) s = .next t ∧
          fails { x0 with pendInt := x0.pendInt &&& ~~~(BitVec.ofNat 6 (2 ^ e.1)), mpMask := if e.1 = 2 then 0 else x0.mpMask }
            { level := e.2.1, code := BitVec.ofNat 8 e.2.2, slot := 7, detail := BitVec.ofNat 16 (intDetail s0.mod th e.1) } t)) ∧
      (x0.dbl = true → (∃ rest, x0.checks = f :: rest) ∨ (x0.checks = [] ∧ x0.stepFault = some f) →
        ∃ t, exec (.exceptionEntry thread) s = .next t ∧ t.pending = s.pending ∧
          ∃ r ∈ t.mod.rcv.resets, domainIn (.core (BitVec.ofNat 11 (th / 4))) r.d = true)) ∧
    (meshRuns s.mod = true → ∀ at_, x.rteAt = some at_ → ∀ frame : List Word,
      (x.dbl = false ∧ x.rteBad = none ∧ ∃ a r, s.mod.accs.find? (fun k => k.kind == .frameRead && k.thread.toNat == th && k.gen == x.gen) = some a ∧ a.answer = some r ∧
        r.status = 0 ∧ r.poison = false ∧ r.ue = false ∧ frame = bytesWords 8 r.data) ∨
      (x.dbl = true ∧ (∀ j, j < 64 → granuleOf s.mod (dfSlot s.mod th + j) = none) ∧ frame = bytesWords 8 (s.mod.mem.bytes (dfSlot s.mod th) 64)) →
      let epc := frame.getD 0 0 &&& ~~~0x1F#64
      let state := frame.getD 2 0
      let tp := frame.getD 4 0 &&& 0xC3FFFFFFFFFFFFFF#64
      let level : BitVec 3 := state.extractLsb' 16 3
      let more : Option Word := if tp.getLsbD 63 then some tp else none
      ∃ t, exec (.rteFrameReadComplete thread) s = .next t ∧ t.pending = s.pending ∧ (∀ u, u ≠ th → ctx t.mod u = ctx s.mod u) ∧ t.mod.mem = s.mod.mem ∧
        ctx t.mod th = { x with epc := epc, tprog := tp, pc := epc, rteAt := none, rteBad := none, dbl := false, sup := state.getLsbD 0,
                                hold := x.hold.map (fun h => { h with redirect := some epc }),
                                mask := if level.toNat ≤ 4 then level else x.mask, ssp := if x.dbl then x.ssp else x.ssp + 64,
                                resume := more, notBefore := max x.notBefore (cyc + 3) }) ∧
    (meshRuns s.mod = true → ∀ at_ n, x.rteAt = some at_ → x.dbl = false → x.stdHandler = false → x.rteBad = some n →
      let f : Flt := { level := 0, code := 0x41, slot := 0, detail := BitVec.ofNat 16 n }
      ∃ t, exec (.rteFrameReadComplete thread) s = .next t ∧ Doubles s t th { x with rteAt := none, rteBad := none } f 0)

/-- For a core whose current thread may issue, waits in no bundle and runs untranslated, where the line of its pc is cached without a parity error: a bundle of one slot is issued exactly as that slot's command issues it, and one without a slot passes. A bundle of any slots enters, without an effect, with the decode fault of its earliest slot that has one (a window named by S and V is one); else waits in the long stall of a pending register, of its windows' words or of its earliest waiting slot; else, where its values raise faults, enters with that of its earliest slot. One that is QUIET and has results in flight issues in the cycle in which the last lands, as it would at that cycle. One of which every active slot only puts results in flight pops its windows, S before V, each once, reads every operand at issue, and puts the results in flight in slot order; a branch, a deactivated level or the back edge gives the pc. Where no line is cached, the fetch of the line starts and nothing else changes but counters; a pc with bits 63 to 47 not zero enters with PAGE_NP. FETCH_MISS_FILL of a fetch from an unmarked HBM line that is a codeword puts its 64 bytes into the instruction cache and ends the fetch; no thread changes. Which of several faults of one slot is taken is the model's (logs 71, 81), and so is a window bound to a queue that is closed or read by another (log 95). -/
def Obligations.CoresFetchAndIssue : Prop :=
  (∀ (s : State) (c : CoreId),
    let m := s.mod
    let k := core m c.toNat
    let th := 4 * c.toNat + k.cur
    let x := ctx m th
    let line := 64 * (x.pc.toNat / 64)
    k.cur < 4 → k.fetching = none → canIssue m th = true → x.waiting = none → x.xbase.getLsbD 0 = false →
    (2 ^ 47 ≤ x.pc.toNat → Settled m th → x.dbl = false → x.mask.toNat < 3 → ∀ b, Pushes m th b →
      ∃ t, exec (.bundleIssue c {}) s = .next t ∧ Enters s t th x { level := 3, code := 0x26, slot := 7, detail := 2, addr := x.pc } b) ∧
    (x.pc.toNat < 2 ^ 47 →
    (∀ l, k.icache.find? (fun l => l.addr == line) = some l → l.fails (x.pc.getLsbD 5) = false →
      let b := decodeBundle th (ofBytes (sliceBytes l.data (x.pc.toNat % 64) 32))
      let used : Mod := setCore m c.toNat (fun k => { k with icache := k.icache.eraseP (fun l => l.addr == line) ++ [l] })
      (∀ i, b = { quiet := false, slots := [.ok i] } → (issuer i).isSome = true → exec (.bundleIssue c {}) s = exec i { s with mod := used }) ∧
      (Settled m th → b = { quiet := false, slots := [] } → ∃ t, exec (.bundleIssue c {}) s = .next t ∧ t.pending = s.pending ∧
        OnlyThread used t.mod th (issued x (follows m th).1 (loopFlying m th))) ∧
      (Settled m th → x.dbl = false → x.mask.toNat < 3 → ∀ w f at_, DecodesTo used th b w f →
        (∀ v g, (slotNum v).toNat < (slotNum w).toNat → ¬DecodesTo used th b v g) → Pushes used th at_ →
        ∃ t, exec (.bundleIssue c {}) s = .next t ∧ Enters { s with mod := used } t th x f at_) ∧
      (Settled m th → (∀ w f, ¬DecodesTo used th b w f) → ∀ n, WaitsFor used th b n →
        ∃ t, exec (.bundleIssue c {}) s = .next t ∧ t.pending = s.pending ∧ ctx t.mod th = { x with waiting := some b, stall := BitVec.ofNat 4 n, qcount := 0 } ∧
          { core t.mod c.toNat with ctxs := [] } = { core used c.toNat with idle := true, nextIssue := max k.nextIssue (k.cycle + 1), ctxs := [] } ∧
          (∀ u, u ≠ th → ctx t.mod u = ctx m u) ∧ (∀ e, e ≠ c.toNat → core t.mod e = core m e) ∧ t.mod = { m with cores := t.mod.cores }) ∧
      (Settled m th → x.dbl = false → x.mask.toNat < 3 → Ready used th b → (b.quiet = true → inFlight x k.cycle = false) →
        ∀ d f at_, ValuesTo used th b d f → (∀ e g, (slotNum e.slot).toNat < (slotNum d.slot).toNat → ¬ValuesTo used th b e g) →
        let u := faulted (issWith used th b) d used
        Pushes u th at_ → ∃ t, exec (.bundleIssue c {}) s = .next t ∧ Enters { s with mod := used } t th (ctx u th) f at_) ∧
      (Settled m th → b.quiet = true → ∀ last, last = settledAt x k.cycle → last < k.cycle + 256 →
        (∀ t, k.cycle ≤ t → t ≤ last → mustEnter (ctx (advance used c.toNat t) th) = false ∧ MayGo (advance used c.toNat t) th b) →
        Ready (advance used c.toNat last) th b → (ctx (advance used c.toNat last) th).xbase.getLsbD 0 = false →
        ∃ t u, exec (.bundleIssue c {}) s = .next t ∧ exec (.bundleIssue c {}) { s with mod := advance used c.toNat last } = .next u ∧ ButCounters u t) ∧
      (Settled m th → Ready used th b → (b.quiet = true → inFlight x k.cycle = false) → (∀ d f, ¬ValuesTo used th b d f) →
        ∀ results : List (SlotDef × List (Nat × Write)), results.map Prod.fst = activeNow used th b → (∀ r ∈ results, OnlyLands (issWith used th b) r.1 r.2) →
        let goes := (activeNow used th b).findSome? (fun d => d.redirect (issWith used th b))
        let edge : Word × List Write := if ∃ d ∈ activeNow used th b, d.deact (issWith used th b) = true then (x.pc + 32, []) else follows m th
        let l := (if goes.isSome then [] else edge.2.map (fun w => flying m th .s 1 w)) ++ results.flatMap (fun r => r.2.map (fun w => flying m th r.1.slot w.1 w.2))
        let popped := (popAll (issNow used th) (activeNow used th b)).1
        ∃ t, exec (.bundleIssue c {}) s = .next t ∧ t.pending = s.pending ∧ OnlyThread popped t.mod th (issued (ctx popped th) (goes.getD edge.1) l))) ∧
    (k.icache.find? (fun l => l.addr == line) = none → ∃ t, exec (.bundleIssue c {}) s = .next t ∧ t.pending = s.pending ∧
      { core t.mod c.toNat with counters := [] } = { k with fetching := some (line, x.pc), fetchAt := m.now, fetchPaused := m.pwr.pausedTotal, counters := [] } ∧
      (∀ u, ctx t.mod u = ctx m u) ∧ t.mod = { m with cores := t.mod.cores }))) ∧
  (∀ (s : State) (c : CoreId) (ups : Upsets) (line : Nat) (pc : Word) (d : List Nat),
    let m := applyUpsets s.mod ups
    meshRuns s.mod = true → (core m c.toNat).fetching = some (line, pc) → regionOf line = .hbm → disabled m 3 = false → fencedAt m line m.now = false → line % 64 = 0 →
    m.mem.decode line = .good d →
    ∃ t, exec (.fetchMissFill c ups) s = .next t ∧ t.pending = s.pending ∧ (core t.mod c.toNat).fetching = none ∧
      (core t.mod c.toNat).icache.find? (fun l => l.addr == line) = some { addr := line, err := [], data := symbolBytes d } ∧
      (core m c.toNat).cycle + 1 ≤ (core t.mod c.toNat).nextIssue ∧ (∀ u, ctx t.mod u = ctx m u) ∧ t.mod.mem = m.mem)

/-- At a switch point a core goes over to the context that R337 chooses: of the threads ready in the switch cycle, those of high priority alone where there is one, the first after the last chosen at that priority, which may issue in the cycle after; both contexts' bundle counts return to 0, the one that leaves notes the long stall of its next bundle, and nothing else but counters changes (a switch from a taken branch is read as the model reads it, log 85). QUANTUM_EXPIRY does so once a quantum has expired. A WAITDOG whose limit is not 0, with a live thread and every live one waiting, writes what each waits in into cr.waitdog.why and makes the interrupt pending for context 0. -/
def Obligations.CoresSwitchThreads : Prop :=
  (∀ (s : State) (c : CoreId) (i : Nat) (high : Bool), NextThread s.mod c.toNat i high →
    (core s.mod c.toNat).lastHigh < 4 → (core s.mod c.toNat).lastNormal < 4 →
    (atSwitch s.mod c.toNat = true → ∃ t, exec (.threadSwitch c) s = .next t ∧ Switches s t c.toNat i high) ∧
    ((core s.mod c.toNat).expired = true → ∃ t, exec (.quantumExpiry c) s = .next t ∧ Switches s t c.toNat i high)) ∧
  (∀ (s : State) (c : CoreId),
    let k := core s.mod c.toNat
    let live (j : Nat) : Bool := (ctx s.mod (4 * c.toNat + j)).live
    let why (j : Nat) : Nat := if live j then stallNow s.mod (4 * c.toNat + j) else 0
    k.wdLimit ≠ 0 → coresRun s.mod = true → (∃ j, j < 4 ∧ live j = true) →
    (∀ j, j < 4 → live j = true → (ctx s.mod (4 * c.toNat + j)).halted = false ∧ stallNow s.mod (4 * c.toNat + j) ≠ 0 ∧ canEnter s.mod (4 * c.toNat + j) = false) →
    ∃ t, exec (.waitdog c) s = .next t ∧ t.pending = s.pending ∧
      (core t.mod c.toNat).wdWhy = BitVec.ofNat 16 (why 0 + why 1 * 16 + why 2 * 256 + why 3 * 4096) ∧
      (core t.mod c.toNat).cycle = max k.cycle (k.wdFrom + k.wdLimit.toNat) ∧ (core t.mod c.toNat).wdFrom = (core t.mod c.toNat).cycle ∧
      (∀ e, e ≠ c.toNat → core t.mod e = core s.mod e) ∧
      ∀ j, j < 4 → (ctx t.mod (4 * c.toNat + j)).pendInt = (ctx s.mod (4 * c.toNat + j)).pendInt ||| (if j = 0 ∧ live 0 = true then 2 else 0))

/-- The only result in flight of a core lands in its own place and nowhere else, once no bundle of the core issues by its cycle: a scalar, vector, mask, predicate, stride, loop or window register, rows or the configuration of a tile, cells or the type of an accumulator, a control register, bytes of LM or SDM. Two results of a thread that land in one cycle take effect in the order of their bundles, then of their slots, and set haz where they meet in a register. A load or an atomic of a live thread answered without an error writes its destination and clears its pending bit; meeting a fixed result of the same cycle there it sets haz. An answered step of a TLG writes its row of the tile and counts, and one of a TSG counts; after the last step the thread goes on as the bundle's first issue decided it, or by R173 once resumed where no edge was kept (log 84), or to the target of the bundle's branch. A row counts in the cycle in which its core stands (log 113). A PUT acknowledged without an error is over. A context whose thread has ended and has nothing in flight becomes free. -/
def Obligations.ResultsArrive : Prop :=
  (∀ (s : State) (thread : ThreadId) (l : Landing) (y : Ctx),
    let th := thread.toNat
    let x := ctx s.mod th
    let c := th / 4
    let at_ (t : State) : Prop := (core t.mod c).cycle = max (core s.mod c).cycle l.due ∧ (core t.mod c).nextIssue = max (core s.mod c).nextIssue (l.due + 1)
    meshRuns s.mod = true → (∀ j, j < 4 → 4 * c + j ≠ th → (ctx s.mod (4 * c + j)).inflight = []) → issuesBy s.mod c l.due = false →
    (x.inflight = [l] → landed { x with inflight := [], landed := [l] } l.w = some y →
      ∃ t, exec (.resultLanding thread false) s = .next t ∧ ThreadOnly s t th y ∧ at_ t ∧ t.mod = { s.mod with cores := t.mod.cores } ∧
        (∀ n v, l.w = .cr n v → (n = 0x00D → (core t.mod c).quantum = v.setWidth 32) ∧ (n = 0x00E → (core t.mod c).wdLimit = v.setWidth 32) ∧
          (n = 0x012 → (core t.mod c).shareStatic = v.getLsbD 32 ∧ (core t.mod c).fcap = v.extractLsb' 16 7 ∧ (core t.mod c).scap = v.extractLsb' 0 9))) ∧
    (x.inflight = [l] → landed x l.w = none → s.canonical → s.mod.mem.granules = [] →
      ∃ t, exec (.resultLanding thread false) s = .next t ∧ ThreadOnly s t th { x with inflight := [], landed := [l] } ∧ at_ t ∧
        t.mod = { s.mod with cores := t.mod.cores, mem := t.mod.mem } ∧ t.mod.mem.check = s.mod.mem.check ∧ t.mod.mem.granules = [] ∧
        ∀ a, t.mod.mem.byte a = (((bytesIn c l.w).reverse.find? (fun p => p.1 == a)).map Prod.snd).getD (s.mod.mem.byte a)) ∧
    (∀ k y2, x.inflight = [l, k] ∨ x.inflight = [k, l] → k.due = l.due → l.issued < k.issued ∨ (l.issued = k.issued ∧ x.inflight = [l, k]) →
      landed { x with inflight := [], landed := [l, k] } l.w = some y → landed y k.w = some y2 →
      ∃ t, exec (.resultLanding thread false) s = .next t ∧ at_ t ∧ t.mod = { s.mod with cores := t.mod.cores } ∧
        ThreadOnly s t th { y2 with haz := y2.haz || (landKeys l.w).any (fun r => (landKeys k.w).contains r), flags := y2.flags ||| flagsIn l.w ||| flagsIn k.w })) ∧
  (∀ (s : State) (id : Nat) (a : Access) (r : Resp),
    let th := a.thread.toNat
    let x := ctx s.mod th
    meshRuns s.mod = true → s.mod.accs.find? (fun a => a.id == id) = some a → a.answer = some r → a.kind = .load ∨ a.kind = .amo →
    x.live = true → x.gen = a.gen → r.status = 0 → r.poison = false → r.ue = false →
    (∀ q f, a.dest = .s q f → landedHere s.mod th (0, q) = none → ∃ t, exec (.pendingResultArrival id) s = .next t ∧
      ThreadOnly s t th { x with s := tblPut x.s q (extendLoad f (ofBytes r.data)), pendS := x.pendS &&& ~~~(1#32 <<< q) } ∧
      t.mod = { s.mod with cores := t.mod.cores, accs := t.mod.accs } ∧ t.mod.accs = s.mod.accs.eraseP (fun a => a.id == id)) ∧
    (∀ q f l, a.dest = .s q f → landedHere s.mod th (0, q) = some l →
      let y := if l.issued = a.cyc ∧ a.slot.toNat < (slotNum l.slot).toNat then x else { x with s := tblPut x.s q (extendLoad f (ofBytes r.data)) }
      ∃ t, exec (.pendingResultArrival id) s = .next t ∧ ThreadOnly s t th { y with haz := true, pendS := x.pendS &&& ~~~(1#32 <<< q) }) ∧
    (∀ q l, a.dest = .v q → landedHere s.mod th (1, q) = some l →
      let y := if l.issued = a.cyc ∧ a.slot.toNat < (slotNum l.slot).toNat then x else { x with v := tblPut x.v q (vecOf r.data) }
      ∃ t, exec (.pendingResultArrival id) s = .next t ∧ ThreadOnly s t th { y with haz := true, pendV := x.pendV &&& ~~~(1#32 <<< q) }) ∧
    (∀ q, a.dest = .v q → landedHere s.mod th (1, q) = none → ∃ t, exec (.pendingResultArrival id) s = .next t ∧
      ThreadOnly s t th { x with v := tblPut x.v q (vecOf r.data), pendV := x.pendV &&& ~~~(1#32 <<< q) } ∧
      t.mod = { s.mod with cores := t.mod.cores, accs := t.mod.accs } ∧ t.mod.accs = s.mod.accs.eraseP (fun a => a.id == id))) ∧
  (∀ (s : State) (thread : ThreadId) (h : Hold) (tile : Nat) (cfg : TileCfg) (base stride : Word) (a : Access) (r : Resp) (load : Bool),
    let th := thread.toNat
    let x := ctx s.mod th
    let steps := cfg.rows + (if cfg.scale = 0 then 0 else 1)
    coresRun s.mod = true → x.live = true → x.hold = some h → h.got = [] → h.failed = none →
    h.kind = (if load then .tlg tile cfg base stride else .tsg tile cfg base stride) →
    stepFind s.mod th h.steps (if load then .tlgRow else .tsgRow) = some a → a.present = true → a.performed = true →
    s.mod.accs.find? (fun b => b.id == a.id) = some a → a.answer = some r → r.status = 0 → r.poison = false → r.ue = false → h.steps < steps →
    let c : Instr := if load then .tlgRowArrival thread h.steps {} else .tsgStepComplete thread h.steps
    let rows : List RowWrite := if load then stepRows cfg h.steps r.data else []
    let cyc := (core s.mod (th / 4)).cycle
    let y : Ctx := if load then { rows.foldl (putRow tile) x with tileBad := x.tileBad.filter (· != tile), haz := x.haz || (landedHere s.mod th (5, tile)).isSome } else x
    let edge := h.edge.getD (backEdge x h.bundle x.depth)
    (h.steps + 1 < steps → ∃ t, exec c s = .next t ∧ ThreadOnly s t th { y with hold := some { h with steps := h.steps + 1, wroteAt := if load then some cyc else h.wroteAt } }) ∧
    (h.steps + 1 = steps → h.redirect = none → ∃ t, exec c s = .next t ∧
      ThreadOnly s t th { y with hold := none, pc := edge.1, inflight := x.inflight ++ edge.2.map (fun w => { flying s.mod th .s 1 w with bundle := h.bundle }) }) ∧
    (h.steps + 1 = steps → ∀ a_, h.redirect = some a_ → ∃ t, exec c s = .next t ∧
      ThreadOnly s t th { y with hold := none, pc := a_, notBefore := max x.notBefore (cyc + 3) })) ∧
  (∀ (s : State) (id : Nat) (a : Access) (r : Resp), meshRuns s.mod = true → s.mod.accs.find? (fun a => a.id == id) = some a → a.kind = .put → a.answer = some r → r.status = 0 →
    exec (.putAck id) s = .next { s with mod := { s.mod with accs := s.mod.accs.eraseP (fun a => a.id == id) } }) ∧
  (∀ (s : State) (thread : ThreadId),
    let x := ctx s.mod thread.toNat
    meshRuns s.mod = true → x.freeing = true → (∀ j, j < 4 → (ctx s.mod (4 * (thread.toNat / 4) + j)).inflight = []) → (cluster s.mod (thread.toNat / 64)).search = none →
    ∃ t, exec (.contextFree thread) s = .next t ∧ ThreadOnly s t thread.toNat { x with freeing := false })

/-- Where the register of a core answers, is not fenced and no operation is in progress: HALT, RESUME, SAVE and RESTORE of a context in the right state become the operation in progress, of one in the wrong state set status 1; KILL of a live context starts a thread reset of it and is in progress until that has ended; CONFINE_ON and CONFINE_OFF of a core without a live context set and clear cr.share.conf, of another set status 3. DEBUG_OPERATION_COMPLETE ends a HALT at a boundary with the thread halted at its resume address and cr.epc and cr.tprog naming it, a RESUME with the thread running, a SAVE in HBM with the save area of 16 KiB written and nothing else (a cell whose parity fails as the poison value), and a RESTORE with the context live, halted, of the next generation, with all that its area holds, at the bundle that cr.epc names. The model's own readings: status 1 for a HALT of a halted context (log 28), cr.epc at a halt and a restore (log 34), confinement as its operation starts and the progress that a halt keeps (log 56), a configuration word taken as it stands (log 112), the edge that a halted H bundle keeps (log 84). -/
def Obligations.DebugOperations : Prop :=
  (∀ (s : State) (c : CoreId) (i : BitVec 2),
    let k := core s.mod c.toNat
    let th := 4 * c.toNat + i.toNat
    let x := ctx s.mod th
    Reachable s.mod (coreBlock c.toNat) → k.dbgBusy = false →
    (∀ e ∈ [(Instr.halt c i, 1, x.live && !x.halted), (Instr.resume c i, 2, x.live && x.halted), (Instr.save c i, 3, x.live && x.halted),
            (Instr.restore c i, 4, isFree s.mod th)],
      ∃ t, exec e.1 s = .next t ∧ CoreChanged s t c.toNat
        (if e.2.2 then { k with dbgBusy := true, dbgOp := some { op := BitVec.ofNat 4 e.2.1, ctx := i, starts := x.starts } } else { k with dbgStatus := 1 })) ∧
    (∃ t, exec (.kill c i) s = .next t ∧ t.pending = s.pending ∧
      (x.live = true → ctx t.mod th = x ∧ core t.mod c.toNat = { k with dbgBusy := true, dbgOp := some { op := 5, ctx := i, starts := x.starts } } ∧
        ∃ r ∈ t.mod.rcv.resets, domainIn (.thread (BitVec.ofNat 13 th)) r.d = true) ∧
      (x.live = false → CoreChanged s t c.toNat { k with dbgStatus := 1 })) ∧
    (∀ e ∈ [(Instr.confineOn c, 6, true), (Instr.confineOff c, 7, false)], ∃ t, exec e.1 s = .next t ∧ CoreChanged s t c.toNat
      (if noneLive s.mod c.toNat then { k with dbgBusy := true, dbgOp := some { op := BitVec.ofNat 4 e.2.1, ctx := 0, starts := (ctx s.mod (4 * c.toNat)).starts }, conf := e.2.2 }
       else { k with dbgStatus := 3 }))) ∧
  (∀ (s : State) (c : CoreId) (o : DbgOp),
    let k := core s.mod c.toNat
    let th := 4 * c.toNat + o.ctx.toNat
    let x := ctx s.mod th
    let at_ := k.saveBase.toNat + 0x4000 * o.ctx.toNat
    meshRuns s.mod = true → k.dbgOp = some o →
    (o.op = 1 → x.live = true → canHalt s.mod th = true → (∀ j, j < 4 → (ctx s.mod (4 * c.toNat + j)).inflight = []) →
      ∃ t, exec (.debugOperationComplete c) s = .next t ∧ ThreadOnly s t th (haltedAt x) ∧ (core t.mod c.toNat).dbgBusy = false ∧ (core t.mod c.toNat).dbgStatus = 0) ∧
    (o.op = 2 → x.live = true → coresRun s.mod = true →
      ∃ t, exec (.debugOperationComplete c) s = .next t ∧ ThreadOnly s t th { x with halted := false } ∧ (core t.mod c.toNat).dbgBusy = false ∧ (core t.mod c.toNat).dbgStatus = 0) ∧
    (o.op = 3 → x.live = true → canSave s.mod th = true → x.accBad ≠ [] → at_ % 64 = 0 → at_ + 0x4000 ≤ 0x030000000000 → disabled s.mod 3 = false → (∀ a, fencedAt s.mod a s.mod.now = false) →
      s.canonical → ∃ t, exec (.debugOperationComplete c) s = .next t ∧ (core t.mod c.toNat).dbgBusy = false ∧ (core t.mod c.toNat).dbgStatus = 0 ∧
        t.mod.mem.bytes at_ 0x4000 = saveArea (savedCtx x) ∧ ∀ a, a < at_ ∨ at_ + 0x4000 ≤ a → t.mod.mem.byte a = s.mod.mem.byte a) ∧
    (o.op = 3 → x.live = true → canSave s.mod th = true → x.accBad = [] → at_ % 64 = 0 → at_ + 0x4000 ≤ 0x030000000000 → disabled s.mod 3 = false → (∀ a, fencedAt s.mod a s.mod.now = false) →
      s.canonical → ∃ t, exec (.debugOperationComplete c) s = .next t ∧ ThreadOnly s t th x ∧ (core t.mod c.toNat).dbgBusy = false ∧ (core t.mod c.toNat).dbgStatus = 0 ∧
        t.mod.mem.bytes at_ 0x4000 = saveArea x ∧ ∀ a, a < at_ ∨ at_ + 0x4000 ≤ a → t.mod.mem.byte a = s.mod.mem.byte a) ∧
    (o.op = 4 → isFree s.mod th = true → at_ % 64 = 0 → at_ + 0x4000 ≤ 0x030000000000 → disabled s.mod 3 = false → (∀ a, fencedAt s.mod a s.mod.now = false) → s.mod.mem.check = [] →
      let d := s.mod.mem.bytes at_ 0x4000
      ∃ t, exec (.debugOperationComplete c) s = .next t ∧ ThreadOnly s t th (ctx t.mod th) ∧ (core t.mod c.toNat).dbgBusy = false ∧ (core t.mod c.toNat).dbgStatus = 0 ∧
        Restored d x (ctx t.mod th)) ∧
    (o.op = 5 → (x.live = true ∧ x.starts = o.starts → exec (.debugOperationComplete c) s = .next s) ∧
      (x.live = false ∨ x.starts ≠ o.starts → ∃ t, exec (.debugOperationComplete c) s = .next t ∧ CoreChanged { s with mod := { s.mod with answer := .none } } { t with mod := { t.mod with answer := .none } } c.toNat
        { k with dbgBusy := false, dbgOp := none, dbgStatus := 0 })))

/-- A write of qctl with OPEN takes its fields and then sets the first status of R356 that applies, or opens the queue, empty and of the depth asked, on a free aligned run of the store; CLOSE empties an open queue, advances its epoch, unbinds its windows and tells every endpoint that holds a grant. A write of chctl with OPEN starts the opening of a closed endpoint and asks its queue for the entries wanted; CLOSE releases the channel; no reply in time closes the endpoint with status 5. A token comes to a bucket that is not full, 256 ns of the timebase after the last. qstat.base of a queue that closes keeps its value, and a channel is told by the OPEN that obtained it (log 116). -/
def Obligations.QueuesAndEndpointsOpen : Prop :=
  (∀ (s : State) (queue : QueueId) (v : Word),
    let m := s.mod
    let q := queue.toNat
    let k := qctlFields (queueAt m q) v
    let c := q / 128
    let th := 4 * c + k.ctx.toNat
    let d := 2 ^ k.ldepth.toNat
    let fails : Option Byte := if k.isOpen then some 4 else if k.ldepth.toNat < 2 ∨ 8 < k.ldepth.toNat then some 1 else if (ctx m th).live = false then some 3
      else if quarters (core m c) = true ∧ q % 128 / 32 ≠ k.ctx.toNat then some 5 else none
    (∀ e, fails = some e → ∃ t, exec (.queueOpen queue v) s = .next t ∧ t.pending = s.pending ∧ QueueChanged m t.mod q { k with status := e } ∧
      t.mod = { m with cores := t.mod.cores }) ∧
    (fails = none → (∀ b, ¬ Runs m c k.ctx.toNat d b) → ∃ t, exec (.queueOpen queue v) s = .next t ∧ t.pending = s.pending ∧ QueueChanged m t.mod q { k with status := 2 } ∧
      t.mod = { m with cores := t.mod.cores }) ∧
    (fails = none → (∃ b, Runs m c k.ctx.toNat d b) → ∃ t b, exec (.queueOpen queue v) s = .next t ∧ t.pending = s.pending ∧ Runs m c k.ctx.toNat d b ∧
      QueueChanged m t.mod q { k with isOpen := true, rctx := k.ctx, rgen := (ctx m th).gen, base := b, depth := d, hd := 0, count := 0, half := false, status := 0,
                                      arrival := false, grants := [], nextChan := 0, msgs := [] } ∧
      t.mod = { m with cores := t.mod.cores, free := m.free + 1 }) ∧
    (k.isOpen = false → ∃ t, exec (.queueClose queue v) s = .next t ∧ t.pending = s.pending ∧ QueueChanged m t.mod q { k with status := 4 } ∧ t.mod = { m with cores := t.mod.cores }) ∧
    (k.isOpen = true → (∀ g ∈ k.grants, g.ep.peer = none) → ∃ t, exec (.queueClose queue v) s = .next t ∧ t.pending = s.pending ∧
      queueAt t.mod q = { k with isOpen := false, count := 0, half := false, epoch := k.epoch + 1, grants := [], nextChan := 0, msgs := [], arrival := false, status := 0 } ∧
      (∀ p, p ≠ q → queueAt t.mod p = queueAt m p) ∧ t.mod.net.length = m.net.length + k.grants.length ∧
      (∀ g ∈ k.grants, ∃ n ∈ t.mod.net, n.kind = .gone ∧ n.ep = g.ep ∧ n.queue = queue ∧ n.epoch = k.epoch ∧ n.job = (ctx m (4 * c + k.rctx.toNat)).job) ∧
      (∀ u, ctx t.mod u = if u = 4 * c + k.rctx.toNat then { ctx m u with windows := (ctx m u).windows.filter (fun w => w.2.toNat != q % 128) } else ctx m u))) ∧
  (∀ (s : State) (thread : ThreadId) (ep : BitVec 7) (v : Word),
    let m := s.mod
    let th := thread.toNat
    let e := ep.toNat
    let x := ctx m th
    let k := chctlFields (x.endp e) v
    (k.state ≠ 0 → ∃ t, exec (.channelOpen thread ep v) s = .next t ∧ ThreadOnly s t th (x.withEp e (fun _ => { k with status := 4 })) ∧ t.mod = { m with cores := t.mod.cores }) ∧
    (k.state = 0 → k.c0 = false → (k.remote = true → k.peer = m.fab.id) →
      let o : Endpoint := { k with state := 1, req := m.nextOpen, openAt := m.now, chC0 := k.c0, chPeer := none, chQueue := k.queue, credit := 0, grant := 0 }
      ∃ t, exec (.channelOpen thread ep v) s = .next t ∧ ThreadOnly s t th (x.withEp e (fun _ => o)) ∧
        t.mod = { m with cores := t.mod.cores, net := m.net ++ [endpointItem m th e .greq o (k.want.toNat + 1)], nextNet := m.nextNet + 1, nextOpen := m.nextOpen + 1 }) ∧
    (k.state = 0 → ∃ t, exec (.channelClose thread ep v) s = .next t ∧ ThreadOnly s t th (x.withEp e (fun _ => { k with status := 4 })) ∧ t.mod = { m with cores := t.mod.cores }) ∧
    (k.state ≠ 0 → k.chC0 = false → k.chPeer = none → ∃ t, exec (.channelClose thread ep v) s = .next t ∧
      ThreadOnly s t th ({ x with sendBuf := if x.sendCh.toNat = e then [] else x.sendBuf }.withEp e (fun _ => { k with state := 0, credit := 0, status := 0 })) ∧
      t.mod = { m with cores := t.mod.cores, net := m.net ++ [endpointItem m th e .rel k 0], nextNet := m.nextNet + 1 }) ∧
    ((x.endp e).state = 1 → (x.endp e).chPeer ≠ none → ∃ t, exec (.channelOpenTimeout thread ep) s = .next t ∧
      ThreadOnly s t th (x.withEp e (fun k => { k with state := 0, status := 5 })) ∧ t.mod.now = max m.now ((x.endp e).openAt + 1000 * max 1 m.fab.txto.toNat)) ∧
    (tbRuns m = true → x.toll < 4 → x.tollQ = [] → m.fab.floodQ = [] → ∃ t, exec (.tollTokenRefill thread) s = .next t ∧ ThreadOnly s t th { x with toll := x.toll + 1, tollAt := x.tollAt + 256 } ∧
      (m.tb.slew = false ∨ m.tb.slewLeft = 0 → t.mod.now = m.now + (x.tollAt + 256 - m.tb.ticks) ∧ t.mod.tb.ticks = max m.tb.ticks (x.tollAt + 256))))

/-- For a delivered item of control traffic, its target not fenced: GREQ grants up to the free entries of an open queue and sends the grant, or a closed reply; GRANT opens the endpoint that awaits it, or closes it with status 1 or 2; MSG for an open queue of its epoch makes its entries readable whole, in order, behind those held, and any other message is dropped, one that finds no room among them (log 116); CRET gives credits back up to the grant; GONE breaks the channel with status 3; REL lets the grant go with the last entry of its channel. The items between two tiles on one virtual channel are delivered in their order, those of one channel and direction that a link has received too, and an item delivered leaves the network. -/
def Obligations.ControlTrafficArrives : Prop :=
  (∀ (s : State) (c : Ctl) (rest : List Ctl), meshRuns s.mod = true → s.mod.net = c :: rest →
    takeItem s.mod c.kind (.inFlight c.id) = some ({ s.mod with net := rest }, none, c)) ∧
  (∀ (s : State) (pre rest : List Ctl) (x c : Ctl), s.mod.net = pre ++ c :: rest → x ∈ pre → x.tiles = c.tiles → x.c0 = c.c0 → (∀ y ∈ pre, y.id ≠ c.id) →
    takeItem s.mod c.kind (.inFlight c.id) = none) ∧
  (∀ (s : State) (kind : CtlKind) (l : BitVec 7) (p x : Packet) (pre rest : List Packet), (linkOf s.mod l.toNat).rxq = pre ++ p :: rest → x ∈ pre → sameChannel x p = true →
    p ∉ pre → takeItem s.mod kind (.fromLink l p) = none) ∧
  (∀ (s : State) (kind : CtlKind) (src : MsgSrc) (m : Mod) (peer : Option (BitVec 16)) (c : Ctl), takeItem s.mod kind src = some (m, peer, c) →
    let q := c.queue.toNat
    let k := queueAt m q
    let th := c.ep.thread.toNat
    let x := ctx m th
    let e := x.endp c.ep.ep.toNat
    let granted := (k.grants.map (fun g => g.n)).foldl (· + ·) 0
    let n := c.entries.length
    let mine : Bool := e.chQueue == c.queue && e.chPeer == peer && e.epoch == c.epoch
    let only (t : State) (f : Endpoint → Endpoint) := ThreadOnly { s with mod := m } t th (x.withEp c.ep.ep.toNat f) ∧ t.mod = { m with cores := t.mod.cores }
    (kind = .greq → queueFenced m q = false → c.ep.peer = none →
      let g := if k.isOpen then min c.count (k.depth - granted) else 0
      ∃ t, exec (.greq src) s = .next t ∧ t.pending = s.pending ∧ QueueChanged m t.mod q (if g = 0 then k else { k with grants := k.grants ++ [{ ep := c.ep, n := g, c0 := c.c0, chan := k.nextChan, released := false, req := c.req }], nextChan := k.nextChan + 1 }) ∧
        t.mod = { m with cores := t.mod.cores, nextNet := m.nextNet + 1,
                         net := m.net ++ [{ c with id := m.nextNet, kind := .grant, count := g, closed := !k.isOpen, epoch := k.epoch }] }) ∧
    (kind = .grant → e.state = 1 → e.chQueue = c.queue → e.chPeer = peer → ∃ t, exec (.grant src) s = .next t ∧ only t (fun k =>
      if c.count = 0 then { k with state := 0, status := if c.closed then 1 else 2 }
      else { k with state := 2, credit := c.count, grant := c.count, epoch := c.epoch, status := 0, req := c.req })) ∧
    (kind = .rel → queueFenced m q = false → k.isOpen = true → ∃ t, exec (.rel src) s = .next t ∧ t.pending = s.pending ∧
      QueueChanged m t.mod q (letGo k c) ∧ t.mod = { m with cores := t.mod.cores }) ∧
    (kind = .msg → queueFenced m q = false → k.isOpen = true → k.epoch = c.epoch → k.count + n ≤ k.depth → ∃ t, exec (.msg src) s = .next t ∧ t.pending = s.pending ∧
      queueAt t.mod q = { k with count := k.count + n, msgs := k.msgs ++ [{ ep := c.ep, chan := (channelOf k c).getD k.nextChan, c0 := c.c0, n := n, left := n }], arrival := k.arrival || k.evarm } ∧
      (∀ p, p ≠ q → queueAt t.mod p = queueAt m p) ∧
      (∀ i, i < n → tblGet 0 (core t.mod (q / 128)).store (k.base + (k.hd + k.count + i) % k.depth) = c.entries.getD i 0) ∧
      (∀ u, ctx t.mod u = if u = 4 * (q / 128) + k.rctx.toNat ∧ k.evarm = true then { ctx m u with pendInt := (ctx m u).pendInt ||| 1 } else ctx m u) ∧
      t.mod = { m with cores := t.mod.cores }) ∧
    (kind = .msg → queueFenced m q = false → k.isOpen = false ∨ k.epoch ≠ c.epoch → 
      exec (.msg src) s = .next { s with mod := count m (q / 128) 43 1 }) ∧
    (kind = .msg → queueFenced m q = false → k.isOpen = true → k.epoch = c.epoch → k.depth < k.count + n → exec (.msg src) s = .next { s with mod := m }) ∧
    (kind = .cret → ∃ t, exec (.cret src) s = .next t ∧ only t (fun k => if k.state = 2 ∧ mine = true ∧ k.req = c.req then { k with credit := min k.grant (k.credit + c.count) } else k)) ∧
    (kind = .gone → ∃ t, exec (.gone src) s = .next t ∧ only t (fun k => if (k.state = 2 ∨ k.state = 3) ∧ mine = true then { k with state := 3, credit := 0, status := 3 } else k)))

/-- Where an access of this module may go to its target: one that a Kerb fence covers is answered FENCED and one of a reserved range with an error; a load from HBM whose lines are codewords, or from LM, SDM or CM without a marked granule, is answered with the bytes that memory holds and changes none; a store or a PUT of unpoisoned bytes to such memory writes exactly them, a PUT in as many of its units of 8 bytes as the command gives, in ascending order (the model's choice, log 102), until none is left; a store of 8 bytes to the view of a queue or an endpoint does what OPEN and CLOSE there do, and one to a status word or to the store changes nothing; an atomic in one such line, or in CM, is answered with the old bytes and writes the value of R101, R145 and R146; one behind a fence is answered FENCED, one elsewhere with an error. A write acknowledged without an error is over for its issuer. A walk that finds a present page makes the core's TLB hold its translation. -/
def Obligations.GlobalAccessesPerform : Prop :=
  (∀ (s : State) (id units : Nat) (host : Option HostData) (ups : Upsets) (a : Access),
    let m := applyUpsets s.mod ups
    meshRuns s.mod = true → AtTarget m id a →
    (a.kind ≠ .amo → fencedAt m a.addr a.issuedAt = true → ∃ t, exec (.globalAccessPerform id host ⟨units, ups⟩) s = .next t ∧
      Performs s t m id a { status := 1, data := [], poison := false, ue := false } 0 []) ∧
    (a.kind ≠ .amo → fencedAt m a.addr a.issuedAt = false → regionOf a.addr = .reserved → ∃ t, exec (.globalAccessPerform id host ⟨units, ups⟩) s = .next t ∧
      Performs s t m id a { status := 2, data := [], poison := false, ue := false } 0 []) ∧
    (a.kind = .load → fencedAt m a.addr a.issuedAt = false → Sound m a.addr →
      ∃ t, exec (.globalAccessPerform id host ⟨units, ups⟩) s = .next t ∧
        Performs s t m id a { status := 0, data := m.mem.bytes a.addr a.size, poison := false, ue := false } 0 []) ∧
    (a.kind = .store ∨ a.kind = .put → fencedAt m a.addr a.issuedAt = false → Sound m a.addr → (∀ b ∈ a.data, b.2 = false) →
      (a.kind = .put → unitCount a.addr a.span ≤ max 1 units) → ∃ t, exec (.globalAccessPerform id host ⟨units, ups⟩) s = .next t ∧
        Performs s t m id a { status := 0, data := [], poison := false, ue := false } a.addr (a.data.map Prod.fst)) ∧
    (a.kind = .put → fencedAt m a.addr a.issuedAt = false → Sound m a.addr → (∀ b ∈ a.data, b.2 = false) → max 1 units < unitCount a.addr a.data.length →
      let n := 8 * (a.addr / 8 + max 1 units) - a.addr
      ∃ t, exec (.globalAccessPerform id host ⟨units, ups⟩) s = .next t ∧ t.pending = s.pending ∧ accFind t.mod id = some { a with unitsDone := max 1 units } ∧
        (∀ u, ctx t.mod u = ctx m u) ∧
        (m.mem.wf = true → t.mod.mem.bytes a.addr n = (a.data.take n).map Prod.fst ∧ ∀ b, b < a.addr ∨ a.addr + n ≤ b → t.mod.mem.byte b = m.mem.byte b)) ∧
    (∀ c off, a.kind = .store → fencedAt m a.addr a.issuedAt = false → regionOf a.addr = .queueView c off → off % 8 = 0 → a.data.length = 8 → (∀ b ∈ a.data, b.2 = false) →
      let v := wordOf (a.data.map Prod.fst)
      let op := v.extractLsb' 62 2
      let queue : QueueId := BitVec.ofNat 18 (128 * c + (off - 0x8000) / 16)
      let thread : ThreadId := BitVec.ofNat 13 (4 * c + (off - 0x9000) / 0x800)
      let ep : BitVec 7 := BitVec.ofNat 7 ((off - 0x9000) % 0x800 / 16)
      ∃ t, exec (.globalAccessPerform id host ⟨units, ups⟩) s = .next t ∧
        (0x8000 ≤ off → off < 0x8800 → off % 16 = 0 → (op = 1 → ActsAs s t m id a (c / 16) (.queueOpen queue v)) ∧ (op = 2 → ActsAs s t m id a (c / 16) (.queueClose queue v))) ∧
        (0x9000 ≤ off → off < 0xB000 → off % 16 = 0 → (op = 1 → ActsAs s t m id a (c / 16) (.channelOpen thread ep v)) ∧ (op = 2 → ActsAs s t m id a (c / 16) (.channelClose thread ep v))) ∧
        (off < 0x8000 ∨ (off % 16 = 8 ∧ off < 0x8800) ∨ (off % 16 = 8 ∧ 0x9000 ≤ off ∧ off < 0xB000) →
          Performs s t m id a { status := 0, data := [], poison := false, ue := false } 0 [] ∧ ∀ q, queueAt t.mod q = queueAt m q) ∧
        ((0x8800 ≤ off ∧ off < 0x9000) ∨ 0xB000 ≤ off → Performs s t m id a { status := 2, data := [], poison := false, ue := false } 0 [])) ∧
    (a.kind = .amo → fencedAt m a.addr a.issuedAt = true → ∃ t, exec (.amoPerform id ups) s = .next t ∧
      Performs s t m id a { status := 1, data := [], poison := false, ue := false } 0 []) ∧
    (a.kind = .amo → fencedAt m a.addr a.issuedAt = false → regionOf a.addr ≠ .hbm → (∀ q o, regionOf a.addr ≠ .cm q o) → ∃ t, exec (.amoPerform id ups) s = .next t ∧
      Performs s t m id a { status := 2, data := [], poison := false, ue := false } 0 []) ∧
    (∀ v, a.kind = .amo → fencedAt m a.addr a.issuedAt = false → Sound m a.addr → (regionOf a.addr = .hbm ∨ ∃ q o, regionOf a.addr = .cm q o) → a.addr % 64 + a.size ≤ 64 → 0 < a.size →
      atomicValue a.op.toNat (8 * a.size) (ofBytes (m.mem.bytes a.addr a.size)) (ofBytes (a.data.map Prod.fst)) a.cmp.toNat = some v →
      ∃ t, exec (.amoPerform id ups) s = .next t ∧
        Performs s t m id a { status := 0, data := m.mem.bytes a.addr a.size, poison := false, ue := false } a.addr (toBytes a.size v))) ∧
  (∀ (s : State) (id : Nat) (a : Access) (r : Resp), meshRuns s.mod = true → s.mod.accs.find? (fun k => k.id == id) = some a → a.answer = some r →
    a.kind = .store ∨ a.kind = .vstore → r.status = 0 → exec (.writeAck id) s = .next { s with mod := { s.mod with accs := s.mod.accs.eraseP (fun k => k.id == id) } }) ∧
  (∀ (s : State) (c : CoreId) (xbase addr : Word),
    let base := 0x100000 * (xbase.extractLsb' 20 27).toNat
    let entry1 := ofBytes (s.mod.mem.bytes (base + 8 * (addr.toNat / 2 ^ 30)) 8)
    let table := 0x1000 * (entry1 / 2 ^ 12 % 2 ^ 35)
    let entry2 := ofBytes (s.mod.mem.bytes (table + 8 * (addr.toNat / 2 ^ 21 % 512)) 8)
    let big := entry1 % 4 = 1
    meshRuns s.mod = true → s.mod.mem.check = [] → xbase.getLsbD 0 = true → addr.toNat < 2 ^ 47 → base + 0x100000 ≤ 0x030000000000 →
    tlbFind (core s.mod c.toNat).tlb (tagBase xbase) addr.toNat = none → tlbFind (cluster s.mod (c.toNat / 16)).tlb2 (tagBase xbase) addr.toNat = none →
    big ∨ (entry1 % 4 = 2 ∧ table + 0x1000 ≤ 0x030000000000 ∧ entry2 % 4 = 1) →
    ∃ t e, exec (.translationWalk c xbase addr) s = .next t ∧ t.pending = s.pending ∧ tlbFind (core t.mod c.toNat).tlb (tagBase xbase) addr.toNat = some e ∧
      e.target + addr.toNat % 2 ^ e.bits =
        (if big then 2 ^ 30 * (entry1 / 2 ^ 30 % 2 ^ 17) + addr.toNat % 2 ^ 30 else 2 ^ 21 * (entry2 / 2 ^ 21 % 2 ^ 26) + addr.toNat % 2 ^ 21) ∧
      t.mod.mem = s.mod.mem ∧ (∀ u, ctx t.mod u = ctx s.mod u) ∧ ∀ e, e ≠ c.toNat → core t.mod e = core s.mod e)

/-- A fill in flight of a line of HBM that is a codeword, that neither a load nor an atomic holds back, answers every load it serves with the line's bytes, with those stored meanwhile that memory does not hold yet in their place, and the line is then cached, its lock as it stood, in a full set in place of the first unlocked line, and nowhere where all are locked, unless the fill no longer installs. UNLOCK clears every lock and drops lines without data, ICINV empties the instruction cache, DCINV empties every line of the data cache, of which locked ones stay without data; each at once, and a write of that register with the data prefetcher off forgets its streams: both are the model's choice (log 40). The SRAM scrubber clears a correctable mark and reports an uncorrectable one; the HBM scrubber stores a correctable line back as a codeword of its data. Threads stay as they are. -/
def Obligations.CachesAndScrubbers : Prop :=
  (∀ (s : State) (c : CoreId) (line : Nat) (ups : Upsets) (f : DFill) (d : List Nat),
    let m := applyUpsets s.mod ups
    let late := f.merged.filter (fun x => !mergeDone m x)
    let bytes (before : Nat) : List Byte := applyMerges line (symbolBytes d) late before
    let set := (core m c.toNat).dcache.filter (fun k => dcSet k.addr == dcSet line)
    let new : DLine := { addr := line, valid := true, lock := false, poison := late.any (fun x => x.poison), prefetched := f.prefetch, err := [], data := bytes (m.nextAcc + 1) }
    meshRuns s.mod = true → fillFind m c.toNat line = some f → line % 64 = 0 → regionOf line = .hbm → disabled m 3 = false → fencedAt m line m.now = false → m.mem.decode line = .good d →
    fillHeld m c.toNat f (fillLoads m c.toNat f) = false → (∀ a ∈ fillLoads m c.toNat f, ∀ b ∈ fillLoads m c.toNat f, a.id = b.id → a = b) →
    ∃ t, exec (.dataCacheFill c line ups) s = .next t ∧ t.pending = s.pending ∧ (∀ u, ctx t.mod u = ctx m u) ∧ t.mod.mem = m.mem ∧
      (core t.mod c.toNat).dfills = (core m c.toNat).dfills.eraseP (fun x => x.addr == line) ∧
      (∀ a ∈ fillLoads m c.toNat f, m.accs.find? (fun k => k.id == a.id) = some a → ∃ k, accFind t.mod a.id = some k ∧ k.performed = true ∧
        k.answer = some { status := 0, data := sliceBytes (bytes a.id) (a.addr % 64) a.size,
                            poison := late.any (fun x => decide (x.id < a.id) && x.poison), ue := false }) ∧
      (f.closed = none → (dcFind m c.toNat line).isSome = true ∨ set.length < 8 →
        dcFind t.mod c.toNat line = some { new with lock := (dcFind m c.toNat line).elim false (fun l => l.lock) }) ∧
      (f.closed = none → dcFind m c.toNat line = none → 8 ≤ set.length →
        (∀ v, set.find? (fun k => !k.lock) = some v → (core t.mod c.toNat).dcache = (core m c.toNat).dcache.eraseP (fun k => k.addr == v.addr) ++ [new]) ∧
        (set.find? (fun k => !k.lock) = none → (core t.mod c.toNat).dcache = (core m c.toNat).dcache)) ∧
      (f.closed ≠ none → (core t.mod c.toNat).dcache = (core m c.toNat).dcache)) ∧
  (∀ (s : State) (c : CoreId),
    let k := core s.mod c.toNat
    let streams := if k.dpfen then k.streams else []
    Reachable s.mod (coreBlock c.toNat + 0x18) →
    (∃ t, exec (.unlock c) s = .next t ∧ CoreChanged s t c.toNat
      { k with dcache := (k.dcache.filter (fun l => l.valid)).map (fun l => { l with lock := false }), streams := streams }) ∧
    (∃ t, exec (.icinv c) s = .next t ∧ CoreChanged s t c.toNat { k with icache := [], streams := streams }) ∧
    (∃ t, exec (.dcinv c) s = .next t ∧ CoreChanged s t c.toNat
      { k with dcache := (k.dcache.filter (fun l => l.lock)).map (fun l => { l with valid := false, poison := false, prefetched := false, err := [], data := [] }), streams := streams })) ∧
  (∀ (s : State) (q : ClusterId) (g : Nat), meshRuns s.mod = true → scrubbed q.toNat g = true → g % 8 = 0 →
    (tblFind s.mod.mem.granules g = some .ce → ∃ t, exec (.sramPatrolScrub q g none) s = .next t ∧ t.pending = s.pending ∧ granuleOf t.mod g = none ∧
      (∀ a, t.mod.mem.byte a = s.mod.mem.byte a) ∧ ∀ u, ctx t.mod u = ctx s.mod u) ∧
    (tblFind s.mod.mem.granules g = none → ∃ t, exec (.sramPatrolScrub q g none) s = .next t ∧ t.pending = s.pending ∧ t.mod.mem = s.mod.mem ∧ ∀ u, ctx t.mod u = ctx s.mod u) ∧
    (tblFind s.mod.mem.granules g = some .ue → s.mod.hq.journalClosed = false → ∃ t, exec (.sramPatrolScrub q g none) s = .next t ∧ t.pending = s.pending ∧
      granuleOf t.mod g = some .ue ∧ t.mod.rcv.evSeq = s.mod.rcv.evSeq + 1 ∧ ∀ u, ctx t.mod u = ctx s.mod u)) ∧
  (∀ (s : State) (q : ClusterId) (line : Nat) (d : List Nat), meshRuns s.mod = true → line % 64 = 0 → regionOf line = .hbm → (portOf s.mod line).1 = q.toNat →
    s.mod.mem.decode line = .corrected d → ∃ t, exec (.hbmPatrolScrub q line []) s = .next t ∧ t.pending = s.pending ∧
      t.mod.mem = s.mod.mem.setLine line (symbolBytes d) ∧ (cluster t.mod q.toNat).ce = satAdd 32 (cluster s.mod q.toNat).ce 1 ∧ ∀ u, ctx t.mod u = ctx s.mod u)

/-- A write of a setup register in a fenced domain is answered FENCED, but for DBG_DFSP of a core in reset, which its firmware writes; one of a size or alignment that is not a 4-byte half or the whole with an error, and changes nothing. A write of half a register changes that half. A read of HBM_ERR answers with its counts and clears them. DBG_BARMEM, HBM_PLACE, FAB_ID, the ring, event-counter and interrupt registers of the host queue engine and DBG_LOADCTL take the fields written whole: HBM_PLACE leaves every byte of another region as it is, FAB_ID refuses an identifier outside its torus, enabling a ring resets its pointers, and a write of HQI_THINT makes an interrupt pending for a live thread alone. MESH_FLIT_RETRY and CLOCK_STRETCH count at their tile; a steward bridge goes down, and the other carries the traffic of every tile; with both down the registers of the tiles are not reached (the model's choice, log 100). The doorbells of BAR2, which the commands number from 0x2000000 on (log 106), read as zero, and a write of another size or place there changes nothing. -/
def Obligations.RegistersAreWritten : Prop :=
  (∀ (s : State) (who : Who) (off size : Nat) (v : Word), ctlServed s.mod who off = true → off < 0x1000000 →
    (fencedAt s.mod (ctlAddr off) s.mod.now = true → (who = .firmware → dfspAt off = false) → exec (.setupRegisterWrite who off size v) s = .next { s with mod := { s.mod with answer := .error 1 } }) ∧
    (fencedAt s.mod (ctlAddr off) s.mod.now = false → submitPort off = none → commitPort off = false → ¬ ((size = 8 ∧ off % 8 = 0) ∨ (size = 4 ∧ off % 4 = 0)) →
      exec (.setupRegisterWrite who off size v) s = .next { s with mod := { s.mod with answer := .error 2 } })) ∧
  (∀ (s : State) (off size : Nat) (v : Word), off < 0x800000 → bridgeFor s.mod (off / 0x10000) = none →
    exec (.setupRegisterWrite .firmware off size v) s = .next s ∧ exec (.readClearFieldRead .firmware off size) s = .next s) ∧
  (∀ (s : State) (p : Bool) (i size : Nat) (v : Word), i < 0x1000000 → portLive s.mod p = true →
    exec (.readClearFieldRead (.host p) (0x2000000 + i) size) s = .next { s with mod := { s.mod with answer := .value 0 } } ∧
    (¬ ((size = 8 ∧ i % 8 = 0) ∨ (size = 4 ∧ i % 8 = 0)) → exec (.setupRegisterWrite (.host p) (0x2000000 + i) size v) s = .next { s with mod := { s.mod with answer := .none } })) ∧
  (∀ (s : State) (c : CoreId) (v : Word), meshRuns s.mod = true → stewardReaches s.mod (c.toNat / 16) = true → (core s.mod c.toNat).inReset = true ∨ s.mod.sec.stage ≠ 3 →
    ∃ t, exec (.setupRegisterWrite .firmware (coreBlock c.toNat + 0x10) 8 v) s = .next t ∧ CoreChanged s t c.toNat { core s.mod c.toNat with dfBase := v.extractLsb' 8 8 }) ∧
  (∀ (s : State) (who : Who) (c : CoreId) (v : Word),
    let k := core s.mod c.toNat
    let o := coreBlock c.toNat + 8
    ctlServed s.mod who o = true → fencedAt s.mod (ctlAddr o) s.mod.now = false →
    (∃ t, exec (.setupRegisterWrite who o 8 v) s = .next t ∧ CoreChanged s t c.toNat { k with saveBase := v &&& 0x7FFFFFFF0000#64 }) ∧
    (∃ t, exec (.setupRegisterWrite who o 4 v) s = .next t ∧ CoreChanged s t c.toNat { k with saveBase := (k.saveBase &&& 0x7FFF00000000#64) ||| (v &&& 0xFFFF0000#64) })) ∧
  (∀ (s : State) (who : Who) (q : ClusterId),
    let o := 0x10000 * q.toNat + 0x20
    let k := cluster s.mod q.toNat
    ctlServed s.mod who o = true → fencedAt s.mod (ctlAddr o) s.mod.now = false →
    ∃ t x, exec (.readClearFieldRead who o 8) s = .next t ∧ t.pending = s.pending ∧ t.mod.answer = .value x ∧ x.extractLsb' 32 32 = k.ce ∧ x.extractLsb' 16 16 = k.ue ∧
      cluster t.mod q.toNat = { k with ce := 0, ue := 0 } ∧ (∀ p, p ≠ q.toNat → cluster t.mod p = cluster s.mod p) ∧
      t.mod = { s.mod with clusters := t.mod.clusters, answer := t.mod.answer }) ∧
  (∀ (s : State) (q : ClusterId) (n : Nat) (b : Bool),
    (meshRuns s.mod = true → ∀ e ∈ [(Instr.meshFlitRetry q, 0, 1), (Instr.clockStretch q n, 1, n)], ∃ t, exec e.1 s = .next t ∧ t.pending = s.pending ∧
      tblGet 0 (cluster t.mod q.toNat).counters e.2.1 = tblGet 0 (cluster s.mod q.toNat).counters e.2.1 + BitVec.ofNat 64 e.2.2 ∧
      t.mod = { s.mod with clusters := t.mod.clusters } ∧ ∀ p, p ≠ q.toNat → cluster t.mod p = cluster s.mod p) ∧
    (∃ t, exec (.stewardBridgeFailover b) s = .next t ∧ t.pending = s.pending ∧ b ∈ t.mod.bridgeDown ∧ (∀ e ∈ s.mod.bridgeDown, e ∈ t.mod.bridgeDown) ∧
      ((!b) ∉ s.mod.bridgeDown → ∀ k, bridgeFor t.mod k = some (!b)) ∧ ((!b) ∈ s.mod.bridgeDown → ∀ k, bridgeFor t.mod k = none) ∧
      t.mod = { s.mod with bridgeDown := t.mod.bridgeDown })) ∧
  (∀ (s : State) (thread : ThreadId) (w : BitVec 2) (a : RegAccess), wholeWrite a = true →
    Reachable s.mod (coreBlock (thread.toNat / 4) + 0x500 + 32 * (thread.toNat % 4) + 8 * w.toNat) → ∃ t, exec (.dbgBarmemWrite thread w a) s = .next t ∧
      ThreadOnly s t thread.toNat { ctx s.mod thread.toNat with barmem := tblPut (ctx s.mod thread.toNat).barmem w.toNat a.value } ∧
      t.mod = { s.mod with cores := t.mod.cores, answer := .none }) ∧
  (∀ (s : State) (j : BitVec 5) (a : RegAccess), wholeWrite a = true → j.toNat < 24 → AoReachable s.mod (0xB00000 + 8 * j.toNat) →
    let new : BitVec 17 := a.value.setWidth 17 &&& (if j.toNat = 23 then 0x7F else 0x100FF)
    ∃ t, exec (.hbmPlaceWrite j a) s = .next t ∧ t.pending = s.pending ∧ placeOf t.mod j.toNat = new ∧ (∀ k, k ≠ j.toNat → placeOf t.mod k = placeOf s.mod k) ∧
      (new = placeOf s.mod j.toNat → t.mod.mem = s.mod.mem) ∧ (s.canonical → ∀ b, b < 0x030000000000 → b / 2 ^ 30 % 24 ≠ j.toNat → t.mod.mem.byte b = s.mod.mem.byte b) ∧
      t.mod = { s.mod with place := t.mod.place, mem := t.mod.mem, answer := .none }) ∧
  (∀ (s : State) (a : RegAccess), wholeWrite a = true → AoReachable s.mod 0xA00000 →
    let id := a.value.extractLsb' 48 16
    let sizes := a.value.extractLsb' 0 48
    let modules := ((List.range 6).map (fun d => (sizes.extractLsb' (8 * d) 8).toNat + 1)).foldl (· * ·) 1
    exec (.fabIdWrite a) s = .next { s with mod := { s.mod with
      fab := if modules ≤ 65536 ∧ id.toNat < modules then { s.mod.fab with id := id, sizes := sizes } else s.mod.fab, answer := .none } }) ∧
  (∀ (s : State) (p : Bool) (ring : BitVec 12) (n : BitVec 16) (a : RegAccess), wholeWrite a = true →
    let v := a.value
    let sr := tblGet {} (portOfHost s.mod p).srings ring.toNat
    let cr := tblGet {} (portOfHost s.mod p).crings ring.toNat
    let sNew : SRing := { sr with en := v.getLsbD 63, prio := v.extractLsb' 58 3, lsize := v.extractLsb' 48 5 }
    let cNew : CRing := { cr with en := v.getLsbD 63, ithresh := v.extractLsb' 56 6, lsize := v.extractLsb' 48 5, itime := v.extractLsb' 27 5, vector := v.extractLsb' 16 11 }
    let starts (was : Bool) : Bool := v.getLsbD 63 && !was
    (AoReachable s.mod (ringBlock p ring + 8) → ∃ t, exec (.hqiSqctlWrite p ring a) s = .next t ∧ t.pending = s.pending ∧
      (starts sr.en = false → tblGet {} (portOfHost t.mod p).srings ring.toNat = sNew) ∧
      (starts sr.en = true → badLog sNew.lsize = false → tblGet {} (portOfHost t.mod p).srings ring.toNat = { sNew with head := 0, tail := 0, err := 0 }) ∧
      (starts sr.en = true → badLog sNew.lsize = true → (tblGet {} (portOfHost t.mod p).srings ring.toNat).en = false ∧
        (tblGet {} (portOfHost t.mod p).srings ring.toNat).err = 3)) ∧
    (AoReachable s.mod (ringBlock p ring + 0x18) → ∃ t, exec (.hqiCqctlWrite p ring a) s = .next t ∧ t.pending = s.pending ∧
      tblGet {} (portOfHost t.mod p).crings ring.toNat = if starts cr.en then { cNew with head := 0, tail := 0, phase := true, since := 0, firstAt := none } else cNew) ∧
    (AoReachable s.mod (0x900000 + 8 * n.toNat) → ∃ t, exec (.hqiEvcWrite n a) s = .next t ∧ t.pending = s.pending ∧ tblGet 0 t.mod.hq.evc n.toNat = v.setWidth 32 ∧
      ∀ u, (ctx s.mod u).hold = none → ctx t.mod u = ctx s.mod u) ∧
    (AoReachable s.mod (0x980000 + 8 * n.toNat) → ∃ t, exec (.hqiEvaddWrite n a) s = .next t ∧ t.pending = s.pending ∧
      tblGet 0 t.mod.hq.evc n.toNat = tblGet 0 s.mod.hq.evc n.toNat + v.setWidth 32 ∧ ∀ u, (ctx s.mod u).hold = none → ctx t.mod u = ctx s.mod u) ∧
    (AoReachable s.mod 0x840010 → let th := (v.extractLsb' 0 13).toNat
      ∃ t, exec (.hqiThintWrite a) s = .next t ∧ ThreadOnly s t th (if (ctx s.mod th).live then
        { ctx s.mod th with pendInt := (ctx s.mod th).pendInt ||| (if v.getLsbD 63 then 0x10 else 0x20) } else ctx s.mod th)) ∧
    (AoReachable s.mod 0xF00100 → ∃ t, exec (.dbgLoadctlWrite a) s = .next t ∧ t.pending = s.pending ∧ t.mod.hq = { s.mod.hq with loadEn := v.getLsbD 0 } ∧
      (v.getLsbD 0 = false ∨ s.mod.hq.loadEn = true → t.mod.sec = s.mod.sec) ∧
      (v.getLsbD 0 = true → s.mod.hq.loadEn = false → tblGet 0 t.mod.sec.mrCount 5 = tblGet 0 s.mod.sec.mrCount 5 + 1)))

/-- STRM_SUBMIT puts the descriptor of a VSTG behind those of its context's queue, with its sequence number, and the number advances. CHUNK_ISSUE of a FILL whose destination lies on this module gives the free tag to a chunk of its pattern; of a COPY, GATHER, SCATTER or MCAST without conversion whose source lies in memory of this module, to a chunk of the bytes there, its row's index read first, which an MCAST's receivers owe; the descriptor goes on behind it. CHUNK_COMPLETE of a chunk that is read in writes of its part of HBM as many granules of 8 bytes as it is given (in ascending order, log 102), and with the last it releases the tag. DESCRIPTOR_POST of a descriptor that has completed writes its record where it has one, removes it, adds 1 to its counter unless a thread has started in the context since, arrives on its barrier group where it names one that the context is a member of, and takes it off the context's outstanding ones. MCAST_ACK writes a chunk at its receiver, or as many of its units as it is given, and counts the acknowledgement, or detaches a receiver that answers with an error. MCAST_TIMEOUT counts, or detaches the receivers that lag by 8 chunks or more behind the one furthest ahead (behind any of several as far ahead, log 66). Which queue has its turn counts the tags of a context's running thread apart from those an ended one left (log 115). -/
def Obligations.StreamEnginesMoveChunks : Prop :=
  (∀ (s : State) (id : Nat) (a : Access),
    let th := a.thread.toNat
    let x := ctx s.mod th
    meshRuns s.mod = true → s.mod.accs.find? (fun k => k.id == id) = some a → a.submitsDesc = true → a.unitsDone = 0 → mayPerform s.mod a = true → fencedAt s.mod a.addr a.issuedAt = false →
    ∃ t d, exec (.strmSubmit id) s = .next t ∧ ThreadOnly s t th { x with seq := x.seq + 1 } ∧
      inQueue t.mod (th / 64) (th % 64) = inQueue s.mod (th / 64) (th % 64) ++ [d] ∧
      d.seq = x.seq ∧ d.words = bytesWords 8 (a.data.map Prod.fst) ∧ d.job = a.job ∧ d.thread = some a.thread ∧ d.nextChunk = 0 ∧
      accFind t.mod id = some { a with performed := true, answer := some { status := 0, data := [], poison := false, ue := false } } ∧ t.mod.mem = s.mod.mem) ∧
  (∀ (s : State) (q : ClusterId) (queue tag units : Nat) (d : SDesc) (parts : List ChunkPart),
    let n := d.chunkEnd - d.off
    let dst := d.dstRow + BitVec.ofNat 64 d.off
    coresRun s.mod = true → freeTag s.mod q.toNat = some tag → nextQueue s.mod q.toNat = some queue → nextDesc s.mod q.toNat queue = some d →
    inQueue s.mod q.toNat queue = [d] → readsAsked s.mod q.toNat tag = false → d.op = 4 → d.conv = false → d.xbase.getLsbD 0 = false → (destParts s.mod q.toNat d dst n).2 = .inr parts → (∀ p ∈ parts, p.peer = none) →
    ∃ t c, exec (.chunkIssue q none ⟨units, {}⟩) s = .next t ∧ t.pending = s.pending ∧ (cluster t.mod q.toNat).chunks = (cluster s.mod q.toNat).chunks ++ [c] ∧
      c.tag = tag ∧ c.queue = queue ∧ c.seq = d.seq ∧ c.index = d.nextChunk ∧ c.parts = parts ∧ c.ready = true ∧ c.failed = false ∧
      c.data = (List.range n).map (fun i => (byteOf (d.words.getD 5 0) ((dst.toNat + i) % 8), false)) ∧
      (cluster t.mod q.toNat).lastServed = queue ∧ t.mod.mem = s.mod.mem ∧ (∀ u, ctx t.mod u = ctx s.mod u) ∧
      (d.slipHeld = false → inQueue t.mod q.toNat queue = [{ afterChunk d n with heldAt := none }])) ∧
  (∀ (s : State) (q : ClusterId) (queue tag units : Nat) (d : SDesc) (src : List ChunkPart) (parts : List ChunkPart),
    let e := withIndex s.mod d
    let n := e.chunkEnd - e.off
    let from_ := e.srcRow + BitVec.ofNat 64 e.off
    let dst := e.dstRow + BitVec.ofNat 64 e.off
    let here (a : Nat) : Prop := Sound s.mod a ∧ fencedAt s.mod a s.mod.now = false
    coresRun s.mod = true → freeTag s.mod q.toNat = some tag → nextQueue s.mod q.toNat = some queue → nextDesc s.mod q.toNat queue = some d →
    inQueue s.mod q.toNat queue = [d] → readsAsked s.mod q.toNat tag = false → d.op ∈ [1, 2, 3, 5] → d.conv = false → d.xbase.getLsbD 0 = false →
    ((d.op = 2 ∨ d.op = 3) → d.idx = none → (indexAt d).toNat < 2 ^ 47 ∧ here (indexAt d).toNat) →
    (sourceParts s.mod q.toNat e from_ n).2 = .inr src → (∀ p ∈ src, p.onMesh = true ∧ here p.at_) → (src.map (fun p => unitCount p.at_ p.n)).foldl (· + ·) 0 ≤ max 1 units →
    (destParts s.mod q.toNat e dst n).2 = .inr parts → (∀ p ∈ parts, p.peer = none) →
    ∃ t c, exec (.chunkIssue q none ⟨units, {}⟩) s = .next t ∧ t.pending = s.pending ∧ (cluster t.mod q.toNat).chunks = (cluster s.mod q.toNat).chunks ++ [c] ∧
      c.tag = tag ∧ c.queue = queue ∧ c.seq = d.seq ∧ c.index = d.nextChunk ∧ c.src = from_ ∧ c.dst = dst ∧ c.parts = parts ∧ c.waits = d.attached ∧ c.ready = true ∧ c.failed = false ∧
      c.data = src.flatMap (fun p => (s.mod.mem.bytes p.at_ p.n).map (fun b => (b, false))) ∧
      (cluster t.mod q.toNat).lastServed = queue ∧ t.mod.mem = s.mod.mem ∧ (∀ u, ctx t.mod u = ctx s.mod u) ∧
      (d.slipHeld = false → inQueue t.mod q.toNat queue = [{ afterChunk e n with heldAt := none }])) ∧
  (∀ (s : State) (q : ClusterId) (c : Chunk) (p : ChunkPart) (units : Nat),
    let k := max 1 units
    let b := 8 * (p.at_ / 8 + k) - p.at_
    meshRuns s.mod = true → (cluster s.mod q.toNat).chunks.find? (fun k => k.tag == c.tag) = some c →
    c.ready = true → c.failed = false → c.waits = [] → c.reads = [] → writesAsked s.mod q.toNat c.tag = false → c.parts = [p] → p.peer = none → p.off = 0 → p.n = c.data.length →
    (∀ b ∈ c.data, b.2 = false) → c.done = 0 → Sound s.mod p.at_ → fencedAt s.mod p.at_ s.mod.now = false → (∀ d ∈ inQueue s.mod q.toNat c.queue, d.op ≠ 5) →
    (unitCount p.at_ p.n ≤ k → ∃ t, exec (.chunkComplete q ⟨c.tag, units, {}⟩) s = .next t ∧ t.pending = s.pending ∧ (∀ u, ctx t.mod u = ctx s.mod u) ∧
      (cluster t.mod q.toNat).chunks = (cluster s.mod q.toNat).chunks.eraseP (fun k => k.tag == c.tag) ∧
      (s.canonical → t.mod.mem.bytes p.at_ c.data.length = c.data.map Prod.fst ∧
        ∀ a, a < p.at_ ∨ p.at_ + c.data.length ≤ a → t.mod.mem.byte a = s.mod.mem.byte a)) ∧
    (k < unitCount p.at_ p.n → ∃ t, exec (.chunkComplete q ⟨c.tag, units, {}⟩) s = .next t ∧ t.pending = s.pending ∧ (∀ u, ctx t.mod u = ctx s.mod u) ∧
      (cluster t.mod q.toNat).chunks.find? (fun k => k.tag == c.tag) = some { c with done := k } ∧
      (s.canonical → t.mod.mem.bytes p.at_ b = (c.data.take b).map Prod.fst ∧ ∀ a, a < p.at_ ∨ p.at_ + b ≤ a → t.mod.mem.byte a = s.mod.mem.byte a))) ∧
  (∀ (s : State) (q : ClusterId) (queue : Nat) (d : SDesc) (rest : List SDesc) (thread : ThreadId),
    let th := thread.toNat
    let x := ctx s.mod th
    let w0 := d.words.getD 0 0
    let k := (w0.extractLsb' 18 3).toNat
    let g := (w0.extractLsb' 21 8).toNat
    let a := (d.words.getD 7 0).toNat
    let y : Ctx := { x with ctrs := if x.starts = d.starts then tblPut x.ctrs k (tblGet 0 x.ctrs k + 1) else x.ctrs, outstanding := x.outstanding - 1,
                            arrived := if d.bar = true ∧ isMember x g = true ∧ g ∉ x.arrived then x.arrived ++ [g] else x.arrived }
    meshRuns s.mod = true → inQueue s.mod q.toNat queue = d :: rest → descDone s.mod q.toNat queue d = true → d.thread = some thread → x.hold = none →
    (d.hasRec = false → ∃ t, exec (.descriptorPost q queue) s = .next t ∧ ThreadOnly s t th y ∧ inQueue t.mod q.toNat queue = rest ∧ t.mod.mem = s.mod.mem) ∧
    (d.hasRec = true → d.recSent = false → d.xbase.getLsbD 0 = false → a < 2 ^ 47 → a % 32 = 0 → Sound s.mod a → fencedAt s.mod a s.mod.now = false →
      ∃ t, exec (.descriptorPost q queue) s = .next t ∧ ThreadOnly s t th y ∧ inQueue t.mod q.toNat queue = rest ∧
        (s.canonical → t.mod.mem.bytes a 32 = recordBytes s.mod d ∧ ∀ b, b < a ∨ a + 32 ≤ b → t.mod.mem.byte b = s.mod.mem.byte b))) ∧
  (∀ (s : State) (q r : ClusterId) (c : Chunk) (d : SDesc) (units : Nat),
    let at_ := cmAddr r.toNat (c.dst.toNat % 0x2000000)
    let k := max 1 units
    let b := 8 * (at_ / 8 + k) - at_
    meshRuns s.mod = true → (cluster s.mod q.toNat).chunks.find? (fun k => k.tag == c.tag) = some c → c.ready = true → r.toNat ∈ c.waits → inQueue s.mod q.toNat c.queue = [d] → d.seq = c.seq →
    (c.dst.toNat % 0x2000000 + c.data.length ≤ 0x1000000 → 0 < c.data.length → fencedAt s.mod at_ s.mod.now = false → s.mod.mem.granules = [] → (∀ b ∈ c.data, b.2 = false) → tblGet 0 c.mcDone r.toNat = 0 →
      (k < unitCount at_ c.data.length → ∃ t, exec (.mcastAck q ⟨c.tag, units, {}⟩ r false) s = .next t ∧ t.pending = s.pending ∧ (∀ u, ctx t.mod u = ctx s.mod u) ∧
        (cluster t.mod q.toNat).chunks.find? (fun k => k.tag == c.tag) = some { c with mcDone := tblPut c.mcDone r.toNat k } ∧ inQueue t.mod q.toNat c.queue = [d] ∧
        (s.canonical → t.mod.mem.bytes at_ b = (c.data.take b).map Prod.fst ∧ ∀ a, a < at_ ∨ at_ + b ≤ a → t.mod.mem.byte a = s.mod.mem.byte a)) ∧
      (unitCount at_ c.data.length ≤ k → ∃ t, exec (.mcastAck q ⟨c.tag, units, {}⟩ r false) s = .next t ∧ t.pending = s.pending ∧ (∀ u, ctx t.mod u = ctx s.mod u) ∧
        (cluster t.mod q.toNat).chunks.find? (fun k => k.tag == c.tag) = some { c with waits := c.waits.filter (· != r.toNat) } ∧
        (∃ e, inQueue t.mod q.toNat c.queue = [e] ∧ tblGet [] e.acks r.toNat = tblGet [] d.acks r.toNat ++ [c.index] ∧ e.attached = d.attached) ∧
        (s.canonical → t.mod.mem.bytes at_ c.data.length = c.data.map Prod.fst ∧ ∀ a, a < at_ ∨ at_ + c.data.length ≤ a → t.mod.mem.byte a = s.mod.mem.byte a))) ∧
    (∃ t e, exec (.mcastAck q ⟨c.tag, units, {}⟩ r true) s = .next t ∧ t.pending = s.pending ∧ t.mod.mem = s.mod.mem ∧ (∀ u, ctx t.mod u = ctx s.mod u) ∧
      inQueue t.mod q.toNat c.queue = [e] ∧ e.attached = d.attached.filter (fun k => k != r.toNat) ∧ r.toNat ∈ e.detached ∧ e.fails = d.fails ++ [{ chunk := c.index, code := 3, addr := c.dst }])) ∧
  (∀ (s : State) (q : ClusterId) (queue : Nat) (d : SDesc) (at_ : Nat),
    let lim := (cluster s.mod q.toNat).mcTimeout.toNat
    let acked (r : Nat) : List Nat := tblGet [] d.acks r
    let lags (r : Nat) : Prop := ∃ k ∈ d.attached, (∀ j ∈ d.attached, (acked j).length ≤ (acked k).length) ∧ 8 ≤ ((acked k).filter (fun c => !(acked r).contains c)).length
    meshRuns s.mod = true → inQueue s.mod q.toNat queue = [d] → d.heldAt = some at_ → lim ≠ 0 →
    ∃ t e, exec (.mcastTimeout q queue) s = .next t ∧ t.pending = s.pending ∧ t.mod.now = max s.mod.now (at_ + lim) ∧ t.mod.mem = s.mod.mem ∧ (∀ u, ctx t.mod u = ctx s.mod u) ∧
      inQueue t.mod q.toNat queue = [e] ∧
      ((d.words.getD 0 0).getLsbD 30 = true → e.lagged = true ∧ (∀ r, r ∈ e.attached ↔ r ∈ d.attached ∧ ¬ lags r) ∧ ∀ r ∈ d.attached, lags r → r ∈ e.detached) ∧
      ((d.words.getD 0 0).getLsbD 30 = false → e = { d with heldAt := some t.mod.now } ∧
        tblGet 0 (cluster t.mod q.toNat).counters 3 = tblGet 0 (cluster s.mod q.toNat).counters 3 + 1))

/-- A codeword that is sent passes the check of its CRC. On an UP link: a DATA codeword with the seq expected continues the byte stream, the packets whole in it wait at the receiver, an LCTRL in it is taken, and an IDLE acknowledges it; one that cannot be corrected, whose CRC fails or whose seq is another is discarded, with one NAK. A packet in bytes reads back as itself. A NAK and a replay timeout resend what is not acknowledged, the first marked REPLAY; a seventeenth replay due after sixteen without progress, 100 us of silence and too many uncorrectable codewords take the link DOWN, and its reset starts. A trained link comes UP with what training found. A failed lane leaves width 1; no mode wider than FAB_CTL.mode is taken. Credits return up to the buffer. A time request leaves every 1 us. The flight and the offset of a reply are those of R533, and the parent link's offset steers the timebase by R628. One packet for each codeword, the IDLE at once (log 59) and the reply at once (log 41) are the model's choice. -/
def Obligations.LinksKeepTheirStreams : Prop :=
  (∀ (kind : BitVec 4) (seq ack : Byte) (body : List Byte), cwCrcOk (codewordOf kind seq ack body) = true ∧ (codewordOf kind seq ack body).bytes.length = 640 ∧
    sliceBytes (codewordOf kind seq ack body).bytes 0 636 = sliceBytes body 0 636) ∧
  (∀ (p : Packet) (rest : List Byte), PacketOk p → parsePacket (packetBytes p ++ rest) = some (p, rest)) ∧
  (∀ (s : State) (link : BitVec 7) (cw : Codeword),
    let l := link.toNat
    let k := linkOf s.mod l
    let all := k.rxBytes ++ sliceBytes cw.bytes 0 636
    let nak : List Output := if k.discarding then [] else [.codeword l (codewordOf 3 0 (k.rxNext - 1) [])]
    let data := cw.kind = 0 ∨ cw.kind = 2
    k.state = 2 →
    (15 < cw.symbolErrors → s.mod.now < k.uceFrom + 1000000 → ∃ t, exec (.codewordReceive link cw) s = .next t ∧
      LinkOnly s t l { k with uce := satAdd 8 k.uce 1, telUce := k.telUce + 1, uceMs := k.uceMs + 1, discarding := true } nak 0) ∧
    (cw.symbolErrors ≤ 15 → cw.kind.toNat ≤ 4 → cwCrcOk cw = false → ∃ t, exec (.codewordReceive link cw) s = .next t ∧ LinkOnly s t l { k with discarding := true } nak 0) ∧
    (cw.symbolErrors ≤ 15 → data → cwCrcOk cw = true → k.window = [] → cw.seq ≠ k.rxNext ∨ (k.discarding = true ∧ cw.kind = 0) →
      ∃ t, exec (.codewordReceive link cw) s = .next t ∧ LinkOnly s t l { k with lastValid := s.mod.now, discarding := true } nak 0) ∧
    (∀ (ps : List Packet) rest, cw.symbolErrors ≤ 15 → data → cwCrcOk cw = true → k.window = [] → cw.seq = k.rxNext → k.discarding = false ∨ cw.kind = 2 → parseStream all.length all = (ps.map Sum.inl, rest) →
      (∀ p ∈ ps, typeKnown p.type.toNat = true ∧ p.cls ≠ 0) → ∃ t, exec (.codewordReceive link cw) s = .next t ∧
      LinkOnly s t l { k with lastValid := s.mod.now, rxNext := k.rxNext + 1, discarding := false, rxBytes := rest, rxq := k.rxq ++ ps }
        [.codeword l (codewordOf 1 0 k.rxNext [])] 0) ∧
    (∀ d rest, cw.symbolErrors ≤ 15 → data → cwCrcOk cw = true → k.window = [] → cw.seq = k.rxNext → k.discarding = false ∨ cw.kind = 2 → parseStream all.length all = ([Sum.inr d], rest) →
      portIdle k → d.getD 1 0 = 1 → ∃ t x, exec (.codewordReceive link cw) s = .next t ∧
      LinkOnly s t l { k with lastValid := s.mod.now, rxNext := k.rxNext + 1, discarding := false, rxBytes := rest, credits := x } [.codeword l (codewordOf 1 0 k.rxNext [])] 0 ∧
      ∀ vc, creditOf (linkOf t.mod l) vc = if vc < 10 then min (bufferOf vc) (creditOf k vc + ofBytes (sliceBytes d (2 + 2 * vc) 2)) else creditOf k vc)) ∧
  (∀ (s : State) (link : BitVec 7) (ack : Byte) (b : List Byte) (pre : List (Byte × List Byte)) (w : Byte × List Byte) (rest : List (Byte × List Byte)),
    let l := link.toNat
    let k := linkOf s.mod l
    portIdle k → k.window = pre ++ (ack, b) :: w :: rest → (∀ x ∈ pre, x.1 ≠ ack) →
    ∃ t, exec (.nak link ack) s = .next t ∧ LinkOnly s t l { k with window := w :: rest, ackAt := s.mod.now, replays := 1, retries := satAdd 8 k.retries 1, telReplays := k.telReplays + 1 }
      (resent l (k.rxNext - 1) (w :: rest)) 0) ∧
  (∀ (s : State) (link : BitVec 7),
    let l := link.toNat
    let k := linkOf s.mod l
    let clear := k.state = 2 ∧ k.txq = [] ∧ ∀ r ∈ s.mod.rcv.resets, domainIn (.link link) r.d = false
    (k.state = 2 → k.window ≠ [] → k.replays < 16 → ∃ t, exec (.replayTimeout link) s = .next t ∧
      LinkOnly s t l { k with ackAt := timeTo s.mod (k.ackAt + 2000), replays := k.replays + 1, retries := satAdd 8 k.retries 1, telReplays := k.telReplays + 1 } (resent l (k.rxNext - 1) k.window) (k.ackAt + 2000)) ∧
    (clear → l < 96 → k.window ≠ [] → 16 ≤ k.replays → ∃ t, exec (.replayTimeout link) s = .next t ∧ GoesDown s t l (k.ackAt + 2000)) ∧
    (clear → l < 96 → ∃ t, exec (.linkSilenceTimeout link) s = .next t ∧ GoesDown s t l (k.lastValid + 100000)) ∧
    (clear → l < 96 → s.mod.fab.uceLimit.toNat < k.uceMs → ∃ t, exec (.linkUceLimit link) s = .next t ∧ GoesDown s t l 0)) ∧
  (∀ (s : State) (link : BitVec 7) (peer : BitVec 16) (pbundle lanes : BitVec 4) (margin : Byte), (linkOf s.mod link.toNat).state = 1 → mayTrain s.mod link.toNat = true →
    ∃ t, exec (.linkTrained link peer pbundle lanes margin) s = .next t ∧ t.pending = s.pending ∧
      let k := linkOf t.mod link.toNat
      k.state = 2 ∧ k.peer = peer ∧ k.pbundle = pbundle ∧ k.lanes = lanes ∧ k.margin = margin ∧ k.rxNext = 0 ∧ k.lastValid = s.mod.now ∧ k.timeAt = s.mod.now + 1000 ∧
      k.mode = (if lanes = 0xF ∨ s.mod.fab.mode ≠ 0 then s.mod.fab.mode else 1) ∧ t.mod.fab.floodSeq = s.mod.fab.floodSeq + 1 ∧
      t.mod.rcv.resets = s.mod.rcv.resets.eraseP (fun r => r.d == .link link && !r.draining) ∧ (∀ u, ctx t.mod u = ctx s.mod u)) ∧
  (∀ (s : State) (link : BitVec 7) (lane mode : BitVec 2) (counts : List (BitVec 16)),
    let l := link.toNat
    let k := linkOf s.mod l
    k.state = 2 →
    (∃ t, exec (.laneFailure link lane) s = .next t ∧ LinkOnly s t l { k with lanes := k.lanes &&& ~~~(1#4 <<< lane.toNat), mode := if k.mode = 0 then 1 else k.mode } [] 0) ∧
    (portIdle k → mode ≠ 3 → s.mod.fab.mode.toNat ≤ mode.toNat → (mode = 0 → k.lanes = 0xF) → ∃ t, exec (.linkModeChange link mode) s = .next t ∧ LinkOnly s t l { k with mode := mode } [] 0) ∧
    (mode.toNat < s.mod.fab.mode.toNat → exec (.linkModeChange link mode) s = .next s) ∧
    (portIdle k → ∃ t x, exec (.lctrlCreditReturn link counts) s = .next t ∧ LinkOnly s t l { k with credits := x } [] 0 ∧
      ∀ vc, creditOf (linkOf t.mod l) vc = if vc < 10 then min (bufferOf vc) (creditOf k vc + (counts.getD vc 0).toNat) else creditOf k vc)) ∧
  (∀ (s : State) (link : BitVec 7),
    let l := link.toNat
    let k := linkOf s.mod l
    let t16 : Int := 16 * (s.mod.tb.time.toNat : Int)
    portIdle k → k.window.length < 128 →
    (∃ t, exec (.timeExchangeTimer link) s = .next t ∧
      let now : Int := 16 * (t.mod.tb.time.toNat : Int)
      LinkOnly s t l (afterData { k with timeAt := k.timeAt + 1000, t1 := some now } (Lctrl.request.bytes 0) t.mod.now) (sentCtl l k .request now) k.timeAt) ∧
    (∃ t, exec (.timeRequest link) s = .next t ∧ LinkOnly s t l (afterData k ((Lctrl.reply t16).bytes t16) s.mod.now) (sentCtl l k (.reply t16) t16) 0)) ∧
  (∀ (s : State) (link : BitVec 7) (t1 t2 t3 : Int),
    let l := link.toNat
    let k := linkOf s.mod l
    let tb := s.mod.tb
    let t4 : Int := 16 * (tb.time.toNat : Int)
    let flight := halfOf ((t4 - t1) - (t3 - t2))
    let o := halfOf ((t2 - t1) - (t4 - t3))
    let ns := (o + 8) / 16
    let parent : Prop := s.mod.fab.root = false ∧ l / 8 = s.mod.fab.parent.toNat ∧ l % 8 < 8 ∧ ∀ j, j < l % 8 → (linkOf s.mod (l - l % 8 + j)).state ≠ 2
    let k' := { k with t1 := none, flight := BitVec.ofNat 8 (min 255 (flight / 16).toNat) }
    let run := if o.natAbs ≤ 64 then tb.lockRun + 1 else 0
    let taken (mps : Tbl Milepost) : Timebase := { tb with exchanged := true, lockRun := run, locked := decide (16 ≤ run), mps := mps }
    k.state = 2 → k.t1 = some t1 →
    (¬ parent → ∃ t, exec (.timeReply link t2 t3) s = .next t ∧ LinkOnly s t l k' [] 0) ∧
    (parent → ∃ t, exec (.timeReply link t2 t3) s = .next t ∧ t.pending = s.pending ∧ linkOf t.mod l = k' ∧ (∀ j, j ≠ l → linkOf t.mod j = linkOf s.mod j) ∧
      t.mod.fab.offset = BitVec.ofInt 32 o ∧ t.mod = { s.mod with fab := { s.mod.fab with links := t.mod.fab.links, offset := t.mod.fab.offset }, tb := t.mod.tb } ∧
      (o.natAbs ≤ 16 * tb.stepmin.toNat → t.mod.tb = if tb.slew then { taken t.mod.tb.mps with slewLeft := ns } else taken t.mod.tb.mps) ∧
      (∀ j, tblGet {} t.mod.tb.mps j = { tblGet {} tb.mps j with latch := (tblGet {} t.mod.tb.mps j).latch }) ∧ ((∀ e ∈ tb.mps, e.2.en = false ∨ e.2.snap = false) → t.mod.tb.mps = tb.mps) ∧
      (16 * tb.stepmin.toNat < o.natAbs → tb.exchanged = false ∨ ((∀ e ∈ tb.mps, e.2.en = false) ∧ jobsInStep s.mod = []) →
        t.mod.tb = { taken t.mod.tb.mps with time := tb.time + BitVec.ofInt 64 ns, slewLeft := 0, slewAt := 0 }) ∧
      (16 * tb.stepmin.toNat < o.natAbs → tb.exchanged = true → (∃ e ∈ tb.mps, e.2.en = true) ∨ jobsInStep s.mod ≠ [] → t.mod.tb = { taken t.mod.tb.mps with unsync := true, slewLeft := ns })))

/-- A request at a stale epoch is answered ABORTED, one that meets the fence of the module FENCED, one at a fenced target FENCED and one at a reserved address, at disabled HBM (log 19), or a poisoned WR at a register (log 64), with an error. WR and RD of a memory go on by units of 8 bytes, as many a turn as it names (log 102), and the last is answered with ACK, or with the bytes read; AMO computes and is answered with the old value (the op byte's width code is the model's, log 36). EVADD adds to its event counter; one of a stale epoch is dropped (log 37). A response reaches the access that awaits it, and a timeout answers it with TIMEOUT. A packet for another module goes on over the link that its route gives, or is discarded, counted and answered UNREACHABLE. A stuck packet is discarded. A flood is taken once: ROADBLOCK advances the epoch of an open job of which its source is a member and resets the threads of it, descriptors not running end ABORTED_REMOTE and running launches are to; READY and LINKSTATE are noted, PEER_LOST breaks endpoints; a neighbour of which every link is down is lost after 500 us. A flood key is held for 10 ms. -/
def Obligations.PacketsArePerformed : Prop :=
  (∀ (s : State) (link : BitVec 7) (p : Packet) (host : Option HostData) (units : Nat) (ups : Upsets),
    let m := applyUpsets s.mod ups
    let a := p.word2.toNat % 2 ^ 47
    let l := link.toNat
    meshRuns s.mod = true →
    (∀ e ∈ [(Instr.wr link p ⟨units, ups⟩, (1 : Byte), (0x10 : Byte)), (Instr.rd link p host ⟨units, ups⟩, 2, 0x11), (Instr.amoRequest link p ups, 3, 0x12)], p.type = e.2.1 → p.dst = s.mod.fab.id →
      m.fab.parts.any (fun x => x.p == p) = false →
      (m.rcv.resets.any (fun r => r.d == .module) = true → ∃ t, exec e.1 s = .next t ∧ t.mod.mem = m.mem ∧ Answers s t m link.toNat p (reply p e.2.2 1 false [])) ∧
      (m.rcv.resets.any (fun r => r.d == .module) = false → staleTags m p.job.toNat p.epoch = true →
        ∃ t, exec e.1 s = .next t ∧ t.mod.mem = m.mem ∧ Answers s t m link.toNat p (reply p e.2.2 4 false []))) ∧
    (∀ e ∈ [(Instr.wr link p ⟨units, ups⟩, (1 : Byte), (0x10 : Byte), p.data.length), (Instr.rd link p host ⟨units, ups⟩, 2, 0x11, p.len.toNat)], p.dst = s.mod.fab.id → Requests m p e.2.1 → 0 < e.2.2.2 → a % 4096 + e.2.2.2 ≤ 4096 →
      (∀ x y, regionOf a ≠ .hostWindow x y) → fencedAt m a m.now = true ∨ regionOf a = .reserved ∨ (regionOf a = .hbm ∧ disabled m 3 = true) ∨ (e.2.1 = 1 ∧ p.poison = true ∧ isRegister a = true) →
      ∃ t, exec e.1 s = .next t ∧ t.mod.mem = m.mem ∧ Answers s t m link.toNat p (reply p e.2.2.1 (if fencedAt m a m.now then 1 else 2) false [])) ∧
    (∀ done lo hi last, p.type = 1 → p.dst = s.mod.fab.id → m.rcv.resets.any (fun r => r.d == .module) = false → staleTags m p.job.toNat p.epoch = false → p.poison = false →
      0 < p.data.length → a % 4096 + p.data.length ≤ 4096 → fencedAt m a m.now = false → Sound m a → m.mem.wf = true → TurnOf m l p a p.data.length units done lo hi last →
      ∃ t, exec (.wr link p ⟨units, ups⟩) s = .next t ∧
        (last → Answers s t (partGone m l p) l p (reply p 0x10 0 false [])) ∧ (¬ last → PartKept s t m l p (done + max 1 units) []) ∧
        t.mod.mem.bytes lo (hi - lo) = (p.data.drop (lo - a)).take (hi - lo) ∧ ∀ b, b < lo ∨ hi ≤ b → t.mod.mem.byte b = m.mem.byte b) ∧
    (∀ done lo hi last, p.type = 2 → p.dst = s.mod.fab.id → m.rcv.resets.any (fun r => r.d == .module) = false → staleTags m p.job.toNat p.epoch = false →
      0 < p.len.toNat → a % 4096 + p.len.toNat ≤ 4096 → fencedAt m a m.now = false → Sound m a → TurnOf m l p a p.len.toNat units done lo hi last →
      let got := (partOfPacket m l p).got
      let d := m.mem.bytes lo (hi - lo)
      (∀ b ∈ got, b.2 = false) →
      ∃ t, exec (.rd link p host ⟨units, ups⟩) s = .next t ∧ t.mod.mem = m.mem ∧
        (last → Answers s t (partGone m l p) l p (reply p 0x11 0 false (got.map Prod.fst ++ d))) ∧
        (¬ last → PartKept s t m l p (done + max 1 units) (got ++ d.map (fun b => (b, false))))) ∧
    (∀ v, let n := if p.op.toNat / 16 = 0 then 8 else 4
      let old := ofBytes (m.mem.bytes a n)
      p.dst = s.mod.fab.id → Requests m p 3 → p.op.toNat / 16 ≤ 1 → p.op.toNat % 16 < 10 → a % n = 0 → p.data.length = 16 → regionOf a = .hbm → disabled m 3 = false → fencedAt m a m.now = false → m.mem.check = [] → m.mem.wf = true →
      atomicValue (p.op.toNat % 16) (8 * n) old (ofBytes (p.data.take n)) (ofBytes ((p.data.drop 8).take n)) = some v →
      ∃ t, exec (.amoRequest link p ups) s = .next t ∧ Answers s t m link.toNat p (reply p 0x12 0 false (toBytes 8 old)) ∧
        t.mod.mem.bytes a n = toBytes n v ∧ ∀ b, b < a ∨ a + n ≤ b → t.mod.mem.byte b = m.mem.byte b)) ∧
  (∀ (s : State) (link : BitVec 7) (p : Packet), p.type = 7 → p.dst = s.mod.fab.id →
    let n := p.word2.toNat % 65536
    (staleTags s.mod p.job.toNat p.epoch = true → ∃ t, exec (.evadd link p) s = .next t ∧ t.pending = s.pending ∧ t.mod.hq = s.mod.hq ∧ t.mod.mem = s.mod.mem ∧ t.mod.cores = s.mod.cores) ∧
    (staleTags s.mod p.job.toNat p.epoch = false → p.data.length = 8 → ∃ t, exec (.evadd link p) s = .next t ∧ t.pending = s.pending ∧
      tblGet 0 t.mod.hq.evc n = tblGet 0 s.mod.hq.evc n + BitVec.ofNat 32 (ofBytes p.data) ∧ (∀ j, j ≠ n → tblGet 0 t.mod.hq.evc j = tblGet 0 s.mod.hq.evc j) ∧ t.mod.mem = s.mod.mem ∧
      ∀ u, (ctx s.mod u).hold = none → ctx t.mod u = ctx s.mod u)) ∧
  (∀ (s : State) (link : BitVec 7) (p : Packet) (id : Nat) (a : Access) (q : FabReq), meshRuns s.mod = true → p.dst = s.mod.fab.id →
    s.mod.fab.reqs.find? (fun x => x.die == p.k && x.ftag == p.ftag) = some q → s.mod.fab.waiting.find? (fun x => x.2.k == p.k) = none → q.owner = .access id → s.mod.accs.find? (fun k => k.id == id) = some a →
    (∀ e ∈ [(Instr.ack link p, (0x10 : Byte)), (Instr.rdr link p, 0x11), (Instr.amor link p, 0x12)], p.type = e.2 →
      ∃ t, exec e.1 s = .next t ∧ t.pending = s.pending ∧ accFind t.mod id = some { a with performed := true, answer := some { status := p.status, data := p.data, poison := p.poison, ue := false } } ∧
        t.mod.fab.reqs = s.mod.fab.reqs.eraseP (fun x => x.die == p.k && x.ftag == p.ftag) ∧ t.mod.mem = s.mod.mem ∧ t.mod.cores = s.mod.cores) ∧
    (∃ t, exec (.transactionTimeout ⟨p.k, p.ftag⟩) s = .next t ∧ t.pending = s.pending ∧ accFind t.mod id = some { a with performed := true, answer := some { status := 5, data := [], poison := false, ue := false } } ∧
        t.mod.fab.reqs = s.mod.fab.reqs.eraseP (fun x => x.die == p.k && x.ftag == p.ftag) ∧ t.mod.mem = s.mod.mem ∧ t.mod.cores = s.mod.cores ∧ t.mod.now = timeTo s.mod (q.at_ + txtoNs s.mod))) ∧
  (∀ (s : State) (link : BitVec 7) (p : Packet) (h : Nat × Bool),
    let me := s.mod.fab.id.toNat
    let o := 8 * (2 * h.1 + if h.2 then 0 else 1) + p.k.toNat
    let here := coord s.mod me h.1
    let start := coord s.mod p.src.toNat h.1
    let p' := { p with vcd := if h.2 then decide (here < start) else decide (start < here) }
    p.dst ≠ s.mod.fab.id → isFlood p = false → typeKnown p.type.toNat = true → nextHop s.mod p.src.toNat me p.dst.toNat p.order p.rev = some h → o ≠ link.toNat →
    (portFree (linkOf s.mod o) p' → ∃ t, exec (.bypass link p) s = .next t ∧ t.pending = s.pending ∧ linkOf t.mod o = afterSend (linkOf s.mod o) p' s.mod.now ∧
      Frees (linkOf s.mod link.toNat) (linkOf t.mod link.toNat) p s.mod.now ∧
      t.mod = { s.mod with fab := { s.mod.fab with links := t.mod.fab.links }, out := t.mod.out }) ∧
    ((linkOf s.mod o).state ≠ 2 → (p.type ≠ 1 ∧ p.type ≠ 2 ∧ p.type ≠ 3 → ∃ t, exec (.bypass link p) s = .next t ∧ t.pending = s.pending ∧ t.mod.fab.discard = satAdd 16 s.mod.fab.discard 1 ∧
        t.mod = { s.mod with fab := { s.mod.fab with links := t.mod.fab.links, discard := t.mod.fab.discard }, out := t.mod.out }) ∧
      (p.type = 1 ∨ p.type = 2 ∨ p.type = 3 → p.src ≠ s.mod.fab.id → ∃ t m1, exec (.bypass link p) s = .next t ∧ t.pending = s.pending ∧ m1.fab.discard = satAdd 16 s.mod.fab.discard 1 ∧
        t.mod = (fabSend m1 (reply p (if p.type = 1 then 0x10 else if p.type = 2 then 0x11 else 0x12) 3 false [])).1 ∧ m1 = { s.mod with fab := m1.fab, out := m1.out }))) ∧
  (∀ (s : State) (link : BitVec 7) (p : Packet) (since : Nat) (rest : List (Packet × Nat)),
    let l := link.toNat
    let asks := p.type = 1 ∨ p.type = 2 ∨ p.type = 3
    let gone (m : Mod) : Prop := linkOf m l = { linkOf s.mod l with txq := rest } ∧ (∀ j, j ≠ l → linkOf m j = linkOf s.mod j) ∧ m.now = timeTo s.mod (since + 1000 * max 1 s.mod.fab.stuck.toNat) ∧
      m.fab.stuckCount = satAdd 16 s.mod.fab.stuckCount 1 ∧ m = { s.mod with now := m.now, tb := m.tb, fab := { s.mod.fab with links := m.fab.links, stuckCount := m.fab.stuckCount } }
    (linkOf s.mod l).txq = (p, since) :: rest →
    (¬ asks → ∃ t, exec (.packetStuck link) s = .next t ∧ t.pending = s.pending ∧ gone t.mod) ∧
    (asks → p.src ≠ s.mod.fab.id → ∃ t m, exec (.packetStuck link) s = .next t ∧ t.pending = s.pending ∧ gone m ∧
      t.mod = (fabSend m (reply p (if p.type = 1 then 0x10 else if p.type = 2 then 0x11 else 0x12) 3 false [])).1) ∧
    (∀ q id a, asks → p.src = s.mod.fab.id → s.mod.fab.reqs.find? (fun x => x.die == p.k && x.ftag == p.ftag) = some q → s.mod.fab.waiting.find? (fun x => x.2.k == p.k) = none → q.owner = .access id → s.mod.accs.find? (fun k => k.id == id) = some a →
      ∃ t m, exec (.packetStuck link) s = .next t ∧ t.pending = s.pending ∧ gone m ∧ accFind t.mod id = some { a with performed := true, answer := some { status := 3, data := [], poison := false, ue := false } } ∧
        t.mod = { m with accs := t.mod.accs, fab := { m.fab with reqs := s.mod.fab.reqs.eraseP (fun x => x.die == p.k && x.ftag == p.ftag) } })) ∧
  (∀ (s : State) (link : BitVec 7) (p : Packet), let l := link.toNat
    (∀ e ∈ [(Instr.roadblock link p, (0x20 : Byte)), (Instr.peerLost link p, 0x21), (Instr.ready link p, 0x22), (Instr.linkstate link p, 0x23)], p.type = e.2 → floodKey p ∈ (keysOf s.mod (l % 8)).map FloodEntry.key →
      ∃ t, exec e.1 s = .next t ∧ t.pending = s.pending ∧ t.mod = { s.mod with fab := { s.mod.fab with links := t.mod.fab.links }, out := t.mod.out }) ∧
    (∀ x, NewFlood s.mod l p 0x20 → tblFind s.mod.hq.jobs p.job.toNat = some x → x.epoch = p.epoch → isMemberOf s.mod x p.src.toNat = true → ∃ t, exec (.roadblock link p) s = .next t ∧
      t.pending = s.pending ∧ KeyHeld t l p s.mod.now ∧ tblFind t.mod.hq.jobs p.job.toNat = some { x with epoch := p.epoch + 1 } ∧
      (∀ r y, r ≠ s.mod.hq.nextRec → tblFind s.mod.hq.recs r = some y → y.job = p.job.toNat → y.state ≠ .done → y.op ≠ 11 ∨ y.state = .recorded →
        ∃ z, tblFind t.mod.hq.recs r = some z ∧
          (y.state ≠ .running ∨ (y.isLaunch = false ∧ (y.isMove = false ∨ moveDescOf s.mod r y = none)) → z.state = .done ∧ z.status = 7) ∧
          (y.isLaunch = true → y.state = .running → z.state = .running ∧ z.todo = [] ∧ z.blame.map Prod.fst = some 7)) ∧
      ∀ th ∈ jobThreads s.mod p.job.toNat, ∃ r ∈ t.mod.rcv.resets, domainIn (.thread (BitVec.ofNat 13 th)) r.d = true) ∧
    (NewFlood s.mod l p 0x20 → (∀ x, tblFind s.mod.hq.jobs p.job.toNat = some x → x.epoch ≠ p.epoch ∨ isMemberOf s.mod x p.src.toNat = false) → s.mod.mem.check = [] → s.mod.hq.journalClosed = false → ∃ t, exec (.roadblock link p) s = .next t ∧
      t.pending = s.pending ∧ KeyHeld t l p s.mod.now ∧ t.mod.hq.jobs = s.mod.hq.jobs ∧ t.mod.cores = s.mod.cores ∧ t.mod.rcv.resets = s.mod.rcv.resets ∧ t.mod.rcv.evSeq = s.mod.rcv.evSeq + 1) ∧
    (NewFlood s.mod l p 0x21 → s.mod.hq.journalClosed = false → s.mod.hq.jobs = [] → ∃ t, exec (.peerLost link p) s = .next t ∧ t.pending = s.pending ∧ KeyHeld t l p s.mod.now ∧
      t.mod.rcv.evSeq = s.mod.rcv.evSeq + 1 ∧ EndpointsBreak s t (p.word2.extractLsb' 32 16)) ∧
    (NewFlood s.mod l p 0x22 → s.mod.hq.journalClosed = false → ∃ t, exec (.ready link p) s = .next t ∧ t.pending = s.pending ∧ KeyHeld t l p s.mod.now ∧
      (p.word2.extractLsb' 32 16, s.mod.now) ∈ t.mod.fab.readies ∧ t.mod.rcv.evSeq = s.mod.rcv.evSeq + 1 ∧ t.mod.hq.jobs = s.mod.hq.jobs ∧ t.mod.cores = s.mod.cores ∧
      (1 < (p.word2.extractLsb' 8 8).toNat → 16 ≤ floodsWaiting (takeRx s.mod l p) (l % 8) → t.mod.fab.floodDrop = satAdd 16 s.mod.fab.floodDrop 1)) ∧
    (∀ i, NewFlood s.mod l p 0x23 → p.word2.getLsbD 60 = false → i < 64 → (∀ j, j < 64 → (tblGet 0 s.mod.fab.down j).getLsbD 63 = true → (tblGet 0 s.mod.fab.down j).extractLsb' 0 16 ≠ p.word2.extractLsb' 32 16) →
      (tblGet 0 s.mod.fab.down i).getLsbD 63 = false → p.word2.extractLsb' 52 8 ≠ 0 → ∃ t j, exec (.linkstate link p) s = .next t ∧ t.pending = s.pending ∧ KeyHeld t l p s.mod.now ∧ j ≤ i ∧
      (let e := tblGet 0 t.mod.fab.down j
       e.getLsbD 63 = true ∧ e.extractLsb' 0 16 = p.word2.extractLsb' 32 16 ∧ e.extractLsb' 48 4 = p.word2.extractLsb' 48 4 ∧ e.extractLsb' 32 8 = p.word2.extractLsb' 52 8) ∧
      (∀ k, k ≠ j → tblGet 0 t.mod.fab.down k = tblGet 0 s.mod.fab.down k) ∧ t.mod.mem = s.mod.mem) ∧
    (∀ i, let e := tblGet 0 s.mod.fab.down i
      let left := e.extractLsb' 32 8 &&& ~~~(p.word2.extractLsb' 52 8)
      let names (e : Word) : Prop := e.getLsbD 63 = true ∧ e.extractLsb' 0 16 = p.word2.extractLsb' 32 16 ∧ e.extractLsb' 48 4 = p.word2.extractLsb' 48 4
      NewFlood s.mod l p 0x23 → p.word2.getLsbD 60 = true → i < 64 → names e → (∀ j, j < i → ¬ names (tblGet 0 s.mod.fab.down j)) → ∃ t, exec (.linkstate link p) s = .next t ∧ t.pending = s.pending ∧ KeyHeld t l p s.mod.now ∧
      (if left = 0 then tblGet 0 t.mod.fab.down i = 0 else names (tblGet 0 t.mod.fab.down i) ∧ (tblGet 0 t.mod.fab.down i).extractLsb' 32 8 = left) ∧
      (∀ k, k ≠ i → tblGet 0 t.mod.fab.down k = tblGet 0 s.mod.fab.down k) ∧ t.mod.mem = s.mod.mem ∧ t.mod.cores = s.mod.cores)) ∧
  (∀ (s : State) (b : BitVec 4),
    let peer : BitVec 16 := BitVec.ofNat 16 (neighbour s.mod s.mod.fab.id.toNat (b.toNat / 2) (b.toNat % 2 == 0))
    let last := (List.range 8).foldl (fun x k => max x (linkOf s.mod (8 * b.toNat + k)).downAt) 0
    s.mod.fab.en = true → b.toNat < 12 → b ∉ s.mod.fab.lost → (∀ k, k < 8 → (linkOf s.mod (8 * b.toNat + k)).state = 0 ∨ (linkOf s.mod (8 * b.toNat + k)).state = 1) →
    s.mod.fab.resetRoadblocks.find? (fun e => e.1 == peer) = none → s.mod.hq.jobs = [] →
    ∃ t, exec (.peerLostDetect b) s = .next t ∧ t.pending = s.pending ∧ t.mod.fab.lost = s.mod.fab.lost ++ [b] ∧ t.mod.now = timeTo s.mod (last + 500000) ∧
      t.mod.fab.floodSeq = s.mod.fab.floodSeq + 1 ∧ EndpointsBreak s t peer) ∧
  (∀ (s : State) (die : BitVec 3) (e : FloodEntry) (rest : List FloodEntry), keysOf s.mod die.toNat = e :: rest → ∃ t, exec (.floodKeyExpiry die) s = .next t ∧ t.pending = s.pending ∧
    keysOf t.mod die.toNat = rest ∧ (∀ k, k ≠ die.toNat → keysOf t.mod k = keysOf s.mod k) ∧ t.mod.now = timeTo s.mod (e.at_ + 10000000) ∧
    t.mod = { s.mod with now := t.mod.now, tb := t.mod.tb, fab := { s.mod.fab with keys := t.mod.fab.keys } })

/-- A submission doorbell below the ring size sets tail and wakes the module from P2, and one at or above it stops the ring with err 1; a completion doorbell sets head. A fetch records the descriptors that are ready, those that R555 turns down complete at once, and head advances; an error, poison and 50 ms without a completion stop the ring with err 2. An entry is written at tail with its phase, tail advances and the interrupt follows as ithresh says; where the ring is off the entry is discarded and counted. The interrupt timer sends the interrupt, but for a ring with ithresh 0. A host writes the MSI-X table in BAR2, and a vector that is no longer masked sends what is pending on it. A Function Level Reset and PERST_N return a port's registers to reset and discard its entries. A host read through BAR4 returns the bytes of memory and a write writes them; a reserved address and a host window answer Unsupported Request, and before READY and in P2 it is aborted. An access, a chunk's request and an instruction fetch that time out end with an error. The model's choices: the layout and place of the table, the bits of AER and what a reset of a port keeps of them (log 106), Bus Master Enable clear after it (log 39), a read at S4 (log 120) and one with no bridge left (log 100). -/
def Obligations.HostRingsMove : Prop :=
  (∀ (s : State) (p : Bool) (ring : BitVec 12) (size : Nat) (v : Word),
    let n := ring.toNat
    let q := portOfHost s.mod p
    let i : BitVec 16 := v.setWidth 16
    let r := tblGet {} q.srings n
    let c := tblGet {} q.crings n
    let r' : SRing := if i.toNat < 2 ^ r.lsize.toNat then { r with tail := i } else { r with err := 1, en := false }
    portLive s.mod p = true →
    (size ≠ 4 → size ≠ 8 → exec (.submissionDoorbell p ring size v) s = .next s ∧ exec (.completionDoorbell p ring size v) s = .next s) ∧
    (size = 4 ∨ size = 8 →
      (s.mod.pwr.state ≠ 2 → ∃ t, exec (.submissionDoorbell p ring size v) s = .next t ∧ PortOnly s t p { q with srings := tblPut q.srings n r' } [] 0) ∧
      (s.mod.pwr.state = 2 → ∃ t, exec (.submissionDoorbell p ring size v) s = .next t ∧ t.pending = s.pending ∧ tblGet {} (portOfHost t.mod p).srings n = r' ∧ t.mod.pwr = { s.mod.pwr with waking := true }) ∧
      (∃ t, exec (.completionDoorbell p ring size v) s = .next t ∧
        PortOnly s t p { q with crings := tblPut q.crings n (if i.toNat < 2 ^ c.lsize.toNat then { c with head := i } else c) } [] 0))) ∧
  (∀ (s : State) (p : Bool) (ring : BitVec 12) (d : HostData),
    let n := ring.toNat
    let q := portOfHost s.mod p
    let r := tblGet {} q.srings n
    let k := fetchCount r
    let ask := readsOf q p (r.base.toNat + 64 * r.head.toNat) (64 * k)
    let stop : Port := { q with srings := tblPut q.srings n { r with err := 2, en := false } }
    mayFetch s.mod p n = true →
    (∀ b, d = .bytes b → ∃ t, exec (.descriptorFetch p ring d) s = .next t ∧ t.pending = s.pending ∧ t.mod.hq.nextRec = s.mod.hq.nextRec + k ∧
      tblGet {} (portOfHost t.mod p).srings n = { r with head := BitVec.ofNat 16 ((r.head.toNat + k) % 2 ^ r.lsize.toNat) } ∧ t.mod.out = s.mod.out ++ ask ∧
      (∀ i, i < k → let x := fetched s.mod p ring b i
        (checkRec s.mod x = none → tblFind t.mod.hq.recs (s.mod.hq.nextRec + i) = some x) ∧
        (∀ st, checkRec s.mod x = some st → tblFind t.mod.hq.recs (s.mod.hq.nextRec + i) = some { x with state := .done, status := st })) ∧
      (∀ j, j < s.mod.hq.nextRec → tblFind t.mod.hq.recs j = tblFind s.mod.hq.recs j) ∧ t.mod.cores = s.mod.cores ∧ t.mod.mem = s.mod.mem) ∧
    (d = .error ∨ d = .poison → ∃ t, exec (.descriptorFetch p ring d) s = .next t ∧ PortOnly s t p (if d = .poison then reports stop 12 else stop) ask 0) ∧
    (∃ t, exec (.descriptorFetchTimeout p ring) s = .next t ∧ PortOnly s t p (reports stop 14) ask (s.mod.now + 50000000))) ∧
  (∀ (s : State) (p : Bool) (ring : BitVec 12) (e : CEntry),
    let n := ring.toNat
    let q := portOfHost s.mod p
    let k := tblGet {} q.crings n
    let size := 2 ^ k.lsize.toNat
    let wrap := decide (size ≤ k.tail.toNat + 1)
    let head : BitVec 16 := if e.old then 0 else (tblGet {} q.srings e.ring.toNat).head
    let wrote := writesOf q p (k.base.toNat + 16 * k.tail.toNat) (entryBytes e k.phase head)
    let k' : CRing := { k with tail := BitVec.ofNat 16 ((k.tail.toNat + 1) % size), phase := k.phase != wrap, since := k.since + 1, firstAt := some (k.firstAt.getD s.mod.now) }
    let irq := k.ithresh ≠ 0 ∧ k.ithresh.toNat ≤ k.since + 1
    let rest := s.mod.hq.owed.eraseP (fun x => x.port == p && x.cring == ring)
    portMaster s.mod p = true → s.mod.sec.stage = 3 → s.mod.hq.owed.find? (fun x => x.port == p && x.cring == ring) = some e →
    (k.en = true → (size + k.tail.toNat - k.head.toNat % size) % size < size - 1 → ∃ t, exec (.completionEntryWrite p ring) s = .next t ∧ t.pending = s.pending ∧ t.mod.hq.owed = rest ∧
      (¬ irq → portOfHost t.mod p = { q with crings := tblPut q.crings n k' } ∧ t.mod.out = s.mod.out ++ wrote) ∧
      (irq → portOfHost t.mod p = (afterInterrupt q p n k').1 ∧ t.mod.out = s.mod.out ++ wrote ++ (afterInterrupt q p n k').2) ∧
      t.mod = { s.mod with hq := { s.mod.hq with port0 := t.mod.hq.port0, port1 := t.mod.hq.port1, owed := rest }, out := t.mod.out }) ∧
    (k.en = false → e.old = false → ∃ t, exec (.completionEntryWrite p ring) s = .next t ∧ t.pending = s.pending ∧ t.mod.hq.owed = rest ∧ portOfHost t.mod p = { q with noCq := q.noCq + 1 } ∧ t.mod.out = s.mod.out)) ∧
  (∀ (s : State) (p : Bool) (ring : BitVec 12) (at_ : Nat),
    let q := portOfHost s.mod p
    let k := tblGet {} q.crings ring.toNat
    portMaster s.mod p = true → k.firstAt = some at_ → k.itime ≠ 0 →
    (k.ithresh ≠ 0 → ∃ t, exec (.cqInterruptTimer p ring) s = .next t ∧
      PortOnly s t p (afterInterrupt q p ring.toNat k).1 (afterInterrupt q p ring.toNat k).2 (at_ + 1000 * k.itime.toNat)) ∧
    (k.ithresh = 0 → exec (.cqInterruptTimer p ring) s = .next s)) ∧
  (∀ (s : State) (p : Bool) (v : BitVec 11) (x : Word),
    let q := portOfHost s.mod p
    let o := 0x1000000 + 16 * v.toNat
    let old : MsixVec := tblGet {} q.msix v.toNat
    let new : MsixVec := { old with data := x.setWidth 32, masked := x.getLsbD 32 }
    let sends := v.toNat ∈ q.msixPending ∧ new.masked = false ∧ q.bme = true
    let changes (t : State) (k : Port) (out : List Output) : Prop := t.pending = s.pending ∧ portOfHost t.mod p = k ∧ portOfHost t.mod (!p) = portOfHost s.mod (!p) ∧
      t.mod = { s.mod with hq := { s.mod.hq with port0 := t.mod.hq.port0, port1 := t.mod.hq.port1 }, out := s.mod.out ++ out, answer := .none }
    portLive s.mod p = true →
    (∃ t, exec (.setupRegisterWrite (.host p) o 8 x) s = .next t ∧ changes t { q with msix := tblPut q.msix v.toNat { old with addr := x &&& ~~~3 } } []) ∧
    (∃ t, exec (.setupRegisterWrite (.host p) (o + 8) 8 x) s = .next t ∧
      (¬ sends → changes t { q with msix := tblPut q.msix v.toNat new } []) ∧
      (sends → changes t { q with msix := tblPut q.msix v.toNat new, msixPending := q.msixPending.filter (fun k => k != v.toNat) } [.msix p v.toNat new.addr new.data]))) ∧
  (∀ (s : State) (p : Bool), let q := portOfHost s.mod p
    (portLive s.mod p = true → (∃ t, exec (.functionLevelReset p) s = .next t ∧ PortResets s t p { bme := false, perst := q.perst, noCq := q.noCq, payload := q.payload, aer := q.aer } .none) ∧
      ∃ t, exec (.busMasterEnableSet p) s = .next t ∧ PortOnly { s with mod := { s.mod with answer := .none } } t p { q with bme := true } [] 0) ∧
    (portUp s.mod p = true → s.mod.sec.stage ≠ 2 → s.mod.sec.stage ≠ 3 → ∀ i ∈ [Instr.functionLevelReset p, .busMasterEnableSet p], exec i s = .next { s with mod := { s.mod with answer := .retryStatus } }) ∧
    (portUp s.mod p = false → ∀ i ∈ [Instr.functionLevelReset p, .busMasterEnableSet p], exec i s = .next s) ∧
    (∃ t, exec (.perstN p) s = .next t ∧ ∃ ans, PortResets s t p { bme := false, perst := true, noCq := q.noCq } ans) ∧ (∃ t, exec (.perstNRelease p) s = .next t ∧ PortOnly s t p { q with perst := false } [] 0)) ∧
  (∀ (s : State) (p : Bool) (a : Nat) (op : BarOp) (ups : Upsets),
    let m := applyUpsets s.mod ups
    let aborted (t : State) : Prop := t.pending = s.pending ∧ t.mod = barAnswers m p op .completerAbort 15
    let memory := regionOf a = .hbm ∨ (∃ q o, regionOf a = .cm q o) ∨ (∃ c o, regionOf a = .lm c o) ∨ (∃ c o, regionOf a = .sdm c o)
    s.mod.pwr.aoOn = true → s.mod.pwr.down = false → (portOfHost s.mod p).perst = false → disabled m 5 = false →
    (s.mod.sec.stage ≠ 3 → ∃ t, exec (.hostBar4Access p a op ups) s = .next t ∧ aborted t) ∧
    (s.mod.sec.stage = 3 → regionOf a = .reserved ∨ (∃ x y, regionOf a = .hostWindow x y) → exec (.hostBar4Access p a op ups) s = .next { s with mod := barAnswers m p op .unsupportedRequest 20 }) ∧
    (s.mod.sec.stage = 3 → memory → s.mod.pwr.state ≠ 0 → ∃ t, exec (.hostBar4Access p a op ups) s = .next t ∧ aborted t) ∧
    (s.mod.sec.stage = 3 → memory → meshRuns m = true → m.pwr.state = 0 → (∃ q, ingressOf m a = some q ∧ stewardReaches m q = false) → ∀ n, op = .read n →
      exec (.hostBar4Access p a op ups) s = .next { s with mod := { m with answer := .none } }) ∧
    (s.mod.sec.stage = 3 → memory → meshRuns m = false → m.pwr.state = 0 → ∀ n, op = .read n → ∃ t, exec (.hostBar4Access p a op ups) s = .next t ∧ t.pending = s.pending ∧
      (t.mod = { m with free := m.free + 1, answer := .none } ∨ t.mod = barAnswers { m with free := m.free + 1 } p op .completerAbort 15)) ∧
    (s.mod.sec.stage = 3 → memory → meshRuns s.mod = true → (∀ q, ingressOf m a = some q → stewardReaches m q = true) → s.mod.pwr.state = 0 → disabled m 3 = false → m.mem.check = [] → m.mem.granules = [] →
      (fencedAt m a m.now = true → ∃ t, exec (.hostBar4Access p a op ups) s = .next t ∧ aborted t) ∧
      (∀ n, op = .read n → a % 4096 + n ≤ 4096 → fencedAt m a m.now = false → ∃ t, exec (.hostBar4Access p a op ups) s = .next t ∧ t.pending = s.pending ∧
        t.mod.answer = .bytes 0 (m.mem.bytes a n) false ∧ t.mod.mem = m.mem ∧ ∀ u, ctx t.mod u = ctx m u) ∧
      (∀ d, op = .write d false → a % 4096 + d.length ≤ 4096 → fencedAt m a m.now = false → regionOf a = .hbm → m.mem.wf = true → ∃ t, exec (.hostBar4Access p a op ups) s = .next t ∧ t.pending = s.pending ∧
        t.mod.answer = .none ∧ t.mod.mem.bytes a d.length = d ∧ (∀ b, b < a ∨ a + d.length ≤ b → t.mod.mem.byte b = m.mem.byte b) ∧ ∀ u, ctx t.mod u = ctx m u))) ∧
  (∀ (s : State) (id : Nat) (a : Access),
    let window := ∃ x y, regionOf a.addr = .hostWindow x y
    let gone (t : State) (st : Byte) (at_ : Nat) : Prop := t.pending = s.pending ∧ accFind t.mod id = some { a with performed := true, answer := some { status := st, data := [], poison := false, ue := false } } ∧
      t.mod.now = timeTo s.mod at_ ∧ t.mod = { s.mod with accs := t.mod.accs, now := t.mod.now, tb := t.mod.tb }
    s.mod.accs.find? (fun k => k.id == id) = some a → a.answer = none → a.peer = none → a.present = true →
    (coresRun s.mod = true → ¬ window → a.kind.writes = false ∨ a.unitsDone = 0 → ∃ t, exec (.meshTransactionTimeout (.access id)) s = .next t ∧ gone t 5 (a.issuedAt + 1000 * max 1 s.mod.rcv.mto.toNat + (s.mod.pwr.pausedTotal - a.paused))) ∧
    (∀ x y, meshRuns s.mod = true → regionOf a.addr = .hostWindow x y → a.sent = true → ∃ t, exec (.hostWindowReadTimeout id) s = .next t ∧ t.pending = s.pending ∧
      accFind t.mod id = some { a with performed := true, answer := some { status := 2, data := [], poison := false, ue := false } } ∧ t.mod.now = timeTo s.mod (a.issuedAt + 50000000) ∧
      portOfHost t.mod x = reports (portOfHost s.mod x) 14 ∧ portOfHost t.mod (!x) = portOfHost s.mod (!x) ∧
      t.mod = { s.mod with accs := t.mod.accs, now := t.mod.now, tb := t.mod.tb, hq := { s.mod.hq with port0 := t.mod.hq.port0, port1 := t.mod.hq.port1 } })) ∧
  (∀ (s : State) (q : ClusterId) (tag : Nat) (c : Chunk) (d : SDesc) (w : ChunkPart) (rest : List ChunkPart),
    let a : Word := (if c.ready then c.dst else c.src) + BitVec.ofNat 64 w.off
    coresRun s.mod = true → chunkFind s.mod q.toNat tag = some c → descFind s.mod q.toNat c.queue c.seq = some d → chunkWaits c = w :: rest → c.ready = false ∨ (c.done = 0 ∧ d.op ≠ 5) →
    ∃ t, exec (.meshTransactionTimeout (.chunk q tag)) s = .next t ∧ t.pending = s.pending ∧ t.mod.now = timeTo s.mod (c.at_ + 1000 * max 1 s.mod.rcv.mto.toNat + (s.mod.pwr.pausedTotal - c.paused)) ∧
      chunkFind t.mod q.toNat tag = some (if c.ready then { c with failed := true, parts := c.parts.filter (fun p => !p.onMesh) } else { c with failed := true, reads := [], done := 0 }) ∧
      descFind t.mod q.toNat c.queue c.seq = some { d with stopped := true, fails := d.fails ++ [{ chunk := c.index, code := 3, addr := a }] } ∧ t.mod.mem = s.mod.mem ∧ t.mod.cores = s.mod.cores) ∧
  (∀ (s : State) (c : CoreId) (line : Nat) (pc : Word), let k := core s.mod c.toNat
    let th := 4 * c.toNat + k.cur
    coresRun s.mod = true → k.fetching = some (line, pc) → k.cur < 4 → ∃ t, exec (.meshTransactionTimeout (.fetch c)) s = .next t ∧ t.pending = s.pending ∧
      t.mod.now = timeTo s.mod (k.fetchAt + 1000 * max 1 s.mod.rcv.mto.toNat + (s.mod.pwr.pausedTotal - k.fetchPaused)) ∧ (core t.mod c.toNat).fetching = none ∧
      ctx t.mod th = (ctx s.mod th).checked [{ machineCheck 0x31 7 2 pc (pc &&& ~~~63) with status := 5 }] ∧ (∀ u, u ≠ th → ctx t.mod u = ctx s.mod u) ∧ t.mod.mem = s.mod.mem)

/-- The descriptor that starts is of the highest priority among those that may start. WAIT returns its counter, SIGNAL adds to a counter here or sends an EVADD, ends ERROR where no route exists, and waits while its port cannot send. A launch whose handle is not one of its job's is INVALID; one whose argument blocks read plain is handed to every core of its placement; on a core its threads start in the lowest free contexts with the values of R330 and R562, and the blocks stand at SDM 0xF000 and 0xF780. A launch that is over completes. COPY and FILL enter the host queue of their engine. MAP removes TLB entries; JOB_OPEN opens and JOB_CLOSE closes a job; ABORT_JOB raises DISPATCH and, after its grace time, resets the job's threads, advances its epoch and completes. LOAD_PROGRAM reads its image and ends with a handle or a report. A WAIT whose deadline passes ends TIMEOUT, another that does not run HUNG; a move drains for 100 us. A descriptor of a shared job that ends HUNG, POISONED or ERROR aborts the rest. The model's choices: NOT_OPEN of a descriptor whose job has closed as it is executed (log 38), the verdict as a load starts and VERIFY_TIMEOUT whatever it is (log 23), the masked table base (log 75). -/
def Obligations.DescriptorsExecute : Prop :=
  (∀ s : State, engineOn s.mod = true → startable s.mod ≠ [] → ∃ t r x y, exec .descriptorStart s = .next t ∧ t.pending = s.pending ∧ (r, x) ∈ startable s.mod ∧ (∀ e ∈ startable s.mod, recPrio s.mod e.2 ≤ recPrio s.mod x) ∧
    tblFind s.mod.hq.recs r = some y ∧ tblFind t.mod.hq.recs r = some { y with state := .started, order := nextOrder s.mod, result := (if x.op = 5 then (tblGet 0 s.mod.hq.evc (x.w 2 % 65536)).setWidth 64 else 0) } ∧
    (∀ k, k ≠ r → tblFind t.mod.hq.recs k = tblFind s.mod.hq.recs k) ∧ t.mod = { s.mod with hq := { s.mod.hq with recs := t.mod.hq.recs, lastRing := t.mod.hq.lastRing } }) ∧
  (∀ (s : State) (r : Nat) (x : Rec), Started s.mod r x 5 → ∃ t, exec (.wait r) s = .next t ∧ OnlyEnds s t r x 0 x.result) ∧
  (∀ (s : State) (r : Nat) (x : Rec), engineOn s.mod = true → nextStart s.mod = some (r, x) → tblFind s.mod.hq.recs r = some x → x.op = 5 → x.state = .recorded → ∃ t, exec (.waitPass r) s = .next t ∧
    Ends s t r { x with order := nextOrder s.mod } 0 ((tblGet 0 s.mod.hq.evc (x.w 2 % 65536)).setWidth 64)) ∧
  (∀ (s : State) (r : Nat) (x : Rec),
    let n := x.w 2 % 65536
    let here : Prop := x.w 2 / 2 ^ 16 % 2 = 0 ∨ x.w 2 / 2 ^ 48 % 2 ^ 16 = s.mod.fab.id.toNat
    let p := signalPacket x
    let waits := packetsWaiting s.mod < packetsWaiting (fabSend s.mod p).1
    let routed := (chooseRoute s.mod s.mod.fab.id.toNat (x.w 2 / 2 ^ 48 % 2 ^ 16) (x.w 2 % 8)).isSome
    Started s.mod r x 6 →
    (here → ∃ t, exec (.signal r) s = .next t ∧ Ends s t r x 0 0 ∧ tblGet 0 t.mod.hq.evc n = tblGet 0 s.mod.hq.evc n + BitVec.ofNat 32 (x.w 3) ∧ (∀ k, k ≠ n → tblGet 0 t.mod.hq.evc k = tblGet 0 s.mod.hq.evc k) ∧
      t.mod.mem = s.mod.mem ∧ ∀ u, (ctx s.mod u).hold = none → ctx t.mod u = ctx s.mod u) ∧
    (¬ here → waits → exec (.signal r) s = .next s) ∧ (¬ here → ¬ waits → ∃ t, exec (.signal r) s = .next t ∧ EndsJob s t r x (if routed then 0 else 3) 0) ∧
    (¬ here → ¬ waits → isShared s.mod x.job = false ∨ routed = true → ∃ t, exec (.signal r) s = .next t ∧ Ends s t r x (if routed then 0 else 3) 0 ∧ t.mod.fab = (fabSend s.mod p).1.fab ∧
      t.mod.out = (fabSend s.mod p).1.out ∧ t.mod.hq.evc = s.mod.hq.evc ∧ t.mod.mem = s.mod.mem ∧ t.mod.cores = s.mod.cores)) ∧
  (∀ (s : State) (r : Nat) (x : Rec) (hostA hostB : Option HostData) (j : Job), ∀ e ∈ [(Instr.launch r hostA, 1), (Instr.pairedLaunch r hostA hostB, 2)],
    let aA := x.words.getD (if e.2 = 1 then 3 else 6) 0
    let aB := x.words.getD 7 0
    let A := handleFor s.mod x.hA x.job
    let B := if e.2 = 1 then A else handleFor s.mod x.hB x.job
    Started s.mod r x e.2 →
    (tblFind s.mod.hq.jobs x.job = none → ∃ t, exec e.1 s = .next t ∧ OnlyEnds s t r x 0xA 0) ∧
    (tblFind s.mod.hq.jobs x.job = some j → A = none ∨ B = none → ∃ t, exec e.1 s = .next t ∧ OnlyEnds s t r x 5 0) ∧
    (∀ a b, tblFind s.mod.hq.jobs x.job = some j → A = some a → B = some b → e.2 = 2 → a.table ≠ [] → b.table ≠ [] → a.table ≠ b.table → ∃ t, exec e.1 s = .next t ∧ OnlyEnds s t r x 5 0) ∧
    (∀ a b, tblFind s.mod.hq.jobs x.job = some j → A = some a → B = some b → e.2 = 1 ∨ a.table = [] ∨ b.table = [] ∨ a.table = b.table → x.argsAsked = false → x.argParts = [] → argsOut s.mod r = false →
      ReadsPlain s.mod j.xbase aA x.nA → (e.2 = 2 → ReadsPlain s.mod j.xbase aB x.nB) → ∃ t ps, exec e.1 s = .next t ∧ t.pending = s.pending ∧
        tblFind t.mod.hq.recs r = some { x with state := .running, todo := placement x, argsAsked := true, argParts := ps, args := s.mod.mem.bytes aA.toNat x.nA, argsB := s.mod.mem.bytes aB.toNat x.nB } ∧
        (∀ c, (core t.mod c).launches = if c ∈ placement x then (core s.mod c).launches ++ [r] else (core s.mod c).launches) ∧ (∀ u, ctx t.mod u = ctx s.mod u) ∧ t.mod.mem = s.mod.mem)) ∧
  (∀ (s : State) (c : CoreId) (r : Nat) (x : Rec) (j : Job) (a b : Handle),
    let free := startContexts s.mod c.toNat
    let n := x.tA + x.tB
    let one := x.op = 1
    let sec := if one ∨ a.table ≠ [] then a.table else b.table
    engineOn s.mod = true → nextLaunch s.mod c.toNat = some (r, x) → tblFind s.mod.hq.jobs x.job = some j → tblFind s.mod.hq.handles (x.hA % 4096) = some a →
    (¬ one → tblFind s.mod.hq.handles (x.hB % 4096) = some b) → one ∨ x.op = 2 → n ≤ free.length → tableAllows s.mod c.toNat sec = true → replayWaits s.mod c.toNat = false → (cluster s.mod (c.toNat / 16)).search = none →
    (core s.mod c.toNat).inReset = false → disabled s.mod 2 = false → stewardReaches s.mod (c.toNat / 16) = true →
    ∃ t, exec (.launchCoreStart c) s = .next t ∧ t.pending = s.pending ∧
      (∀ i, i < x.tA → StartsAt s t (free.getD i 0) r i x j a (if one then (x.words.getD 2 0).getLsbD 34 else (x.words.getD 3 0).getLsbD 4) (if one then (x.words.getD 2 0).extractLsb' 35 2 else (x.words.getD 3 0).extractLsb' 5 2)) ∧
      (∀ i, i < x.tB → StartsAt s t (free.getD (x.tA + i) 0) r i x j b ((x.words.getD 3 0).getLsbD 7) ((x.words.getD 3 0).extractLsb' 8 2)) ∧
      (∀ u, u ∉ free.take n → ctx t.mod u = ctx s.mod u) ∧ (core t.mod c.toNat).launches = (core s.mod c.toNat).launches.filter (fun k => k != r) ∧
      (∀ y, tblFind s.mod.hq.recs r = some y → tblFind t.mod.hq.recs r = some { y with todo := y.todo.filter (fun k => k != c.toNat) }) ∧
      (s.canonical → s.mod.mem.granules = [] → x.args.length ≤ (if one then 3840 else 1920) → x.argsB.length ≤ (if one then 0 else 1920) →
        let at_ := sdmAddr c.toNat 0xF000
        t.mod.mem.bytes at_ x.args.length = x.args ∧ t.mod.mem.bytes (at_ + 0x780) x.argsB.length = (if one then [] else x.argsB) ∧ ∀ b, b < at_ ∨ at_ + 0x1000 ≤ b → t.mod.mem.byte b = s.mod.mem.byte b)) ∧
  (∀ (s : State) (r : Nat) (x : Rec), engineOn s.mod = true → tblFind s.mod.hq.recs r = some x → x.state = .running → x.op = 1 ∨ x.op = 2 → launchOver s.mod r x = true →
    let o := x.blame.getD (0, 0)
    ∃ t, exec (.launchComplete r) s = .next t ∧ EndsJob s t r x o.1 o.2 ∧ (∀ k, tblFind s.mod.hq.items k ≠ none → (tblFind t.mod.hq.items k).isSome = true) ∧
      (x.blame = none ∨ isShared s.mod x.job = false → (∀ k, tblFind t.mod.hq.items k = itemsSettled s.mod r k) ∧
        t.mod = { s.mod with hq := { s.mod.hq with recs := t.mod.hq.recs, owed := t.mod.hq.owed, items := t.mod.hq.items } })) ∧
  (∀ (s : State) (r : Nat) (x : Rec) (j : Job), ∀ e ∈ [(Instr.copy r, 3), (Instr.fill r, 4)], let q := x.w 2 / 2 ^ 48 % 128
    Started s.mod r x e.2 → tblFind s.mod.hq.jobs x.job = some j → (inQueue s.mod q 64).length < 16 → queueHeld s.mod q 64 = false →
    ∃ t d, exec e.1 s = .next t ∧ t.pending = s.pending ∧ tblFind t.mod.hq.recs r = some { x with state := .running } ∧ inQueue t.mod q 64 = inQueue s.mod q 64 ++ [d] ∧
      d.record = some r ∧ d.thread = none ∧ d.job = x.tags ∧ d.xbase = j.xbase ∧ d.words.take 6 = BitVec.ofNat 64 (x.w 2 - q * 2 ^ 48) :: (x.words.drop 3).take 5 ∧ d.nextChunk = 0 ∧ d.row = 0 ∧
      t.mod.mem = s.mod.mem ∧ ∀ u, ctx t.mod u = ctx s.mod u) ∧
  (∀ (s : State) (r : Nat) (x : Rec) (j : Job),
    let covers (e : TlbEntry) : Prop := e.base = tagBase j.xbase ∧ (x.w 3 = 0 ∨ (x.w 2 < (e.page + 1) * 2 ^ e.bits ∧ e.page * 2 ^ e.bits < x.w 2 + x.w 3))
    Started s.mod r x 8 → tblFind s.mod.hq.jobs x.job = some j → ∃ t, exec (.map r) s = .next t ∧ Ends s t r x 0 0 ∧
      (∀ c e, e ∈ (core t.mod c).tlb ↔ e ∈ (core s.mod c).tlb ∧ ¬ covers e) ∧ (∀ q e, e ∈ (cluster t.mod q).tlb2 ↔ e ∈ (cluster s.mod q).tlb2 ∧ ¬ covers e) ∧
      (∀ c, (core s.mod c).lastImage.isSome = true → x.job ∈ (core t.mod c).mappedSince) ∧ (∀ u, ctx t.mod u = ctx s.mod u) ∧ t.mod.mem = s.mod.mem) ∧
  (∀ (s : State) (r : Nat) (x : Rec),
    (Started s.mod r x 9 → (∀ j, tblFind s.mod.hq.jobs x.job = some j → ∃ t, exec (.jobOpen r) s = .next t ∧ OnlyEnds s t r x 5 0) ∧
      (tblFind s.mod.hq.jobs x.job = none → s.mod.hq.jobs.length < 4096 → ∃ t, exec (.jobOpen r) s = .next t ∧ Ends s t r x 0 0 ∧
        tblFind t.mod.hq.jobs x.job = some { epoch := x.ep, xbase := x.words.getD 2 0 &&& xbaseMask, stackBase := x.words.getD 3 0, stackBytes := BitVec.ofNat 64 (x.w 4 % 2 ^ 32), members := x.w 5, count := x.w 6 % 65536 } ∧
        (∀ k, k ≠ x.job → tblFind t.mod.hq.jobs k = tblFind s.mod.hq.jobs k) ∧ t.mod.mem = s.mod.mem ∧ t.mod.cores = s.mod.cores)) ∧
    (∀ j, Started s.mod r x 0xA → tblFind s.mod.hq.jobs x.job = some j → earlierDone s.mod r x = true → ∃ t, exec (.jobClose r) s = .next t ∧ Ends s t r x 0 0 ∧ tblFind t.mod.hq.jobs x.job = none ∧
      (∀ k, k ≠ x.job → tblFind t.mod.hq.jobs k = tblFind s.mod.hq.jobs k) ∧ (∀ i h, x.job ≠ 0 → tblFind t.mod.hq.handles i = some h → h.job.toNat = x.job → h.valid = false) ∧ t.mod.mem = s.mod.mem ∧ t.mod.cores = s.mod.cores) ∧
    (∀ j, Started s.mod r x 0xB → tblFind s.mod.hq.jobs x.job = some j → (∀ e ∈ s.mod.hq.recs, otherAbort r x e = false) → ∃ t, exec (.abortJob r) s = .next t ∧ t.pending = s.pending ∧
      tblFind t.mod.hq.recs r = some { x with state := .running, graceAt := some (s.mod.now + 1000 * (x.w 2 % 2 ^ 32)) } ∧
      (∀ u, ctx t.mod u = if u ∈ jobThreads s.mod x.job then { ctx s.mod u with pendInt := (ctx s.mod u).pendInt ||| 8 } else ctx s.mod u) ∧ t.mod.mem = s.mod.mem) ∧
    (∀ j at_, engineOn s.mod = true → tblFind s.mod.hq.recs r = some x → x.op = 0xB → x.state = .running → x.graceAt = some at_ → tblFind s.mod.hq.jobs x.job = some j → j.epoch = x.ep →
      ∃ t, exec (.abortGraceExpiry r) s = .next t ∧ t.pending = s.pending ∧ t.mod.now = timeTo s.mod at_ ∧ tblFind t.mod.hq.recs r = some { x with state := .done, status := 0, result := 0 } ∧
        tblFind t.mod.hq.jobs x.job = some { j with epoch := j.epoch + 1 } ∧ ThreadsReset s t x.job ∧
        ∀ k y, k ≠ r → tblFind s.mod.hq.recs k = some y → y.job = x.job → (y.state = .recorded → y.op ≠ 9 → ∃ z, tblFind t.mod.hq.recs k = some z ∧ z.state = .done ∧ z.status = 0xB) ∧
          (y.state = .recorded → y.op = 9 → tblFind t.mod.hq.recs k = some y) ∧
          (otherAbort r x (k, y) = true → ∃ z, tblFind t.mod.hq.recs k = some z ∧ z.state = .done ∧ z.status = 0) ∧
          (y.state = .running → y.isMove = true → moveDescOf s.mod k y = none → ∃ z, tblFind t.mod.hq.recs k = some z ∧ z.state = .done ∧ z.status = 6 ∧ z.result = BitVec.ofNat 64 (moveDone s.mod k)) ∧
          (∀ d, y.state = .running → y.isMove = true → y.blame = none → moveDescOf s.mod k y = some d → descDone s.mod y.cluster 64 d = false → tblFind t.mod.hq.recs k = some { y with blame := some (6, 0) }) ∧
          (y.state ≠ .recorded → y.state ≠ .running → y.state ≠ .done → y.isLaunch = true → ∃ z, tblFind t.mod.hq.recs k = some z ∧ z.state = .done ∧ z.status = 6))) ∧
  (∀ (s : State) (r : Nat) (x : Rec) (host : Option HostData) (base : Word),
    let a := x.words.getD 2 0
    let n := x.w 3 % 2 ^ 32
    Started s.mod r x 7 → loadBase s.mod x = some base → loadTurn s.mod x = true →
    a.getLsbD 63 = true ∨ ReadsPlain s.mod base a n → ∃ t l, exec (.loadProgram r host) s = .next t ∧ t.pending = s.pending ∧ tblFind t.mod.hq.recs r = some { x with state := .running } ∧ t.mod.hq.loading = s.mod.hq.loading ++ [l] ∧
      l.record = r ∧ l.at_ = s.mod.now ∧ t.mod.mem = s.mod.mem ∧ t.mod.cores = s.mod.cores ∧ (a.getLsbD 63 = true → l.report = some (reportOf 0xF1) ∧ l.ends = true) ∧
      (ReadsPlain s.mod base a n → l.image = imageHandle x (s.mod.mem.bytes a.toNat n) ∧
        (let v := judge s.mod x (s.mod.mem.bytes a.toNat n)
         l.ends = decide (v ≠ .late) ∧ (v = .accepted → l.report = none) ∧ ∀ w, v = .rejected w → l.report = some w))) ∧
  (∀ (s : State) (r : Nat) (x : Rec) (l : Loading), engineOn s.mod = true → tblFind s.mod.hq.recs r = some x → x.state = .running → s.mod.hq.loading.find? (fun k => k.record == r) = some l →
    (∀ slot k, (reusable s.mod l.image) = some (slot, k) → l.ends = true ∨ l.report = none → ∃ t, exec (.loadProgramComplete r) s = .next t ∧ Ends s t r x 0 (BitVec.ofNat 64 (k.seq * 4096 + slot)) ∧ t.mod.hq.handles = s.mod.hq.handles) ∧
    (∀ w, reusable s.mod l.image = none → l.ends = true → l.report = some w → ∃ t, exec (.loadProgramComplete r) s = .next t ∧ Ends s t r x 0xC w ∧ t.mod.hq.handles = s.mod.hq.handles) ∧
    (reusable s.mod l.image = none → l.ends = true → l.report = none → freeSlots s.mod = [] → ∃ t, exec (.loadProgramComplete r) s = .next t ∧ Ends s t r x 0xC (reportOf 0xF0)) ∧
    (reusable s.mod l.image = none → l.ends = true → l.report = none → freeSlots s.mod ≠ [] → ∃ t slot seq, exec (.loadProgramComplete r) s = .next t ∧ slot ∈ freeSlots s.mod ∧ 0 < seq ∧ seq < 2 ^ 20 ∧
      Ends s t r x 0 (BitVec.ofNat 64 (seq * 4096 + slot)) ∧ tblFind t.mod.hq.handles slot = some { l.image with seq := seq } ∧ (∀ k, k ≠ slot → tblFind t.mod.hq.handles k = tblFind s.mod.hq.handles k) ∧
      t.mod.hq.loads = if l.image.bypass then satAdd 16 s.mod.hq.loads 1 else s.mod.hq.loads) ∧
    (∃ t, exec (.verifyTimeout r) s = .next t ∧ Ends s t r x 0xC (reportOf 0xF3) ∧ t.mod.now = timeTo s.mod (l.at_ + 60000000000) ∧ t.mod.hq.handles = s.mod.hq.handles ∧ ∀ k ∈ t.mod.hq.loading, k.record ≠ r)) ∧
  (∀ (s : State) (r : Nat) (x : Rec), let at_ := x.at_ + 1000 * (x.w 1 / 2 ^ 32) + (pausedNow s.mod - x.paused)
    engineOn s.mod = true → s.mod.pwr.level < 3 → tblFind s.mod.hq.recs r = some x → x.w 1 / 2 ^ 32 ≠ 0 → x.state ≠ .done → x.graceAt = none → x.blame = none →
    (x.state = .recorded ∨ x.state = .started → ∃ t, exec (.descriptorDeadline r) s = .next t ∧ EndsJob s t r x (if x.op = 5 then 9 else 8) 0 ∧ t.mod.now = timeTo s.mod at_ ∧
      (x.op = 5 ∨ isShared s.mod x.job = false → t.mod.cores = s.mod.cores ∧ t.mod.mem = s.mod.mem)) ∧
    (x.state = .running → x.op = 3 ∨ x.op = 4 → moveDescOf s.mod r x = none → ∃ t, exec (.descriptorDeadline r) s = .next t ∧ EndsJob s t r x 8 (BitVec.ofNat 64 (moveDone s.mod r)) ∧ t.mod.now = timeTo s.mod at_) ∧
    (∀ d, x.state = .running → x.op = 3 ∨ x.op = 4 → moveDescOf s.mod r x = some d → ∃ t d', exec (.descriptorDeadline r) s = .next t ∧ t.pending = s.pending ∧ t.mod.now = timeTo s.mod at_ ∧
      tblFind t.mod.hq.recs r = some { x with blame := some (8, 0), graceAt := some (t.mod.now + 100000) } ∧ moveDescOf t.mod r x = some d' ∧ d' = { d with stopped := true } ∧ t.mod.mem = s.mod.mem)) ∧
  (∀ (s : State) (r : Nat) (x : Rec) (d : SDesc) (at_ : Nat) (v : Word), engineOn s.mod = true → s.mod.pwr.level < 3 → tblFind s.mod.hq.recs r = some x → x.w 1 / 2 ^ 32 ≠ 0 → x.state = .running → x.op = 3 ∨ x.op = 4 →
    x.blame = some (8, v) → x.graceAt = some at_ → moveDescOf s.mod r x = some d →
    (∀ c ∈ (cluster s.mod x.cluster).chunks, c.queue = 64 → c.seq = d.seq → c.ready = false ∨ c.done = 0) →
    ∃ t, exec (.descriptorDeadline r) s = .next t ∧ t.pending = s.pending ∧ t.mod.now = timeTo s.mod at_ ∧ (∀ c ∈ (cluster t.mod x.cluster).chunks, c.queue ≠ 64 ∨ c.seq ≠ d.seq) ∧
      t.mod.mem = s.mod.mem ∧ t.mod.cores = s.mod.cores ∧ tblFind t.mod.hq.recs r = some x)

/-- A reset that no reset under way covers drains for at most 100 us and takes over those inside its domain; no thread of the domain issues. One that is covered changes nothing. When the drain ends the limit runs: a thread reset returns its context to the reset state, a core reset its four contexts and caches, a cluster and a die reset their cores and engines, and one caused by a hang begins a search; a link takes its reset values and trains; a stack keeps its contents; a module reset ends every thread, every link and handle, completes launches, keeps HBM as its addresses name it (log 118) and begins the boot; shared jobs in step are aborted on every member first. A reset that completes leaves the cores to run and writes its record. At its limit a link stays DOWN, the module asserts FATAL_N, and any other escalates. DBG_RESET starts the reset it names, ignores go while busy and answers 2 for an invalid target. MOD_RESET_N starts a module reset, and its release lets it proceed. The model's choices: the end of 10 us of MOD_RESET_N and its release (log 22), result 1 of a link past its limit (log 17). -/
def Obligations.ResetsRun : Prop :=
  (∀ s : State, powered s.mod = true → ∀ e ∈ [(fun (u : Nat) (_ : Bool) => (Instr.threadReset (BitVec.ofNat 13 u), Domain.thread (BitVec.ofNat 13 u), false)), (fun u _ => (.coreReset (BitVec.ofNat 11 u), .core (BitVec.ofNat 11 u), false)),
      (fun u h => (.clusterReset (BitVec.ofNat 7 u) h, .cluster (BitVec.ofNat 7 u), h)), (fun u h => (.dieReset (BitVec.ofNat 3 u) h, .die (BitVec.ofNat 3 u), h)), (fun u _ => (.hbmStackReset (BitVec.ofNat 5 u), .stack (BitVec.ofNat 5 u), false))],
    ∀ u h, let d := (e u h).2.1
      (Uncovered s.mod d → ∃ t, exec (e u h).1 s = .next t ∧ Begins s t d (e u h).2.2 false ∧ t.mod = { s.mod with rcv := { s.mod.rcv with resets := t.mod.rcv.resets } }) ∧
      (¬ Uncovered s.mod d → exec (e u h).1 s = .next s)) ∧
  (∀ s : State, s.mod.pwr.aoOn = true → s.mod.pwr.down = false → s.mod.pwr.tripped = false → Uncovered s.mod .module →
    (jobsInStep s.mod = [] → ∃ t, exec .moduleReset s = .next t ∧ Begins s t .module false false ∧ t.mod = { s.mod with rcv := { s.mod.rcv with resets := t.mod.rcv.resets } }) ∧
    ((s.mod.hq.jobs.map Prod.fst).Nodup → ∃ t, exec .moduleReset s = .next t ∧ t.pending = s.pending ∧ t.mod.now = s.mod.now ∧ (∃ r ∈ t.mod.rcv.resets, r.d = .module ∧ r.draining = true ∧ r.drainAt = s.mod.now + 100000) ∧
      t.mod.fab.floodSeq = s.mod.fab.floodSeq + BitVec.ofNat _ (jobsInStep s.mod).length ∧ ∀ j ∈ jobsInStep s.mod, (∀ x, tblFind s.mod.hq.jobs j = some x → tblFind t.mod.hq.jobs j = some { x with epoch := x.epoch + 1 }) ∧
        ∀ k z, k ≠ s.mod.hq.nextRec → tblFind s.mod.hq.recs k = some z → z.job = j → (z.state = .recorded → ∃ w, tblFind t.mod.hq.recs k = some w ∧ w.state = .done ∧ w.status = 7) ∧
          (z.isLaunch = true → z.state = .running → ∃ w, tblFind t.mod.hq.recs k = some w ∧ w.state = .running ∧ w.todo = [] ∧ w.blame.map Prod.fst = some 7)) ∧
    (∃ t, exec .modResetN s = .next t ∧ t.pending = s.pending ∧ t.mod.pins.modReset = true ∧ t.mod.now = s.mod.now + 10000 ∧ ∃ r ∈ t.mod.rcv.resets, r.d = .module ∧ r.draining = true ∧ r.drainAt = t.mod.now + 100000)) ∧
  (∀ s : State,
    (s.mod.pwr.down = false → ∃ t, exec .modResetNRelease s = .next t ∧ t.pending = s.pending ∧ t.mod = { s.mod with pins := { s.mod.pins with modReset := false } }) ∧
    (∀ r, s.mod.pins.modReset = true → s.mod.pwr.down = true → s.mod.rcv.resets = [r] → r.d = .module → r.draining = false → ∃ t, exec .modResetNRelease s = .next t ∧ t.pending = s.pending ∧ t.mod.pins.modReset = false ∧
      t.mod.pwr.down = false ∧ t.mod.rcv.resets = [{ r with limitAt := s.mod.now + 6000000000 }] ∧ t.mod.mem = s.mod.mem ∧ t.mod.hq = s.mod.hq)) ∧
  (∀ (s : State) (link : BitVec 7), let k := linkOf s.mod link.toNat
    (k.state = 2 → k.txq = [] → Uncovered s.mod (.link link) → ∃ t, exec (.linkReset link) s = .next t ∧ GoesDown s t link.toNat 0) ∧
    (k.state = 0 → mayTrain s.mod link.toNat = true → Uncovered s.mod (.link link) → ∃ t r, exec (.linkReset link) s = .next t ∧ t.pending = s.pending ∧ t.mod.now = timeTo s.mod (k.downAt + 10000000000) ∧
      t.mod.rcv.resets = s.mod.rcv.resets ++ [r] ∧ r.d = .link link ∧ r.draining = true ∧ r.drainAt = t.mod.now + 100000)) ∧
  (∀ (s : State) (r : Reset), let m := s.mod
    m.rcv.resets.find? (fun x => x.d == r.d && x.draining) = some r →
    (drainWaits m r.d = true → exec (.kerbDrainEnd r.d) s = .next s) ∧ (drainWaits m r.d = false →
    (∀ th, r.d = .thread th → ∃ t, exec (.kerbDrainEnd r.d) s = .next t ∧ Drained s t r ∧ (if r.kill then ContextKilled s t th.toNat else ContextReset s t th.toNat) ∧ (∀ u, u / 4 ≠ th.toNat / 4 → ctx t.mod u = ctx m u) ∧ HbmKept s t) ∧
    (∀ c, r.d = .core c → ∃ t, exec (.kerbDrainEnd r.d) s = .next t ∧ Drained s t r ∧ (∀ i, i < 4 → ContextReset s t (4 * c.toNat + i)) ∧ (∀ u, u / 4 ≠ c.toNat → ctx t.mod u = ctx m u) ∧ HbmKept s t ∧
      (let k := core t.mod c.toNat
       k.inReset = true ∧ k.icache = [] ∧ k.dcache = [] ∧ k.tlb = [] ∧ k.dtable = [] ∧ k.conf = false ∧ k.quantum = 0x10000 ∧ k.dfBase = (core m c.toNat).dfBase ∧ ∀ n, (tblGet {} k.queues n).isOpen = false)) ∧
    (∀ q, r.d = .cluster q → r.hang = false → ∃ t, exec (.kerbDrainEnd r.d) s = .next t ∧ Drained s t r ∧ (∀ u, u / 64 = q.toNat → ContextReset s t u) ∧ (∀ u, u / 64 ≠ q.toNat → ctx t.mod u = ctx m u) ∧ HbmKept s t ∧
      (let k := cluster t.mod q.toNat
       k.dqs = [] ∧ k.chunks = [] ∧ k.tlb2 = [] ∧ k.mcTimeout = 0x186A0 ∧ k.ce = (cluster m q.toNat).ce ∧ k.counters = (cluster m q.toNat).counters)) ∧
    (∀ q, r.d = .cluster q → r.hang = true → (cluster m q.toNat).search = none → (cluster m q.toNat).lastSearch.1 = [] → (∀ e ∈ m.hq.recs, e.2.cls ≠ 2) → ∃ t, exec (.kerbDrainEnd r.d) s = .next t ∧ Drained s t r ∧
      (cluster t.mod q.toNat).search = if suspectsOf m q.toNat = [] then none else some { todo := suspectsOf m q.toNat, trial := none, until_ := 0, cleared := [] }) ∧
    (∀ k, r.d = .die k → r.hang = false → ∃ t, exec (.kerbDrainEnd r.d) s = .next t ∧ Drained s t r ∧ (∀ u, u / 1024 = k.toNat → ContextReset s t u) ∧ (∀ u, u / 1024 ≠ k.toNat → ctx t.mod u = ctx m u) ∧ HbmKept s t ∧
      ∀ q, q / 16 = k.toNat → (cluster t.mod q).dqs = [] ∧ (cluster t.mod q).tlb2 = [] ∧ (cluster t.mod q).ce = 0 ∧ (cluster t.mod q).counters = []) ∧
    (∀ x, r.d = .stack x → ∃ t, exec (.kerbDrainEnd r.d) s = .next t ∧ Drained s t r ∧ t.mod.mem = m.mem ∧ ∀ u, ctx t.mod u = ctx m u) ∧
    (∀ l, r.d = .link l → ∃ t, exec (.kerbDrainEnd r.d) s = .next t ∧ Drained s t r ∧ t.mod.mem = m.mem ∧ (∀ u, ctx t.mod u = ctx m u) ∧
      (let k := linkOf m l.toNat
       linkOf t.mod l.toNat = { ({} : Link) with state := if mayTrain m l.toNat then 1 else k.state, downAt := k.downAt, lastValid := k.lastValid, rxq := k.rxq, telReplays := k.telReplays, telUce := k.telUce })) ∧
    (r.d = .module → m.pins.modReset = false → ∃ t, exec (.kerbDrainEnd r.d) s = .next t ∧ Drained s t r ∧ (∀ u, (ctx t.mod u).live = false) ∧ (∀ l, (linkOf t.mod l).state = 0) ∧ t.mod.fab.id = m.fab.id ∧ t.mod.tb.time = 0 ∧
      (∀ e ∈ t.mod.hq.handles, e.2.valid = false) ∧ (∀ p, (portOfHost t.mod p).srings = [] ∧ (portOfHost t.mod p).crings = []) ∧ t.mod.hq.evc = [] ∧ t.mod.pwr.down = false ∧ t.mod.hq.jobs = m.hq.jobs ∧ t.mod.rcv.evHead = 0 ∧ t.mod.rcv.evTail = 0 ∧ t.mod.sec.stage = 0 ∧
      t.mod.place = [] ∧ HbmKept s t ∧ (∀ e ∈ t.mod.cores, e.2.inReset = true) ∧
      ∀ i x, tblFind m.hq.recs i = some x → x.op = 1 ∨ x.op = 2 → x.state ≠ .done → ∃ y, tblFind t.mod.hq.recs i = some y ∧ y.state = .done ∧
        y.status = (if x.state = .recorded then 5 else if x.blame.map Prod.fst = some 7 then 7 else 6) ∧
        (x.state ≠ .recorded → x.blame = none → y.result = BitVec.ofNat 64 (firstThread (recordThreads m i)))))) ∧
  (∀ (s : State) (d : Domain) (r : Reset), s.mod.rcv.resets.find? (fun x => x.d == d && !x.draining) = some r → (∀ l, d ≠ .link l) → d ≠ .module → (∀ th, d = .thread th → (cluster s.mod (th.toNat / 64)).search = none) →
    ∃ t, exec (.resetComplete d) s = .next t ∧ t.pending = s.pending ∧ t.mod.rcv.resets = s.mod.rcv.resets.eraseP (fun x => x.d == d && !x.draining) ∧ (s.mod.hq.journalClosed = false → t.mod.rcv.evSeq = s.mod.rcv.evSeq + 1) ∧
      ((∀ th, d ≠ .thread th) → ∀ c, domainHolds d (4 * c) = true → (core t.mod c).inReset = false) ∧ (∀ u, ctx t.mod u = ctx s.mod u) ∧
      (r.dbg = true → t.mod.rcv.busy = false ∧ t.mod.rcv.result = if r.escalated then 1 else 0)) ∧
  (∀ (s : State) (d : Domain) (r : Reset), s.mod.rcv.resets.find? (fun x => x.d == d && !x.draining) = some r →
    (∀ l, d = .link l → ∃ t, exec (.resetLimitExpiry d) s = .next t ∧ t.pending = s.pending ∧ t.mod.now = timeTo s.mod r.limitAt ∧ (linkOf t.mod l.toNat).state = 0 ∧ (linkOf t.mod l.toNat).downAt = t.mod.now ∧
      (∀ x ∈ t.mod.rcv.resets, x.d ≠ d) ∧ (r.dbg = true → t.mod.rcv.busy = false ∧ t.mod.rcv.result = 1) ∧ t.mod.mem = s.mod.mem ∧ t.mod.cores = s.mod.cores) ∧
    (d = .module → ∃ t, exec (.resetLimitExpiry d) s = .next t ∧ t.pending = s.pending ∧ t.mod.now = timeTo s.mod r.limitAt ∧ t.mod.pins.fatal = (s.mod.pins.fatal || !s.mod.pins.modReset) ∧ t.mod.rcv = s.mod.rcv) ∧
    (∀ e, escalation d = some e → (e = .module → jobsInStep s.mod = []) → Uncovered s.mod e → s.mod.hq.journalClosed = false → ∃ t, exec (.resetLimitExpiry d) s = .next t ∧ t.pending = s.pending ∧ t.mod.now = timeTo s.mod r.limitAt ∧ t.mod.rcv.evSeq = s.mod.rcv.evSeq + 1 ∧
      (∃ x ∈ t.mod.rcv.resets, x.d = e ∧ x.draining = true ∧ x.drainAt = t.mod.now + 100000 ∧ x.escalated = true ∧ (r.hang = true → x.hang = true) ∧ (r.dbg = true → x.dbg = true)) ∧ (∀ x ∈ t.mod.rcv.resets, x.d ≠ d) ∧ t.mod.cores = s.mod.cores)) ∧
  (∀ (s : State) (a : RegAccess), wholeWrite a = true → AoReachable s.mod 0xF00208 →
    let dom : BitVec 3 := a.value.extractLsb' 56 3
    let tgt : BitVec 14 := a.value.extractLsb' 0 14
    let go := a.value.getLsbD 63
    let stored : Recovery := { s.mod.rcv with domain := dom, target := tgt }
    (go = true → s.mod.rcv.busy = true → exec (.dbgResetWrite a) s = .next { s with mod := { s.mod with answer := .none } }) ∧
    (go = false → exec (.dbgResetWrite a) s = .next { s with mod := { s.mod with rcv := stored, answer := .none } }) ∧
    (go = true → s.mod.rcv.busy = false → domainFrom dom.toNat tgt.toNat = none → exec (.dbgResetWrite a) s = .next { s with mod := { s.mod with rcv := { stored with result := 2 }, answer := .none } }) ∧
    (∀ d, go = true → s.mod.rcv.busy = false → domainFrom dom.toNat tgt.toNat = some d → (∀ l, d ≠ .link l) → d ≠ .module → Uncovered s.mod d → ∃ t, exec (.dbgResetWrite a) s = .next t ∧ Begins s t d false true ∧
      t.mod = { s.mod with rcv := { stored with busy := true, result := 0, resets := t.mod.rcv.resets }, answer := .none }))

/-- The progress watchdog of a core, after 2^24 cycles, resets its cluster with the cause of a hang; a heartbeat is noted, and a die without one for DBG_RECCTL.hbto is reset. A lost thread of IDEMPOTENT work starts again in the lowest free context of its core at the entry bundle with s2 = 0, one of CHECKPOINT work with s2 = 1 and its commit record in s24 to s31; ONCE work ends ABORTED, and a loss beyond the budget ends the descriptor with a record. A lost COPY or FILL enters its queue again; an item of a descriptor that ends anyway only ends (log 16). A heartbeat without a bridge is not seen (log 100). A trial takes the oldest suspect left and ends with its probation: the suspect is cleared, its contexts halt while others are tried, and the search ends with the last. A commit stores the 64 bytes of a VSTG as the record of the work item. That the watchdog's count restarts as it fires is the model's choice (log 42). -/
def Obligations.LostWorkIsReplayed : Prop :=
  (∀ (s : State) (c : CoreId),
    let q : ClusterId := BitVec.ofNat 7 (c.toNat / 16)
    s.mod.rcv.pwd = true → coresRun s.mod = true → (core s.mod c.toNat).inReset = false → (∃ u ∈ runningThreads s.mod c.toNat, threadFenced s.mod u = false) → (cluster s.mod (c.toNat / 16)).search = none →
    Uncovered s.mod (.cluster q) → ∃ t r, exec (.progressWatchdog c) s = .next t ∧ t.pending = s.pending ∧ (core t.mod c.toNat).cycle = max (core s.mod c.toNat).cycle ((core s.mod c.toNat).lastIssue + 2 ^ 24) ∧
      (core t.mod c.toNat).lastIssue = (core t.mod c.toNat).cycle ∧ r ∈ t.mod.rcv.resets ∧ r.d = .cluster q ∧ r.draining = true ∧ r.hang = true ∧ (∀ u, u / 4 ≠ c.toNat → ctx t.mod u = ctx s.mod u) ∧
      t.mod.rcv = { s.mod.rcv with resets := t.mod.rcv.resets }) ∧
  (∀ (s : State) (die : BitVec 3),
    (meshRuns s.mod = true → disabled s.mod 2 = false → stewardReaches s.mod (16 * die.toNat) = true → Uncovered s.mod (.die die) → exec (.dispatcherHeartbeat die) s = .next { s with mod := { s.mod with rcv := { s.mod.rcv with beats := tblPut s.mod.rcv.beats die.toNat s.mod.now } } }) ∧
    (¬ Uncovered s.mod (.die die) ∨ disabled s.mod 2 = true ∨ stewardReaches s.mod (16 * die.toNat) = false → exec (.dispatcherHeartbeat die) s = .next s) ∧
    (engineOn s.mod = true → disabled s.mod 2 = false → Uncovered s.mod (.die die) → ∃ t, exec (.heartbeatTimeout die) s = .next t ∧ t.pending = s.pending ∧
      t.mod.now = timeTo s.mod (tblGet 0 s.mod.rcv.beats die.toNat + 100000 * max 1 s.mod.rcv.hbto.toNat) ∧
      (∃ r ∈ t.mod.rcv.resets, r.d = .die die ∧ r.draining = true ∧ r.drainAt = t.mod.now + 100000 ∧ r.hang = true) ∧ t.mod.cores = s.mod.cores ∧ t.mod.mem = s.mod.mem)) ∧
  (∀ (s : State) (i : Nat) (it : Item) (x : Rec) (j : Job) (h : Handle) (u : Nat),
    let m := s.mod
    LostItem m i it x → it.core < 2048 →
    (x.cls = 2 → ∃ t, exec (.workItemReplay i) s = .next t ∧ LaunchEnds s t i it x 6 0) ∧
    (x.cls ≠ 2 → m.rcv.budget.toNat ≤ it.replays → m.hq.journalClosed = false → ∃ t, exec (.workItemReplay i) s = .next t ∧ LaunchEnds s t i it x (if it.lostCode = 0x31 then 1 else 3) it.lostCode.toNat ∧
      t.mod.rcv.evSeq = m.rcv.evSeq + 1) ∧
    (∀ rest, x.cls ≠ 2 → it.replays < m.rcv.budget.toNat → tblFind m.hq.jobs x.job = some j → tblFind m.hq.handles ((if it.imageB then x.hB else x.hA) % 4096) = some h → startContexts m it.core = u :: rest → disabled m 2 = false → stewardReaches m (it.core / 16) = true →
      (core m it.core).inReset = false → tableAllows m it.core h.table = true → itemThreads m i = [] → ∃ t, exec (.workItemReplay i) s = .next t ∧ t.pending = s.pending ∧
      tblFind t.mod.hq.items i = some { it with lost := false, running := true, replays := it.replays + 1, checks := [] } ∧ (∀ v, v ≠ u → ctx t.mod v = ctx m v) ∧
      (let y := ctx t.mod u
       y.live = true ∧ y.gen = (ctx m u).gen + 1 ∧ y.pc = h.codeBase + BitVec.ofNat 64 (32 * h.entry) ∧ tblGet 0 y.s 1 = BitVec.ofNat 64 it.pos ∧ y.item = some i ∧ y.launch = some it.record ∧ y.job = x.tags ∧
       ((x.cls = 0 ∨ tblFind m.hq.commits i = none) → ∀ k, 2 ≤ k → tblGet 0 y.s k = 0) ∧
       (∀ v, x.cls = 1 → tblFind m.hq.commits i = some v → tblGet 0 y.s 2 = 1 ∧ ∀ k, k < 8 → tblGet 0 y.s (24 + k) = v.extractLsb' (64 * k) 64))) ) ∧
  (∀ (s : State) (i : Nat) (it : Item) (x : Rec) (j : Job),
    let m := s.mod
    let q := x.w 2 / 2 ^ 48 % 128
    LostItem m i it x → 2048 ≤ it.core →
    (x.cls = 2 → ∃ t, exec (.workItemReplay i) s = .next t ∧ Ends s t it.record x 6 (BitVec.ofNat 64 it.pos) ∧ tblFind t.mod.hq.items i = some { it with ended := true, running := false }) ∧
    (x.cls ≠ 2 → m.rcv.budget.toNat ≤ it.replays → ∃ t, exec (.workItemReplay i) s = .next t ∧ EndsJob s t it.record x (if it.lostCode = 0x31 then 1 else 3) (BitVec.ofNat 64 it.pos)) ∧
    (x.cls ≠ 2 → it.replays < m.rcv.budget.toNat → tblFind m.hq.jobs x.job = some j → (inQueue m q 64).length < 16 → queueHeld m q 64 = false → x.cls = 0 ∨ it.pos = 0 →
      ∃ t d, exec (.workItemReplay i) s = .next t ∧ t.pending = s.pending ∧ tblFind t.mod.hq.items i = some { it with lost := false, running := true, replays := it.replays + 1, pos := 0 } ∧
        inQueue t.mod q 64 = inQueue m q 64 ++ [d] ∧ d.record = some it.record ∧ d.nextChunk = 0 ∧ d.row = 0 ∧ d.words.take 6 = BitVec.ofNat 64 (x.w 2 - q * 2 ^ 48) :: (x.words.drop 3).take 5 ∧ t.mod.mem = m.mem)) ∧
  (∀ (s : State) (i : Nat) (it : Item) (x : Rec) (b : Byte × Word), engineOn s.mod = true → tblFind s.mod.hq.items i = some it → it.lost = true → it.ended = false → it.failed = false →
    tblFind s.mod.hq.recs it.record = some x → x.state = .running → x.blame = some b →
    (2048 ≤ it.core → ∃ t, exec (.workItemReplay i) s = .next t ∧ EndsJob s t it.record x b.1 (BitVec.ofNat 64 it.pos)) ∧
    (it.core < 2048 → ∃ t, exec (.workItemReplay i) s = .next t ∧ t.pending = s.pending ∧ tblFind t.mod.hq.items i = some { it with ended := true, running := false } ∧ t.mod.hq.recs = s.mod.hq.recs ∧ t.mod.cores = s.mod.cores)) ∧
  (∀ (s : State) (q : ClusterId) (f : Search) (r : Nat) (rest : List Nat),
    let n := q.toNat
    engineOn s.mod = true → (cluster s.mod n).search = some f → f.trial = none → Uncovered s.mod (.cluster q) →
    (f.left s.mod = r :: rest → lostIn s.mod r n = [] → threadsIn s.mod r n ≠ [] → ∃ t, exec (.trialStart q) s = .next t ∧ t.pending = s.pending ∧
      (cluster t.mod n).search = some { f with todo := rest, trial := some r, until_ := s.mod.now + 1000000 * max 1 s.mod.rcv.probation.toNat } ∧ t.mod = { s.mod with clusters := t.mod.clusters }) ∧
    (f.left s.mod = [] → ∃ t, exec (.trialStart q) s = .next t ∧ t.pending = s.pending ∧ (cluster t.mod n).search = none ∧ ∀ k ∈ f.cleared, ∀ u ∈ threadsIn s.mod k n, (ctx t.mod u).halted = false)) ∧
  (∀ (s : State) (q : ClusterId) (f : Search) (r : Nat),
    let n := q.toNat
    engineOn s.mod = true → (cluster s.mod n).search = some f → f.trial = some r →
    ∃ t, exec (.probationExpiry q) s = .next t ∧ t.pending = s.pending ∧ t.mod.now = timeTo s.mod f.until_ ∧
      (f.left s.mod ≠ [] → (cluster t.mod n).search = some { f with trial := none, cleared := f.cleared ++ [r] } ∧ ∀ u ∈ threadsIn s.mod r n, (ctx t.mod u).halted = true) ∧
      (f.left s.mod = [] → (cluster t.mod n).search = none ∧ (cluster t.mod n).lastSearch = (f.cleared ++ [r], t.mod.now) ∧ ∀ u ∈ threadsIn s.mod r n, (ctx t.mod u).halted = false)) ∧
  (∀ (s : State) (id : Nat) (a : Access) (i : Nat),
    let m := s.mod
    let th := a.thread.toNat
    let line := 0x02FFC0200000 + 64 * th
    meshRuns m = true → m.accs.find? (fun k => k.id == id) = some a → mayPerform m a = true → a.unitsDone = 0 → a.peer = none → a.kind = .vstore → a.data.length = 64 → a.addr = ctlAddr (0xF80000 + 64 * th) →
    fencedAt m a.addr a.issuedAt = false → a.item = some i → a.job.extractLsb' 27 2 = 1 → m.hq.journalClosed = false →
    ∃ t, exec (.dbgCommitWrite id) s = .next t ∧ t.pending = s.pending ∧ tblFind t.mod.hq.commits i = some (vecOf (a.data.map Prod.fst)) ∧ (∀ k, k ≠ i → tblFind t.mod.hq.commits k = tblFind m.hq.commits k) ∧
      accFind t.mod id = some { a with performed := true, answer := some { status := 0, data := [], poison := false, ue := false } } ∧ (∀ u, ctx t.mod u = ctx m u) ∧
      (s.canonical → t.mod.mem.bytes line 64 = a.data.map Prod.fst ∧ ∀ b, b < line ∨ line + 64 ≤ b → t.mod.mem.byte b = m.mem.byte b))

/-- A comparator that fires has brought the timebase to its time, or to the tick after the last write of its registers, comparators of an earlier tick and lower ones of the same have fired, and a write of it in that tick follows; counts, and is over or set to the next whole period after the timebase, the periods between counted missed. irq makes MILEPOST pending on the job's live threads; snap writes the records of the enabled kinds and END to the ring, or counts a lost one where they do not fit or one is still written; each of its output pins starts a pulse of at least 8 ns. A selected edge 20 ns or more after the last stamped one is stamped, and its TRIGGER record written, or held while a snapshot is written, until END reaches the ring. A sample sets the mean power and adds the energy of each rail; a thermal sample sets the sensors and runs the trip's timer. That all of a snapshot is written at its firing is the model's choice (log 44). -/
def Obligations.MilepostsAndTelemetry : Prop :=
  (∀ (s : State) (k : BitVec 4),
    let m := s.mod
    let p := tblGet {} m.tb.mps k.toNat
    let ticks := max (m.tb.ticks + (p.time.toNat - m.tb.time.toNat)) (max m.tb.ticks (p.armed + 1))
    let time := m.tb.time + BitVec.ofNat 64 (ticks - m.tb.ticks)
    (firesBefore m k.toNat = true → exec (.milepostComparatorFire k) s = .next s) ∧
    (∀ w, m.pwr.aoOn = true → m.pwr.down = false → p.en = true → firesBefore m k.toNat = false → p.late = [w] → ∃ t m1, exec (.milepostComparatorFire k) s = .next t ∧ t.pending = s.pending ∧
      t.mod = mpWrite m1 k.toNat w.1 w.2.1 w.2.2 ∧ (tblGet {} m1.tb.mps k.toNat).fired = p.fired + 1 ∧ (tblGet {} m1.tb.mps k.toNat).late = [] ∧ (p.period = 0 → (tblGet {} m1.tb.mps k.toNat).en = false)) ∧
    (m.pwr.aoOn = true → m.pwr.down = false → p.en = true → m.tb.slewLeft = 0 → firesBefore m k.toNat = false → p.late = [] → m.tb.time.toNat + (ticks - m.tb.ticks) < 2 ^ 64 → ∃ t, exec (.milepostComparatorFire k) s = .next t ∧ t.pending = s.pending ∧
      t.mod.tb.time = time ∧ t.mod.tb.ticks = ticks ∧ t.mod.now = m.now + (ticks - m.tb.ticks) ∧
      (let q := tblGet {} t.mod.tb.mps k.toNat
       q.fired = p.fired + 1 ∧ q.irq = p.irq ∧ q.snap = p.snap ∧ q.job = p.job ∧ q.period = p.period ∧
       (p.period = 0 → q.en = false ∧ q.time = p.time ∧ q.missed = p.missed) ∧
       (p.period ≠ 0 → q.en = true ∧ ∃ n, p.time.toNat + (n - 1) * p.period.toNat ≤ time.toNat ∧ time.toNat < p.time.toNat + n * p.period.toNat ∧
         q.time = p.time + BitVec.ofNat 64 (n * p.period.toNat) ∧ q.missed = satAdd 32 p.missed (n - 1))) ∧
      (tblGet {} t.mod.tb.mps k.toNat).latch = none ∧ (∀ j, j ≠ k.toNat → let y := tblGet {} m.tb.mps j
        tblGet {} t.mod.tb.mps j = { y with latch := (tblGet {} t.mod.tb.mps j).latch } ∧ (y.snap = false ∨ y.latch.isSome = true ∨ y.due t.mod.tb = false → (tblGet {} t.mod.tb.mps j).latch = y.latch)) ∧
      (∀ u, ctx t.mod u = if p.irq ∧ p.job ≠ 0 ∧ u ∈ jobThreads m p.job.toNat then
        { ctx m u with mpMask := (ctx m u).mpMask ||| (1#16 <<< k.toNat), pendInt := (ctx m u).pendInt ||| 4 } else ctx m u) ∧
      (∀ i, i < 8 → let x := tblGet {} m.tb.pins i
        (tblGet {} t.mod.tb.pins i).pulseEnd = (if x.en ∧ x.out ∧ x.mp = k then some (t.mod.now + max 8 x.width.toNat) else x.pulseEnd) ∧ (x.en = true → x.out = true → x.mp = k → Output.triggerPulse i ∈ t.mod.out)) ∧
      (p.snap = false ∨ m.tb.telEn = false → t.mod.mem = m.mem ∧ t.mod.tb.telTail = m.tb.telTail ∧ t.mod.tb.telLost = m.tb.telLost ∧ t.mod.tb.snapSeq = m.tb.snapSeq) ∧
      (p.snap = true → m.tb.telEn = true → let late := (m.pwr.level ≠ 0 ∧ (p.fired + 1).toNat % 10 ≠ 0) ∨ m.tb.snapBusy = true ∨ freeUnits m.tb < snapshotUnits m
        (late → t.mod.tb.telLost = satAdd 16 m.tb.telLost 1 ∧ t.mod.tb.telTail = m.tb.telTail ∧ t.mod.tb.snapSeq = m.tb.snapSeq ∧ t.mod.mem = m.mem) ∧
        (¬ late → t.mod.tb.telTail = tailAfter m (snapshotUnits m) ∧ t.mod.tb.snapSeq = m.tb.snapSeq + 1 ∧ t.mod.tb.snapBusy = true ∧ t.mod.tb.telLost = m.tb.telLost)))) ∧
  (∀ (s : State) (pin : BitVec 3) (rising : Bool),
    let m := s.mod
    let i := pin.toNat
    let p := tblGet {} m.tb.pins i
    let selected := p.en = true ∧ p.out = false ∧ p.edge.getLsbD (if rising then 0 else 1) = true
    let soon := ∃ e, p.stamped = some e ∧ (m.tb.time - e).toNat < 20
    let a := m.tb.telBase.toNat + 64 * m.tb.telTail.toNat
    let records := m.tb.telEn = true ∧ m.tb.telKinds.getLsbD 6 = true
    m.pwr.aoOn = true → m.pwr.down = false → tblFind m.hq.jobs 0 = none →
    (¬ selected ∨ soon → exec (.triggerEdge pin rising) s = .next s) ∧
    (selected → ¬ soon → ∃ t, exec (.triggerEdge pin rising) s = .next t ∧ t.pending = s.pending ∧ tblGet {} t.mod.tb.pins i = { p with stamp := m.tb.time, stamped := some m.tb.time } ∧
      (∀ j, j ≠ i → tblGet {} t.mod.tb.pins j = tblGet {} m.tb.pins j) ∧ t.mod.tb.edgeSeq = m.tb.edgeSeq + 1 ∧ t.mod = { m with tb := t.mod.tb, mem := t.mod.mem, clusters := t.mod.clusters } ∧
      (¬ records → t.mod.mem = m.mem ∧ t.mod.tb.held = m.tb.held) ∧
      (records → m.tb.snapBusy = true → t.mod.mem = m.mem ∧ ∃ w, t.mod.tb.held = m.tb.held ++ [w] ∧ w.flatMap wordBytes ++ List.replicate 24 0 = triggerUnit m pin rising) ∧
      (records → m.tb.snapBusy = false → freeUnits m.tb = 0 → t.mod.mem = m.mem ∧ t.mod.tb.telLost = satAdd 16 m.tb.telLost 1) ∧
      (records → m.tb.snapBusy = false → 0 < freeUnits m.tb → t.mod.tb.telTail = tailAfter m 1 ∧ (regionOf a = .hbm → a % 64 = 0 → s.canonical → m.mem.check = [] →
        t.mod.mem.bytes a 64 = triggerUnit m pin rising ∧ ∀ b, b < a ∨ a + 64 ≤ b → t.mod.mem.byte b = m.mem.byte b)))) ∧
  (∀ (s : State) (pin : BitVec 3) (e : Nat), (tblGet {} s.mod.tb.pins pin.toNat).pulseEnd = some e → ∃ t, exec (.triggerPulseEnd pin) s = .next t ∧ t.pending = s.pending ∧ t.mod.now = timeTo s.mod e ∧
    tblGet {} t.mod.tb.pins pin.toNat = { tblGet {} s.mod.tb.pins pin.toNat with pulseEnd := none } ∧ (∀ j, j ≠ pin.toNat → tblGet {} t.mod.tb.pins j = tblGet {} s.mod.tb.pins j) ∧
    t.mod = { s.mod with now := t.mod.now, tb := t.mod.tb }) ∧
  (∀ (s : State) (mw : List Nat) (mv : BitVec 16), let us := if s.mod.pwr.level = 0 then 10 else 100
    s.mod.pwr.aoOn = true → s.mod.pwr.down = false → ∃ t, exec (.powerSample mw mv) s = .next t ∧ t.pending = s.pending ∧ t.mod.now = (s.mod.now / (1000 * us) + 1) * (1000 * us) ∧ t.mod.pwr.railMv = mv ∧
      (∀ i, tblGet 0 t.mod.pwr.railMw i = if i < 23 ∧ i < mw.length then BitVec.ofNat 32 (mw.getD i 0) else tblGet 0 s.mod.pwr.railMw i) ∧
      (∀ i, tblGet 0 t.mod.pwr.railNj i = if i < 23 ∧ i < mw.length then tblGet 0 s.mod.pwr.railNj i + mw.getD i 0 * us else tblGet 0 s.mod.pwr.railNj i) ∧
      t.mod = { s.mod with now := t.mod.now, tb := t.mod.tb, pwr := t.mod.pwr }) ∧
  (∀ (s : State) (l : List Int), s.mod.pwr.aoOn = true → s.mod.pwr.down = false → ∃ t, exec (.thermalSample l) s = .next t ∧ t.pending = s.pending ∧ t.mod.now = (s.mod.now / 100000 + 1) * 100000 ∧
    (∀ i, tblFind t.mod.pwr.temps i = if i < 67 ∧ i < l.length then some (l.getD i 0) else tblFind s.mod.pwr.temps i) ∧
    (let hot := ∃ i x, tblFind t.mod.pwr.temps i = some x ∧ ((i < 32 ∧ 1760 ≤ x) ∨ (32 ≤ i ∧ i < 64 ∧ 1600 ≤ x) ∨ (i = 64 ∧ 1760 ≤ x))
     (hot → t.mod.pwr.tripFrom = some (s.mod.pwr.tripFrom.getD t.mod.now)) ∧ (¬ hot → t.mod.pwr.tripFrom = none)) ∧
    (let full := ∃ i x, tblFind t.mod.pwr.temps i = some x ∧ ((i < 32 ∧ 1520 ≤ x) ∨ (32 ≤ i ∧ i < 64 ∧ 1360 ≤ x) ∨ (i = 64 ∧ 1520 ≤ x))
     (full → t.mod.pwr.thermFrom = none) ∧ (¬ full → t.mod.pwr.thermFrom = some (s.mod.pwr.thermFrom.getD t.mod.now))) ∧
    t.mod = { s.mod with now := t.mod.now, tb := t.mod.tb, pwr := { s.mod.pwr with temps := t.mod.pwr.temps, tripFrom := t.mod.pwr.tripFrom, thermFrom := t.mod.pwr.thermFrom } }) ∧
  (∀ s : State, (s.mod.tb.snapBusy = false → exec .snapshotWriteComplete s = .next s) ∧
    (s.mod.tb.snapBusy = true → s.mod.tb.held.length ≤ freeUnits s.mod.tb → (∀ w ∈ s.mod.tb.held, 0 < w.length ∧ w.length ≤ 8) → ∃ t, exec .snapshotWriteComplete s = .next t ∧ t.pending = s.pending ∧ t.mod.tb.snapBusy = false ∧ t.mod.tb.held = [] ∧
      t.mod.tb.telTail = (if s.mod.tb.held = [] then s.mod.tb.telTail else tailAfter s.mod s.mod.tb.held.length) ∧ t.mod.tb.telLost = s.mod.tb.telLost ∧ t.mod.cores = s.mod.cores))

/-- A write of PWR_STATE asks for P0, P2 or P3; with a job at work P2 and P3 are refused; P2 loses the tiles and keeps HBM, P3 leaves AO alone; a wake restores P0. An idle tile's clocks gate and ungate. A level whose dwell timer has run 10 us is due; the module is at the highest due, each entry and leaving recorded; S3 halts the deadlines until it is left. S5, and a sensor 1 ms at its trip, take the steps of R657: AO alone stays, stack 31 is kept. The cap and the thermal limits step one issue limit and one clock once a millisecond and each undoes its own steps, the thermal ones after 10 ms below the limits. AO's loss and the open switch leave fuses and boot store. AO starts above 36 V, and 100 ms above 49 V begin a module reset. That the 1 ms intervals end at whole milliseconds is the model's choice (logs 30 to 33), and so are a request for P3 in P2 and none for P2 there (log 46). -/
def Obligations.PowerIsManaged : Prop :=
  (∀ (s : State) (q : ClusterId), let k := cluster s.mod q.toNat
    (s.mod.pwr.idleUs ≠ 0 → powered s.mod = true → tileBusy s.mod q.toNat = false → k.gated = false → ∃ t, exec (.p1IdleEntry q) s = .next t ∧ t.pending = s.pending ∧ t.mod.now = timeTo s.mod (k.busyAt + 1000 * s.mod.pwr.idleUs.toNat) ∧
      cluster t.mod q.toNat = { k with gated := true } ∧ (∀ p, p ≠ q.toNat → cluster t.mod p = cluster s.mod p) ∧ t.mod = { s.mod with now := t.mod.now, tb := t.mod.tb, clusters := t.mod.clusters }) ∧
    (k.gated = true → ∃ t, exec (.p1Wake q) s = .next t ∧ t.pending = s.pending ∧ cluster t.mod q.toNat = { k with gated := false, busyAt := s.mod.now } ∧ (∀ p, p ≠ q.toNat → cluster t.mod p = cluster s.mod p) ∧
      t.mod = { s.mod with clusters := t.mod.clusters })) ∧
  (∀ (s : State) (a : RegAccess), wholeWrite a = true → AoReachable s.mod 0xD00000 →
    let p := s.mod.pwr
    let p1 : Power := { p with refused := p.refused && !a.value.getLsbD 50, idleUs := a.value.extractLsb' 16 16 }
    let busy := ∃ e ∈ s.mod.hq.recs, e.2.active = true ∧ e.2.job ≠ 0
    exec (.requestP0 a) s = .next { s with mod := { s.mod with pwr := { p1 with req := 0, waking := p.waking || p.state == 2 }, answer := .none } } ∧
    (p.state = 2 ∨ p.state = 3 → exec (.requestP2 a) s = .next { s with mod := { s.mod with pwr := p1, answer := .none } }) ∧
    (p.state = 3 → exec (.requestP3 a) s = .next { s with mod := { s.mod with pwr := p1, answer := .none } }) ∧
    (p.state ≠ 2 → p.state ≠ 3 → busy → exec (.requestP2 a) s = .next { s with mod := { s.mod with pwr := { p1 with refused := true }, answer := .none } }) ∧
    (p.state ≠ 3 → busy → exec (.requestP3 a) s = .next { s with mod := { s.mod with pwr := { p1 with refused := true }, answer := .none } }) ∧
    (p.state ≠ 3 → ¬ busy →
      (p.state ≠ 2 → ∃ t, exec (.requestP2 a) s = .next t ∧ t.pending = s.pending ∧ t.mod.pwr = { p1 with state := 2, req := 2, selfRefresh := true, waking := false } ∧ TilesLost s t ∧ HbmKept s t ∧ Recorded s t 1 ∧ t.mod.fab.mode = 2 ∧
        (∀ c n, (tblGet {} (core t.mod c).queues n).epoch = (tblGet {} (core s.mod c).queues n).epoch ∧ (tblGet {} (core t.mod c).queues n).isOpen = false) ∧
        t.mod.hq.jobs = s.mod.hq.jobs ∧ t.mod.hq.handles = s.mod.hq.handles ∧ t.mod.hq.recs = s.mod.hq.recs ∧ t.mod.place = s.mod.place) ∧
      (∃ t, exec (.requestP3 a) s = .next t ∧ t.pending = s.pending ∧ t.mod.pwr.state = 3 ∧ t.mod.pwr.req = 3 ∧ t.mod.pwr.down = true ∧ t.mod.pwr.aoOn = true ∧ TilesLost s t ∧ Recorded s t 1 ∧ t.mod.hq.journalLost = true ∧ (∀ l, (linkOf t.mod l).state = 0)))) ∧
  (∀ s : State, s.mod.pwr.state = 2 → s.mod.pwr.waking = true → ∃ t, exec .p2Wake s = .next t ∧ t.pending = s.pending ∧ t.mod.pwr = { s.mod.pwr with state := 0, waking := false, selfRefresh := decide (4 ≤ s.mod.pwr.level) } ∧
    t.mod.fab.mode = linkWidth 0 s.mod.pwr.level ∧ (s.mod.pwr.level < 3 → t.mod.fab = { s.mod.fab with mode := 0 }) ∧
    (∀ u, ctx t.mod u = ctx s.mod u) ∧ (∀ c, (core t.mod c).inReset = false) ∧ HbmKept s t ∧ Recorded s t 1) ∧
  (∀ (s : State) (mv : BitVec 16) (e : Nat), let m := s.mod
    let now := timeTo m e
    m.pwr.aoOn = true → m.pwr.switchOpen = false → m.pwr.down = false → LevelOk m.pwr →
    (let fresh (n : Nat) : Prop := 1 ≤ n ∧ n ≤ 5 ∧ n ∉ m.pwr.due ∧ ∃ x, dwell m mv n = some x ∧ x + 10000 ≤ now
     (∃ n x, 1 ≤ n ∧ n ≤ 5 ∧ n ∉ m.pwr.due ∧ dwell m mv n = some x ∧ e = x + 10000) → (∀ n x, 1 ≤ n → n ≤ 5 → n ∉ m.pwr.due → dwell m mv n = some x → e ≤ x + 10000) →
      (fresh 5 → ∃ t, exec (.shedEnter mv) s = .next t ∧ ModuleOff s t ∧ t.mod.now = now) ∧
      (¬ fresh 5 → ∃ t, exec (.shedEnter mv) s = .next t ∧ t.pending = s.pending ∧ t.mod.now = now ∧ t.mod.pwr.vin = mv ∧ (∀ n, n ∈ t.mod.pwr.due ↔ n ∈ m.pwr.due ∨ fresh n) ∧ LevelOk t.mod.pwr ∧ m.pwr.level ≤ t.mod.pwr.level ∧
        t.mod.pwr.entries = satAdd 8 m.pwr.entries (t.mod.pwr.level - m.pwr.level) ∧ Recorded s t (t.mod.pwr.level - m.pwr.level) ∧ (m.pwr.level < 1 → 1 ≤ t.mod.pwr.level → ∀ c, (core t.mod c).streams = []) ∧
        t.mod.pwr.pausedFrom = (if m.pwr.level < 3 ∧ 3 ≤ t.mod.pwr.level then some now else m.pwr.pausedFrom) ∧
        t.mod.fab.mode = (if m.pwr.level < t.mod.pwr.level ∧ 3 ≤ t.mod.pwr.level then linkWidth m.pwr.state t.mod.pwr.level else m.fab.mode) ∧ (t.mod.pwr.selfRefresh = true ↔ m.pwr.selfRefresh = true ∨ (m.pwr.level < 4 ∧ t.mod.pwr.level = 4)) ∧ (∀ u, ctx t.mod u = ctx m u) ∧ HbmKept s t)) ∧
    (let gone (n : Nat) : Prop := ∃ x, leaving m mv n = some x ∧ x + 10000 ≤ now
     (∃ n x, leaving m mv n = some x ∧ e = x + 10000) → (∀ n x, leaving m mv n = some x → e ≤ x + 10000) →
      ∃ t, exec (.shedLeave mv) s = .next t ∧ t.pending = s.pending ∧ t.mod.now = now ∧ t.mod.pwr.vin = mv ∧ (∀ n, n ∈ t.mod.pwr.due ↔ n ∈ m.pwr.due ∧ ¬ gone n) ∧ LevelOk t.mod.pwr ∧ t.mod.pwr.level ≤ m.pwr.level ∧ t.mod.pwr.entries = m.pwr.entries ∧
        Recorded s t (if t.mod.pwr.level = m.pwr.level then 0 else 1) ∧
        (if 3 ≤ m.pwr.level ∧ t.mod.pwr.level < 3 then t.mod.pwr.pausedFrom = none ∧ t.mod.pwr.pausedTotal = m.pwr.pausedTotal + (now - m.pwr.pausedFrom.getD now) ∧ t.mod.fab.mode = linkWidth m.pwr.state t.mod.pwr.level
         else t.mod.pwr.pausedFrom = m.pwr.pausedFrom ∧ t.mod.fab.mode = (if m.pwr.level = 4 ∧ t.mod.pwr.level = 3 then linkWidth m.pwr.state 3 else m.fab.mode)) ∧
        t.mod.pwr.selfRefresh = (if m.pwr.level = 4 ∧ t.mod.pwr.level < 4 then decide (m.pwr.state = 2) else m.pwr.selfRefresh) ∧
        t.mod.cores = m.cores ∧ HbmKept s t)) ∧
  (∀ (s : State) (w : Nat), let p := s.mod.pwr
    p.aoOn = true → p.down = false → p.capEn = true → ∃ t, exec (.powerCapInterval w) s = .next t ∧ t.pending = s.pending ∧ t.mod.now = (s.mod.now / 1000000 + 1) * 1000000 ∧
      t.mod.pwr = { p with capIssue := t.mod.pwr.capIssue, capClk := t.mod.pwr.capClk, capUnder := t.mod.pwr.capUnder, capSteps := t.mod.pwr.capSteps } ∧ t.mod.cores = s.mod.cores ∧ HbmKept s t ∧
      Recorded s t (if t.mod.pwr.capIssue = p.capIssue ∧ t.mod.pwr.capClk = p.capClk then 0 else 1) ∧
      (p.watts.toNat < w → StepDown p.capIssue p.capClk t.mod.pwr.capIssue t.mod.pwr.capClk ∧ t.mod.pwr.capUnder = 0 ∧
        t.mod.pwr.capSteps = if t.mod.pwr.capIssue = p.capIssue ∧ t.mod.pwr.capClk = p.capClk then p.capSteps else p.capSteps + 1) ∧
      (w ≤ p.watts.toNat → 98 * p.watts.toNat ≤ 100 * w → t.mod.pwr = { p with capUnder := 0 }) ∧
      (100 * w < 98 * p.watts.toNat → p.capUnder < 9 → t.mod.pwr = { p with capUnder := p.capUnder + 1 }) ∧
      (100 * w < 98 * p.watts.toNat → 9 ≤ p.capUnder → p.capSteps = 0 → t.mod.pwr = { p with capUnder := 0 }) ∧
      (100 * w < 98 * p.watts.toNat → 9 ≤ p.capUnder → p.capSteps ≠ 0 → t.mod.pwr.capUnder = 0 ∧ t.mod.pwr.capSteps + 1 = p.capSteps ∧ (p.capClk < 800 → t.mod.pwr.capClk = p.capClk + 100 ∧ t.mod.pwr.capIssue = p.capIssue) ∧
        (800 ≤ p.capClk → t.mod.pwr.capClk = p.capClk ∧ t.mod.pwr.capIssue = if p.capIssue < 100 then p.capIssue + 5 else p.capIssue))) ∧
  (∀ s : State, let p := s.mod.pwr
    let p' := ({ p with capIssue := (stepsUndone p.thermSteps p.capIssue p.capClk).1, capClk := (stepsUndone p.thermSteps p.capIssue p.capClk).2, thermSteps := 0 } : Power)
    p.aoOn = true → p.down = false → ∃ t, exec .thermalThrottle s = .next t ∧ t.pending = s.pending ∧ t.mod.now = (s.mod.now / 1000000 + 1) * 1000000 ∧
      t.mod.pwr = { p with capIssue := t.mod.pwr.capIssue, capClk := t.mod.pwr.capClk, thermSteps := t.mod.pwr.thermSteps } ∧ t.mod.cores = s.mod.cores ∧ HbmKept s t ∧
      Recorded s t (if t.mod.pwr.capIssue = p.capIssue ∧ t.mod.pwr.capClk = p.capClk then 0 else 1) ∧
      (SensorAt p 1520 1360 → StepDown p.capIssue p.capClk t.mod.pwr.capIssue t.mod.pwr.capClk ∧
        t.mod.pwr.thermSteps = if t.mod.pwr.capIssue = p.capIssue ∧ t.mod.pwr.capClk = p.capClk then p.thermSteps else p.thermSteps + 1) ∧
      (¬ SensorAt p 1520 1360 → (∀ x, p.thermFrom = some x → x + 10000000 ≤ t.mod.now) → t.mod.pwr = p') ∧
      (∀ x, ¬ SensorAt p 1520 1360 → p.thermFrom = some x → t.mod.now < x + 10000000 → t.mod.pwr = p)) ∧
  (∀ (s : State) (x : Nat), s.mod.pwr.tripFrom = some x → s.mod.pwr.aoOn = true → s.mod.pwr.down = false → ∃ t, exec .thermalTrip s = .next t ∧ ModuleOff s t ∧ t.mod.now = timeTo s.mod (x + 1000000) ∧ t.mod.pwr.tripped = true ∧ t.mod.pins.fatal = true) ∧
  (∀ (s : State) (mv : BitVec 16), let p := s.mod.pwr
    (p.aoOn = true → ∃ t, exec .aoPowerLoss s = .next t ∧ AllOff s t ∧ t.mod.now = s.mod.now ∧ t.mod.pwr.switchOpen = p.switchOpen) ∧
    (61000 < mv.toNat → p.switchOpen = false → ∃ t, exec (.overvoltageTrip mv) s = .next t ∧ AllOff s t ∧ t.mod.now = timeTo s.mod (p.overFrom.getD s.mod.now + 10000) ∧ t.mod.pwr.switchOpen = true) ∧
    (mv.toNat < 60000 → p.switchOpen = true → p.aoOn = false → ∃ t, exec (.inputSwitchReclose mv) s = .next t ∧ t.pending = s.pending ∧ t.mod.now = timeTo s.mod (p.underFrom.getD s.mod.now + 1000000000) ∧ t.mod.pwr.switchOpen = false ∧
      t.mod.pwr.aoOn = decide (36000 < mv.toNat) ∧ (36000 < mv.toNat → t.mod.pwr.down = true) ∧ t.mod.pwr.goodFrom = (if 49000 ≤ mv.toNat then some t.mod.now else none) ∧ t.mod = { s.mod with now := t.mod.now, pwr := t.mod.pwr }) ∧
    (∃ t, exec (.aoPowerOn mv) s = .next t ∧ t.pending = s.pending ∧ t.mod.pwr.aoOn = (p.aoOn || (!p.switchOpen && decide (36000 < mv.toNat))) ∧ (p.aoOn = false → t.mod.pwr.aoOn = true → t.mod.pwr.down = true) ∧ t.mod.pwr.vin = mv ∧
      t.mod.pwr.goodFrom = (if 49000 ≤ mv.toNat then some (if p.aoOn = false ∧ p.switchOpen = false then s.mod.now else p.goodFrom.getD s.mod.now) else none) ∧ t.mod = { s.mod with pwr := t.mod.pwr }) ∧
    (∀ x, p.goodFrom = some x → p.aoOn = true → p.switchOpen = false → p.down = true → p.state ≠ 3 → p.tripped = false → (∀ r ∈ s.mod.rcv.resets, r.d ≠ .module) → ∃ t r, exec .powerGoodTimer s = .next t ∧ t.pending = s.pending ∧
      t.mod.now = timeTo s.mod (x + 100000000) ∧ t.mod.pins.pwrFail = false ∧ r ∈ t.mod.rcv.resets ∧ r.d = .module ∧ r.draining = true ∧ r.drainAt = t.mod.now + 100000 ∧
      t.mod = { s.mod with now := t.mod.now, pins := t.mod.pins, rcv := { s.mod.rcv with resets := t.mod.rcv.resets } }))

/-- A module reset leaves the stage ROM; ROM takes the first accepted slot, the preferred one first, or FAILED with FATAL_N, and FIRMWARE measures the components and leaves out those not accepted. The end of training makes the module READY: the journal opens, lost or kept, every core leaves reset, the reset is over and READY floods. A commit raises the counters named to the running svn, never lower, and revokes unless it names the running or the last key slot. An update, once its image is accepted, rewrites the other slot and prefers it, or the store fails and leaves that slot open. An extend sets MRn to the digest of its value and d. Identity, certificate and report answer on a free interface, the store is written over I3C in FAILED alone, and a report is signed and the next latched. The address is taken; JTAG shifts out what its instruction names, or extends MR5; presence lets links train. The model's choices: a commit ends at once (log 43), a stage lasts one tick (log 19), the layout of the control sector and malformed requests (log 20), the dynamic address (log 21), the reason of FAILED (log 29), discovery (log 121), captured pins (log 122). -/
def Obligations.BootAndAttestation : Prop :=
  (∀ (s : State) (r : Reset), let x := s.mod.sec
    s.mod.rcv.resets.find? (fun e => e.d == .module && e.draining) = some r → r.d = .module → s.mod.pins.modReset = false → drainWaits s.mod .module = false → ∃ t, exec (.kerbDrainEnd .module) s = .next t ∧
      t.pending = s.pending ∧ (let y := t.mod.sec
      y = { ({} : Sec) with keyHash := x.keyHash, revoked := x.revoked, seed := x.seed, fuseCtr := x.fuseCtr, pref := x.pref, i3cAddr := x.i3cAddr, store := y.store, broken := y.broken } ∧
      (x.updBusy = false → y.store = x.store ∧ y.broken = x.broken))) ∧
  (∀ s : State, let x := s.mod.sec
    let p := b1 x.pref
    s.pending = [] → s.mod.pwr.aoOn = true → s.mod.pwr.down = false → x.stage = 0 ∨ x.stage = 1 → ∃ t, step s = .next t ∧ t.pending = [] ∧ t.mod.now = s.mod.now + 1 ∧ t.mod.mem = s.mod.mem ∧ (let y := t.mod.sec
      y = { x with stage := y.stage, slot := y.slot, reason := y.reason, degraded := y.degraded, mrs := y.mrs, mrCount := y.mrCount } ∧
      (x.stage = 0 → mrOf y 0 = digest (mrOf x 0 ++ digest (wordBytes Config.romVersion ++ Config.fuseBytes x.keyHash.toList x.revoked.toNat ((List.range 4).map (tblGet 0 x.fuseCtr)))) ∧
        (∀ n, n ≠ 0 → n ≠ 1 → n ≠ 5 → mrOf y n = mrOf x n) ∧
        (romCheck x p = 0 → y.stage = 1 ∧ y.slot = BitVec.ofNat 4 p ∧ mrOf y 5 = mrOf x 5) ∧
        (romCheck x p ≠ 0 → romCheck x (1 - p) = 0 → y.stage = 1 ∧ y.slot = BitVec.ofNat 4 (1 - p) ∧ mrOf y 5 = digest (mrOf x 5 ++ 3 :: List.replicate 63 0)) ∧
        (∀ mf c, y.stage = 1 → slotManifest x y.slot.toNat = some mf → mf.comp 1 = some c → mrOf y 1 = digest (mrOf x 1 ++ c.digest)) ∧
        (romCheck x 0 ≠ 0 → romCheck x 1 ≠ 0 → y.stage = 15 ∧ t.mod.pins.fatal = true ∧ y.reason = BitVec.ofNat 8 (romCheck x p))) ∧
      (∀ mf, x.stage = 1 → slotManifest x x.slot.toNat = some mf → let good (c : Component) : Bool := componentOk (fun i n => storeBytes' x (slotBase x.slot.toNat + i) n) c
        y.stage = 2 ∧ y.slot = x.slot ∧ mrOf y 4 = digest (mrOf x 4 ++ digest mf.whole) ∧ (∀ n, n ≠ 2 → n ≠ 3 → n ≠ 4 → mrOf y n = mrOf x n) ∧
        mrOf y 3 = (mf.comps.filter (fun c => decide (3 ≤ c.type) && good c)).foldl (fun d c => digest (d ++ c.digest)) (mrOf x 3) ∧
        (∀ i, i < 8 → (y.degraded.getLsbD i = true ↔ 1 ≤ i ∧ i < 5 ∧ ¬ ∃ c ∈ mf.comps, c.type = i + 1 ∧ good c = true))))) ∧
  (∀ (s : State) (r : Reset), s.mod.sec.stage = 2 → s.mod.pwr.down = false → s.mod.rcv.resets = [r] → r.d = .module → r.draining = false → ∃ t, exec .trainingComplete s = .next t ∧ t.pending = s.pending ∧
    t.mod.sec = { s.mod.sec with stage := 3 } ∧ t.mod.hq.journalClosed = false ∧ t.mod.hq.journalLost = false ∧ t.mod.rcv.resets = [] ∧ t.mod.fab.floodSeq = s.mod.fab.floodSeq + 1 ∧ (∀ c, (core t.mod c).inReset = false) ∧ (∀ u, ctx t.mod u = ctx s.mod u) ∧
    HbmKept s t ∧ (s.mod.hq.journalLost = true → t.mod.hq.jobs = [] ∧ t.mod.hq.recs = [] ∧ t.mod.hq.owed = [] ∧ (∀ e ∈ t.mod.hq.handles, e.2.valid = false) ∧ t.mod.rcv.evSeq = s.mod.rcv.evSeq + 2) ∧
    (s.mod.hq.journalLost = false → t.mod.hq.jobs = s.mod.hq.jobs ∧ t.mod.hq.recs = s.mod.hq.recs ∧ t.mod.hq.owed = s.mod.hq.owed ∧ t.mod.rcv.evSeq = s.mod.rcv.evSeq + 1)) ∧
  (∀ (s : State) (a : RegAccess), wholeWrite a = true → let x := s.mod.sec
    let go := a.value.getLsbD 63
    let x1 : Sec := { x with revoke := a.value.extractLsb' 8 4, ctrs := a.value.extractLsb' 0 3 }
    (AoReachable s.mod 0xE00010 → x.commitBusy = false →
      (go = false → exec (.secCommit a) s = .next { s with mod := { s.mod with sec := x1, answer := .none } }) ∧
      (go = true → x.stage = 0 ∨ x.stage = 15 → exec (.secCommit a) s = .next { s with mod := { s.mod with sec := { x1 with commitResult := 1 }, answer := .none } }) ∧
      (∀ mf, go = true → x.stage ≠ 0 → x.stage ≠ 15 → slotManifest x x.slot.toNat = some mf → let refused := x1.revoke ≠ 0 ∧ (x1.revoke.getLsbD mf.keySlot = true ∨ x.revoked ||| x1.revoke = 0xF)
        ∃ t, exec (.secCommit a) s = .next t ∧ t.pending = s.pending ∧ t.mod = { s.mod with sec := t.mod.sec, answer := .none } ∧
          t.mod.sec = { x1 with fuseCtr := t.mod.sec.fuseCtr, revoked := t.mod.sec.revoked, commitResult := t.mod.sec.commitResult } ∧
          (∀ c v, c < 3 → LeastSvn x mf c v → tblGet 0 t.mod.sec.fuseCtr c = if x1.ctrs.getLsbD c then max (tblGet 0 x.fuseCtr c) (min 64 v) else tblGet 0 x.fuseCtr c) ∧
          (refused → t.mod.sec.revoked = x.revoked ∧ t.mod.sec.commitResult = 2) ∧ (¬ refused → t.mod.sec.revoked = x.revoked ||| x1.revoke ∧
            t.mod.sec.commitResult = if x1.revoke = 0 ∧ [0, 1, 2].all (fun c => tblGet 0 t.mod.sec.fuseCtr c == tblGet 0 x.fuseCtr c) = true then 1 else 0))) ∧
    (AoReachable s.mod 0xE00018 → exec (.secUpdate a) s = .next { s with mod := { s.mod with sec := if x.updBusy then x else { x with updAddr := a.value &&& 0x7FFFFFFFF000#64, updBusy := go }, answer := .none } }) ∧
    (AoReachable s.mod 0xE00080 → ∃ t, exec (.mrExtend a) s = .next t ∧ t.pending = s.pending ∧ t.mod = { s.mod with sec := t.mod.sec, answer := .none } ∧
      t.mod.sec = { x with mrSel := a.value.extractLsb' 0 4, mrs := t.mod.sec.mrs, mrCount := t.mod.sec.mrCount } ∧
      (if go = true ∧ 8 ≤ (a.value.extractLsb' 0 4).toNat then Extended x t.mod.sec (a.value.extractLsb' 0 4).toNat ((List.range 8).flatMap (fun i => wordBytes (tblGet 0 x.mrdata i)))
       else t.mod.sec.mrs = x.mrs ∧ t.mod.sec.mrCount = x.mrCount))) ∧
  (∀ (s : State) (fails : Bool), let x := s.mod.sec
    powered s.mod = true → x.stage = 3 → x.updBusy = true →
    (stagedAccepted s.mod = false → exec (.firmwareUpdateComplete fails) s = .next { s with mod := { s.mod with sec := { x with updBusy := false, updResult := 1 } } }) ∧
    (stagedAccepted s.mod = true → fails = true → let slot := if x.slot = 0 then 1 else 0
      ∃ t, exec (.firmwareUpdateComplete fails) s = .next t ∧ t.pending = s.pending ∧ t.mod = { s.mod with sec := { x with updBusy := false, updResult := 2, store := t.mod.sec.store, broken := t.mod.sec.broken } } ∧
        (∀ i, tblFind t.mod.sec.store i = if slotBase slot ≤ i ∧ i < slotBase (slot + 1) then none else tblFind x.store i) ∧ ∀ k, tblGet 0 t.mod.sec.broken k = if k = slot then tblGet 0 x.broken k + 1 else tblGet 0 x.broken k) ∧
    (stagedAccepted s.mod = true → fails = false → let base := 0x1000 + 0x3000000 * (if x.slot = 0 then 1 else 0)
      ∃ t, exec (.firmwareUpdateComplete fails) s = .next t ∧ t.pending = s.pending ∧ t.mod = { s.mod with sec := { x with updBusy := false, updResult := 0, pref := x.slot == 0, store := t.mod.sec.store } } ∧
        ∀ i, tblFind t.mod.sec.store i = if base ≤ i ∧ i < base + 0x3000000 then some (s.mod.mem.byte (x.updAddr.toNat + (i - base))) else tblFind x.store i)) ∧
  (∀ (s : State) (b : Mail) (mask : BitVec 16) (nonce : List Byte) (off : Nat) (data : List Byte), let x := s.mod.sec
    (MailFree s.mod b.box → ∀ e command length, IsMessage b e command length → (∀ c n, b.head = .message c n → c ≠ command ∨ n.toNat ≠ length → exec e s = .next (Replied s b.box c 1 [])) ∧
      (∀ i, b.head = .discovery i → b.box = .i3c → exec e s = .next s) ∧
      (∀ i p, b.head = .discovery i → b.box = .doe p → exec e s = .next { s with mod := { s.mod with out := s.mod.out ++
        [if i = 0 then .discovery p 1 0 1 else if i = 1 then .discovery p Config.vendorId 1 0 else .discovery p 0xFFFF 0 0] } })) ∧
    (∀ e command length, IsMessage b e command length → (mailOpen s.mod b.box = false → exec e s = .next s) ∧ (mailOpen s.mod b.box = true → (∃ r ∈ x.reports, r.m = b.box) →
      exec e s = .next (if b.box = .i3c then { s with mod := { s.mod with answer := .nack } } else s))) ∧
    (MailFree s.mod b.box → b.head = .message 1 0 → exec (.getIdentity b) s = .next (Replied s b.box 1 0 (idKey x).pub)) ∧
    (MailFree s.mod b.box → b.head = .message 2 0 → exec (.getCert b) s = .next (Replied s b.box 2 0 (Config.certificateOf (controlBytes x)))) ∧
    (MailFree s.mod b.box → b.head = .message 3 34 → (nonce.length ≠ 32 → exec (.getReport b mask nonce) s = .next (Replied s b.box 3 1 [])) ∧
      (nonce.length = 32 → x.stage ≠ 3 → x.stage ≠ 15 → exec (.getReport b mask nonce) s = .next (Replied s b.box 3 2 [])) ∧
      (x.stage = 3 ∨ x.stage = 15 → nonce.length = 32 → (∀ n, n < 16 → (mrOf x n).length = 64) → (∀ r ∈ x.reports, r.body.isSome = true) → ∃ t body, exec (.getReport b mask nonce) s = .next t ∧ t.pending = s.pending ∧
        t.mod = { s.mod with sec := { x with reports := x.reports ++ [{ m := b.box, mask := mask, nonce := nonce, body := body }] } } ∧ (if x.reports = [] then ∃ d, body = some d ∧ ReportLaid s.mod mask nonce d else body = none))) ∧
    (∀ n, MailFree s.mod b.box → b.head = .message 16 n → n.toNat = 8 + data.length →
      if b.box ≠ .i3c ∨ x.stage ≠ 15 ∨ 4096 < data.length ∨ 0x6001000 < off + data.length then exec (.storeWrite b off data) s = .next (Replied s b.box 16 1 [])
       else ∃ t, exec (.storeWrite b off data) s = .next t ∧ t.pending = s.pending ∧ t.mod = { s.mod with sec := { x with store := t.mod.sec.store, pref := t.mod.sec.pref }, out := s.mod.out ++ [.reply b.box 16 0 []] } ∧
         (∀ i, tblFind t.mod.sec.store i = if off ≤ i ∧ i < off + data.length then some (data.getD (i - off) 0) else tblFind x.store i) ∧
         t.mod.sec.pref = if off = 0 ∧ data ≠ [] then (data.getD 0 0).getLsbD 0 else x.pref)) ∧
  (∀ (s : State) (random : BitVec 256) (d : List Byte) (r : Report) (rest : List Report), let x := s.mod.sec
    let reply : Output := .reply r.m 3 0 (d ++ MlDsa.sign (idKey x) [0x41, 0x48, 0x53, 0x2D, 0x32, 0x30, 0x34, 0x38, 0x2D, 0x52, 0x45, 0x50, 0x4F, 0x52, 0x54] (digest d) (toBytes 32 random.toNat))
    x.reports = r :: rest → r.body = some d → (∀ n, n < 16 → (mrOf x n).length = 64) → ∃ t, exec (.reportSigned random) s = .next t ∧ t.pending = s.pending ∧
      t.mod = { s.mod with sec := { x with reports := t.mod.sec.reports }, out := s.mod.out ++ (if mailOpen s.mod r.m then [reply] else []) } ∧
      (rest = [] → t.mod.sec.reports = []) ∧
      (∀ q l, rest = q :: l → q.body = none → q.nonce.length = 32 → ∃ e, t.mod.sec.reports = { q with body := some e } :: l ∧ ReportLaid s.mod q.mask q.nonce e)) ∧
  (∀ (s : State) (addr : BitVec 7) (f w : Bool), let z := s.mod.pins
    let own := if z.jtag = .extest then z.preload else (!z.fatal, !z.pwrFail)
    let loads (i : JtagInstr) (pins : Pins) (d : List Bool) : Prop := exec (.jtagInstructionLoad i) s = .next { s with mod := { s.mod with pins := { pins with jtag := i }, out := s.mod.out ++ [.jtag d] } }
    s.mod.pwr.aoOn = true →
    (∀ c ∈ [Instr.entdaa addr, .setdasa addr], exec c s = .next { s with mod := { s.mod with sec := { s.mod.sec with i3cAddr := some addr } } }) ∧
    (s.mod.pwr.down = false → loads .bypass z [false] ∧ loads .idcode z ((List.range 32).map (fun i => (0x1204877F#32).getLsbD i)) ∧
      loads (.samplePreload f w) { z with preload := (f, w) } (pinsCaptured s.mod own) ∧ loads .extest z (pinsCaptured s.mod z.preload) ∧
      ∃ t, exec (.jtagInstructionLoad .other) s = .next t ∧ t.pending = s.pending ∧ t.mod = { s.mod with pins := { z with jtag := .other }, sec := { s.mod.sec with mrs := t.mod.sec.mrs, mrCount := t.mod.sec.mrCount } } ∧
        Extended s.mod.sec t.mod.sec 5 (2 :: List.replicate 63 0))) ∧
  (∀ (s : State) (b : BitVec 4) (present : Bool), ∃ t, exec (.prsntN b present) s = .next t ∧ t.pending = s.pending ∧ t.mod = { s.mod with pins := { s.mod.pins with absent := t.mod.pins.absent }, fab := { s.mod.fab with links := t.mod.fab.links } } ∧
    (∀ c, c ∈ t.mod.pins.absent ↔ if c = b then present = false else c ∈ s.mod.pins.absent) ∧ (∀ l, l / 8 ≠ b.toNat → linkOf t.mod l = linkOf s.mod l) ∧
    ∀ l, l / 8 = b.toNat → l < 96 → let k := linkOf s.mod l
      let train := present = true ∧ s.mod.fab.en = true ∧ disabled s.mod 4 = false ∧ 1 < dimSize s.mod (l / 16)
      linkOf t.mod l = if k.state = 3 ∧ train then { k with state := 1 } else if k.state = 1 ∧ ¬ train then { k with state := 3 } else k)
end

