-- ==== Sys2Proof/Laws/Tbl.lean ====
section
/-! SUPPORT. What the sparse tables do: a read after a write, a read beside a write, a read after a removal. -/

namespace Sys2Proof.Machine

variable {α : Type}

@[simp] theorem tblFind_tblPut_self (t : Tbl α) (k : Nat) (x : α) : tblFind (tblPut t k x) k = some x := by
  induction t with
  | nil => simp [tblPut, tblFind]
  | cons e t ih =>
    obtain ⟨j, y⟩ := e
    by_cases h : j = k
    · simp [tblPut, tblFind, h]
    · by_cases h2 : k < j
      · simp [tblPut, tblFind, h, h2]
      · simp [tblPut, tblFind, h, h2, ih]

theorem tblFind_tblPut_ne (t : Tbl α) {k j : Nat} (x : α) (h : j ≠ k) : tblFind (tblPut t k x) j = tblFind t j := by
  have h' : ¬ k = j := fun e => h e.symm
  induction t with
  | nil => simp [tblPut, tblFind, h']
  | cons e t ih =>
    obtain ⟨i, y⟩ := e
    by_cases h1 : i = k
    · subst h1; simp [tblPut, tblFind, h']
    · by_cases h2 : k < i
      · simp [tblPut, tblFind, h1, h2, h']
      · simp [tblPut, tblFind, h1, h2, ih]

@[simp] theorem tblGet_tblPut_self (d : α) (t : Tbl α) (k : Nat) (x : α) : tblGet d (tblPut t k x) k = x := by
  simp [tblGet]

theorem tblGet_tblPut_ne (d : α) (t : Tbl α) {k j : Nat} (x : α) (h : j ≠ k) : tblGet d (tblPut t k x) j = tblGet d t j := by
  simp [tblGet, tblFind_tblPut_ne t x h]

@[simp] theorem tblGet_nil (d : α) (k : Nat) : tblGet d [] k = d := rfl

@[simp] theorem tblGet_tblMod_self (d : α) (t : Tbl α) (k : Nat) (f : α → α) : tblGet d (tblMod d t k f) k = f (tblGet d t k) := by
  simp [tblMod]

theorem tblGet_tblMod_ne (d e : α) (t : Tbl α) {k j : Nat} (f : α → α) (h : j ≠ k) : tblGet e (tblMod d t k f) j = tblGet e t j := by
  simp [tblMod, tblGet_tblPut_ne e t _ h]

@[simp] theorem tblFind_tblDel_self (t : Tbl α) (k : Nat) : tblFind (tblDel t k) k = none := by
  induction t with
  | nil => rfl
  | cons e t ih =>
    obtain ⟨j, y⟩ := e
    by_cases h : j = k
    · subst h; simpa [tblDel] using ih
    · have : (j != k) = true := by simp [h]
      simp only [tblDel, List.filter, this] at ih ⊢
      simp [tblFind, h, ih]

theorem tblFind_tblDel_ne (t : Tbl α) {k j : Nat} (h : j ≠ k) : tblFind (tblDel t k) j = tblFind t j := by
  induction t with
  | nil => rfl
  | cons e t ih =>
    obtain ⟨i, y⟩ := e
    by_cases h1 : i = k
    · subst h1
      have h' : ¬ i = j := fun e => h e.symm
      simp only [tblDel, List.filter, bne_self_eq_false] at ih ⊢
      simp [tblFind, h', ih]
    · have : (i != k) = true := by simp [h1]
      simp only [tblDel, List.filter, this] at ih ⊢
      simp [tblFind, ih]

end Sys2Proof.Machine
end

