-- ==== Sys2Proof/Laws/State.lean ====
section
/-! SUPPORT. Which fields of the module, of a core and of a cluster an update leaves: one lemma per field per update, and what an accessor reads after an update. -/

namespace Sys2Proof.Machine

/-! ## The module's fields -/

@[simp] theorem setCore_now (m : Mod) (c : Nat) (f : Core → Core) : (setCore m c f).now = m.now := rfl
@[simp] theorem setCore_free (m : Mod) (c : Nat) (f : Core → Core) : (setCore m c f).free = m.free := rfl
@[simp] theorem setCore_clusters (m : Mod) (c : Nat) (f : Core → Core) : (setCore m c f).clusters = m.clusters := rfl
@[simp] theorem setCore_mem (m : Mod) (c : Nat) (f : Core → Core) : (setCore m c f).mem = m.mem := rfl
@[simp] theorem setCore_accs (m : Mod) (c : Nat) (f : Core → Core) : (setCore m c f).accs = m.accs := rfl
@[simp] theorem setCore_nextAcc (m : Mod) (c : Nat) (f : Core → Core) : (setCore m c f).nextAcc = m.nextAcc := rfl
@[simp] theorem setCore_net (m : Mod) (c : Nat) (f : Core → Core) : (setCore m c f).net = m.net := rfl
@[simp] theorem setCore_nextNet (m : Mod) (c : Nat) (f : Core → Core) : (setCore m c f).nextNet = m.nextNet := rfl
@[simp] theorem setCore_nextOpen (m : Mod) (c : Nat) (f : Core → Core) : (setCore m c f).nextOpen = m.nextOpen := rfl
@[simp] theorem setCore_place (m : Mod) (c : Nat) (f : Core → Core) : (setCore m c f).place = m.place := rfl
@[simp] theorem setCore_bridgeDown (m : Mod) (c : Nat) (f : Core → Core) : (setCore m c f).bridgeDown = m.bridgeDown := rfl
@[simp] theorem setCore_fab (m : Mod) (c : Nat) (f : Core → Core) : (setCore m c f).fab = m.fab := rfl
@[simp] theorem setCore_hq (m : Mod) (c : Nat) (f : Core → Core) : (setCore m c f).hq = m.hq := rfl
@[simp] theorem setCore_rcv (m : Mod) (c : Nat) (f : Core → Core) : (setCore m c f).rcv = m.rcv := rfl
@[simp] theorem setCore_tb (m : Mod) (c : Nat) (f : Core → Core) : (setCore m c f).tb = m.tb := rfl
@[simp] theorem setCore_pwr (m : Mod) (c : Nat) (f : Core → Core) : (setCore m c f).pwr = m.pwr := rfl
@[simp] theorem setCore_sec (m : Mod) (c : Nat) (f : Core → Core) : (setCore m c f).sec = m.sec := rfl
@[simp] theorem setCore_pins (m : Mod) (c : Nat) (f : Core → Core) : (setCore m c f).pins = m.pins := rfl
@[simp] theorem setCore_answer (m : Mod) (c : Nat) (f : Core → Core) : (setCore m c f).answer = m.answer := rfl
@[simp] theorem setCore_out (m : Mod) (c : Nat) (f : Core → Core) : (setCore m c f).out = m.out := rfl

@[simp] theorem setCtx_now (m : Mod) (t : Nat) (f : Ctx → Ctx) : (setCtx m t f).now = m.now := rfl
@[simp] theorem setCtx_free (m : Mod) (t : Nat) (f : Ctx → Ctx) : (setCtx m t f).free = m.free := rfl
@[simp] theorem setCtx_clusters (m : Mod) (t : Nat) (f : Ctx → Ctx) : (setCtx m t f).clusters = m.clusters := rfl
@[simp] theorem setCtx_mem (m : Mod) (t : Nat) (f : Ctx → Ctx) : (setCtx m t f).mem = m.mem := rfl
@[simp] theorem setCtx_accs (m : Mod) (t : Nat) (f : Ctx → Ctx) : (setCtx m t f).accs = m.accs := rfl
@[simp] theorem setCtx_nextAcc (m : Mod) (t : Nat) (f : Ctx → Ctx) : (setCtx m t f).nextAcc = m.nextAcc := rfl
@[simp] theorem setCtx_net (m : Mod) (t : Nat) (f : Ctx → Ctx) : (setCtx m t f).net = m.net := rfl
@[simp] theorem setCtx_nextNet (m : Mod) (t : Nat) (f : Ctx → Ctx) : (setCtx m t f).nextNet = m.nextNet := rfl
@[simp] theorem setCtx_nextOpen (m : Mod) (t : Nat) (f : Ctx → Ctx) : (setCtx m t f).nextOpen = m.nextOpen := rfl
@[simp] theorem setCtx_place (m : Mod) (t : Nat) (f : Ctx → Ctx) : (setCtx m t f).place = m.place := rfl
@[simp] theorem setCtx_bridgeDown (m : Mod) (t : Nat) (f : Ctx → Ctx) : (setCtx m t f).bridgeDown = m.bridgeDown := rfl
@[simp] theorem setCtx_fab (m : Mod) (t : Nat) (f : Ctx → Ctx) : (setCtx m t f).fab = m.fab := rfl
@[simp] theorem setCtx_hq (m : Mod) (t : Nat) (f : Ctx → Ctx) : (setCtx m t f).hq = m.hq := rfl
@[simp] theorem setCtx_rcv (m : Mod) (t : Nat) (f : Ctx → Ctx) : (setCtx m t f).rcv = m.rcv := rfl
@[simp] theorem setCtx_tb (m : Mod) (t : Nat) (f : Ctx → Ctx) : (setCtx m t f).tb = m.tb := rfl
@[simp] theorem setCtx_pwr (m : Mod) (t : Nat) (f : Ctx → Ctx) : (setCtx m t f).pwr = m.pwr := rfl
@[simp] theorem setCtx_sec (m : Mod) (t : Nat) (f : Ctx → Ctx) : (setCtx m t f).sec = m.sec := rfl
@[simp] theorem setCtx_pins (m : Mod) (t : Nat) (f : Ctx → Ctx) : (setCtx m t f).pins = m.pins := rfl
@[simp] theorem setCtx_answer (m : Mod) (t : Nat) (f : Ctx → Ctx) : (setCtx m t f).answer = m.answer := rfl
@[simp] theorem setCtx_out (m : Mod) (t : Nat) (f : Ctx → Ctx) : (setCtx m t f).out = m.out := rfl

@[simp] theorem setCluster_now (m : Mod) (q : Nat) (f : Cluster → Cluster) : (setCluster m q f).now = m.now := rfl
@[simp] theorem setCluster_free (m : Mod) (q : Nat) (f : Cluster → Cluster) : (setCluster m q f).free = m.free := rfl
@[simp] theorem setCluster_cores (m : Mod) (q : Nat) (f : Cluster → Cluster) : (setCluster m q f).cores = m.cores := rfl
@[simp] theorem setCluster_mem (m : Mod) (q : Nat) (f : Cluster → Cluster) : (setCluster m q f).mem = m.mem := rfl
@[simp] theorem setCluster_accs (m : Mod) (q : Nat) (f : Cluster → Cluster) : (setCluster m q f).accs = m.accs := rfl
@[simp] theorem setCluster_nextAcc (m : Mod) (q : Nat) (f : Cluster → Cluster) : (setCluster m q f).nextAcc = m.nextAcc := rfl
@[simp] theorem setCluster_net (m : Mod) (q : Nat) (f : Cluster → Cluster) : (setCluster m q f).net = m.net := rfl
@[simp] theorem setCluster_nextNet (m : Mod) (q : Nat) (f : Cluster → Cluster) : (setCluster m q f).nextNet = m.nextNet := rfl
@[simp] theorem setCluster_nextOpen (m : Mod) (q : Nat) (f : Cluster → Cluster) : (setCluster m q f).nextOpen = m.nextOpen := rfl
@[simp] theorem setCluster_place (m : Mod) (q : Nat) (f : Cluster → Cluster) : (setCluster m q f).place = m.place := rfl
@[simp] theorem setCluster_bridgeDown (m : Mod) (q : Nat) (f : Cluster → Cluster) : (setCluster m q f).bridgeDown = m.bridgeDown := rfl
@[simp] theorem setCluster_fab (m : Mod) (q : Nat) (f : Cluster → Cluster) : (setCluster m q f).fab = m.fab := rfl
@[simp] theorem setCluster_hq (m : Mod) (q : Nat) (f : Cluster → Cluster) : (setCluster m q f).hq = m.hq := rfl
@[simp] theorem setCluster_rcv (m : Mod) (q : Nat) (f : Cluster → Cluster) : (setCluster m q f).rcv = m.rcv := rfl
@[simp] theorem setCluster_tb (m : Mod) (q : Nat) (f : Cluster → Cluster) : (setCluster m q f).tb = m.tb := rfl
@[simp] theorem setCluster_pwr (m : Mod) (q : Nat) (f : Cluster → Cluster) : (setCluster m q f).pwr = m.pwr := rfl
@[simp] theorem setCluster_sec (m : Mod) (q : Nat) (f : Cluster → Cluster) : (setCluster m q f).sec = m.sec := rfl
@[simp] theorem setCluster_pins (m : Mod) (q : Nat) (f : Cluster → Cluster) : (setCluster m q f).pins = m.pins := rfl
@[simp] theorem setCluster_answer (m : Mod) (q : Nat) (f : Cluster → Cluster) : (setCluster m q f).answer = m.answer := rfl
@[simp] theorem setCluster_out (m : Mod) (q : Nat) (f : Cluster → Cluster) : (setCluster m q f).out = m.out := rfl

@[simp] theorem touchTile_now (m : Mod) (q : Nat) : (touchTile m q).now = m.now := rfl
@[simp] theorem touchTile_free (m : Mod) (q : Nat) : (touchTile m q).free = m.free := rfl
@[simp] theorem touchTile_cores (m : Mod) (q : Nat) : (touchTile m q).cores = m.cores := rfl
@[simp] theorem touchTile_mem (m : Mod) (q : Nat) : (touchTile m q).mem = m.mem := rfl
@[simp] theorem touchTile_accs (m : Mod) (q : Nat) : (touchTile m q).accs = m.accs := rfl
@[simp] theorem touchTile_nextAcc (m : Mod) (q : Nat) : (touchTile m q).nextAcc = m.nextAcc := rfl
@[simp] theorem touchTile_net (m : Mod) (q : Nat) : (touchTile m q).net = m.net := rfl
@[simp] theorem touchTile_nextNet (m : Mod) (q : Nat) : (touchTile m q).nextNet = m.nextNet := rfl
@[simp] theorem touchTile_nextOpen (m : Mod) (q : Nat) : (touchTile m q).nextOpen = m.nextOpen := rfl
@[simp] theorem touchTile_place (m : Mod) (q : Nat) : (touchTile m q).place = m.place := rfl
@[simp] theorem touchTile_bridgeDown (m : Mod) (q : Nat) : (touchTile m q).bridgeDown = m.bridgeDown := rfl
@[simp] theorem touchTile_fab (m : Mod) (q : Nat) : (touchTile m q).fab = m.fab := rfl
@[simp] theorem touchTile_hq (m : Mod) (q : Nat) : (touchTile m q).hq = m.hq := rfl
@[simp] theorem touchTile_rcv (m : Mod) (q : Nat) : (touchTile m q).rcv = m.rcv := rfl
@[simp] theorem touchTile_tb (m : Mod) (q : Nat) : (touchTile m q).tb = m.tb := rfl
@[simp] theorem touchTile_pwr (m : Mod) (q : Nat) : (touchTile m q).pwr = m.pwr := rfl
@[simp] theorem touchTile_sec (m : Mod) (q : Nat) : (touchTile m q).sec = m.sec := rfl
@[simp] theorem touchTile_pins (m : Mod) (q : Nat) : (touchTile m q).pins = m.pins := rfl
@[simp] theorem touchTile_answer (m : Mod) (q : Nat) : (touchTile m q).answer = m.answer := rfl
@[simp] theorem touchTile_out (m : Mod) (q : Nat) : (touchTile m q).out = m.out := rfl

@[simp] theorem count_now (m : Mod) (c k n : Nat) : (count m c k n).now = m.now := by unfold count; split <;> rfl
@[simp] theorem count_free (m : Mod) (c k n : Nat) : (count m c k n).free = m.free := by unfold count; split <;> rfl
@[simp] theorem count_clusters (m : Mod) (c k n : Nat) : (count m c k n).clusters = m.clusters := by unfold count; split <;> rfl
@[simp] theorem count_mem (m : Mod) (c k n : Nat) : (count m c k n).mem = m.mem := by unfold count; split <;> rfl
@[simp] theorem count_accs (m : Mod) (c k n : Nat) : (count m c k n).accs = m.accs := by unfold count; split <;> rfl
@[simp] theorem count_nextAcc (m : Mod) (c k n : Nat) : (count m c k n).nextAcc = m.nextAcc := by unfold count; split <;> rfl
@[simp] theorem count_net (m : Mod) (c k n : Nat) : (count m c k n).net = m.net := by unfold count; split <;> rfl
@[simp] theorem count_nextNet (m : Mod) (c k n : Nat) : (count m c k n).nextNet = m.nextNet := by unfold count; split <;> rfl
@[simp] theorem count_nextOpen (m : Mod) (c k n : Nat) : (count m c k n).nextOpen = m.nextOpen := by unfold count; split <;> rfl
@[simp] theorem count_place (m : Mod) (c k n : Nat) : (count m c k n).place = m.place := by unfold count; split <;> rfl
@[simp] theorem count_bridgeDown (m : Mod) (c k n : Nat) : (count m c k n).bridgeDown = m.bridgeDown := by unfold count; split <;> rfl
@[simp] theorem count_fab (m : Mod) (c k n : Nat) : (count m c k n).fab = m.fab := by unfold count; split <;> rfl
@[simp] theorem count_hq (m : Mod) (c k n : Nat) : (count m c k n).hq = m.hq := by unfold count; split <;> rfl
@[simp] theorem count_rcv (m : Mod) (c k n : Nat) : (count m c k n).rcv = m.rcv := by unfold count; split <;> rfl
@[simp] theorem count_tb (m : Mod) (c k n : Nat) : (count m c k n).tb = m.tb := by unfold count; split <;> rfl
@[simp] theorem count_pwr (m : Mod) (c k n : Nat) : (count m c k n).pwr = m.pwr := by unfold count; split <;> rfl
@[simp] theorem count_sec (m : Mod) (c k n : Nat) : (count m c k n).sec = m.sec := by unfold count; split <;> rfl
@[simp] theorem count_pins (m : Mod) (c k n : Nat) : (count m c k n).pins = m.pins := by unfold count; split <;> rfl
@[simp] theorem count_answer (m : Mod) (c k n : Nat) : (count m c k n).answer = m.answer := by unfold count; split <;> rfl
@[simp] theorem count_out (m : Mod) (c k n : Nat) : (count m c k n).out = m.out := by unfold count; split <;> rfl

@[simp] theorem countCluster_now (m : Mod) (q k n : Nat) : (countCluster m q k n).now = m.now := by unfold countCluster; split <;> rfl
@[simp] theorem countCluster_free (m : Mod) (q k n : Nat) : (countCluster m q k n).free = m.free := by unfold countCluster; split <;> rfl
@[simp] theorem countCluster_cores (m : Mod) (q k n : Nat) : (countCluster m q k n).cores = m.cores := by unfold countCluster; split <;> rfl
@[simp] theorem countCluster_mem (m : Mod) (q k n : Nat) : (countCluster m q k n).mem = m.mem := by unfold countCluster; split <;> rfl
@[simp] theorem countCluster_accs (m : Mod) (q k n : Nat) : (countCluster m q k n).accs = m.accs := by unfold countCluster; split <;> rfl
@[simp] theorem countCluster_nextAcc (m : Mod) (q k n : Nat) : (countCluster m q k n).nextAcc = m.nextAcc := by unfold countCluster; split <;> rfl
@[simp] theorem countCluster_net (m : Mod) (q k n : Nat) : (countCluster m q k n).net = m.net := by unfold countCluster; split <;> rfl
@[simp] theorem countCluster_nextNet (m : Mod) (q k n : Nat) : (countCluster m q k n).nextNet = m.nextNet := by unfold countCluster; split <;> rfl
@[simp] theorem countCluster_nextOpen (m : Mod) (q k n : Nat) : (countCluster m q k n).nextOpen = m.nextOpen := by unfold countCluster; split <;> rfl
@[simp] theorem countCluster_place (m : Mod) (q k n : Nat) : (countCluster m q k n).place = m.place := by unfold countCluster; split <;> rfl
@[simp] theorem countCluster_bridgeDown (m : Mod) (q k n : Nat) : (countCluster m q k n).bridgeDown = m.bridgeDown := by unfold countCluster; split <;> rfl
@[simp] theorem countCluster_fab (m : Mod) (q k n : Nat) : (countCluster m q k n).fab = m.fab := by unfold countCluster; split <;> rfl
@[simp] theorem countCluster_hq (m : Mod) (q k n : Nat) : (countCluster m q k n).hq = m.hq := by unfold countCluster; split <;> rfl
@[simp] theorem countCluster_rcv (m : Mod) (q k n : Nat) : (countCluster m q k n).rcv = m.rcv := by unfold countCluster; split <;> rfl
@[simp] theorem countCluster_tb (m : Mod) (q k n : Nat) : (countCluster m q k n).tb = m.tb := by unfold countCluster; split <;> rfl
@[simp] theorem countCluster_pwr (m : Mod) (q k n : Nat) : (countCluster m q k n).pwr = m.pwr := by unfold countCluster; split <;> rfl
@[simp] theorem countCluster_sec (m : Mod) (q k n : Nat) : (countCluster m q k n).sec = m.sec := by unfold countCluster; split <;> rfl
@[simp] theorem countCluster_pins (m : Mod) (q k n : Nat) : (countCluster m q k n).pins = m.pins := by unfold countCluster; split <;> rfl
@[simp] theorem countCluster_answer (m : Mod) (q k n : Nat) : (countCluster m q k n).answer = m.answer := by unfold countCluster; split <;> rfl
@[simp] theorem countCluster_out (m : Mod) (q k n : Nat) : (countCluster m q k n).out = m.out := by unfold countCluster; split <;> rfl

@[simp] theorem land_now (m : Mod) (th t n : Nat) (sl : Slot) (pc : Word) (w : Write) : (land m th t n sl pc w).now = m.now := rfl
@[simp] theorem land_free (m : Mod) (th t n : Nat) (sl : Slot) (pc : Word) (w : Write) : (land m th t n sl pc w).free = m.free := rfl
@[simp] theorem land_clusters (m : Mod) (th t n : Nat) (sl : Slot) (pc : Word) (w : Write) : (land m th t n sl pc w).clusters = m.clusters := rfl
@[simp] theorem land_mem (m : Mod) (th t n : Nat) (sl : Slot) (pc : Word) (w : Write) : (land m th t n sl pc w).mem = m.mem := rfl
@[simp] theorem land_accs (m : Mod) (th t n : Nat) (sl : Slot) (pc : Word) (w : Write) : (land m th t n sl pc w).accs = m.accs := rfl
@[simp] theorem land_nextAcc (m : Mod) (th t n : Nat) (sl : Slot) (pc : Word) (w : Write) : (land m th t n sl pc w).nextAcc = m.nextAcc := rfl
@[simp] theorem land_net (m : Mod) (th t n : Nat) (sl : Slot) (pc : Word) (w : Write) : (land m th t n sl pc w).net = m.net := rfl
@[simp] theorem land_nextNet (m : Mod) (th t n : Nat) (sl : Slot) (pc : Word) (w : Write) : (land m th t n sl pc w).nextNet = m.nextNet := rfl
@[simp] theorem land_nextOpen (m : Mod) (th t n : Nat) (sl : Slot) (pc : Word) (w : Write) : (land m th t n sl pc w).nextOpen = m.nextOpen := rfl
@[simp] theorem land_place (m : Mod) (th t n : Nat) (sl : Slot) (pc : Word) (w : Write) : (land m th t n sl pc w).place = m.place := rfl
@[simp] theorem land_bridgeDown (m : Mod) (th t n : Nat) (sl : Slot) (pc : Word) (w : Write) : (land m th t n sl pc w).bridgeDown = m.bridgeDown := rfl
@[simp] theorem land_fab (m : Mod) (th t n : Nat) (sl : Slot) (pc : Word) (w : Write) : (land m th t n sl pc w).fab = m.fab := rfl
@[simp] theorem land_hq (m : Mod) (th t n : Nat) (sl : Slot) (pc : Word) (w : Write) : (land m th t n sl pc w).hq = m.hq := rfl
@[simp] theorem land_rcv (m : Mod) (th t n : Nat) (sl : Slot) (pc : Word) (w : Write) : (land m th t n sl pc w).rcv = m.rcv := rfl
@[simp] theorem land_tb (m : Mod) (th t n : Nat) (sl : Slot) (pc : Word) (w : Write) : (land m th t n sl pc w).tb = m.tb := rfl
@[simp] theorem land_pwr (m : Mod) (th t n : Nat) (sl : Slot) (pc : Word) (w : Write) : (land m th t n sl pc w).pwr = m.pwr := rfl
@[simp] theorem land_sec (m : Mod) (th t n : Nat) (sl : Slot) (pc : Word) (w : Write) : (land m th t n sl pc w).sec = m.sec := rfl
@[simp] theorem land_pins (m : Mod) (th t n : Nat) (sl : Slot) (pc : Word) (w : Write) : (land m th t n sl pc w).pins = m.pins := rfl
@[simp] theorem land_answer (m : Mod) (th t n : Nat) (sl : Slot) (pc : Word) (w : Write) : (land m th t n sl pc w).answer = m.answer := rfl
@[simp] theorem land_out (m : Mod) (th t n : Nat) (sl : Slot) (pc : Word) (w : Write) : (land m th t n sl pc w).out = m.out := rfl

@[simp] theorem raiseCheck_now (m : Mod) (t : Nat) (f : Flt) : (raiseCheck m t f).now = m.now := rfl
@[simp] theorem raiseCheck_free (m : Mod) (t : Nat) (f : Flt) : (raiseCheck m t f).free = m.free := rfl
@[simp] theorem raiseCheck_clusters (m : Mod) (t : Nat) (f : Flt) : (raiseCheck m t f).clusters = m.clusters := rfl
@[simp] theorem raiseCheck_mem (m : Mod) (t : Nat) (f : Flt) : (raiseCheck m t f).mem = m.mem := rfl
@[simp] theorem raiseCheck_accs (m : Mod) (t : Nat) (f : Flt) : (raiseCheck m t f).accs = m.accs := rfl
@[simp] theorem raiseCheck_nextAcc (m : Mod) (t : Nat) (f : Flt) : (raiseCheck m t f).nextAcc = m.nextAcc := rfl
@[simp] theorem raiseCheck_net (m : Mod) (t : Nat) (f : Flt) : (raiseCheck m t f).net = m.net := rfl
@[simp] theorem raiseCheck_nextNet (m : Mod) (t : Nat) (f : Flt) : (raiseCheck m t f).nextNet = m.nextNet := rfl
@[simp] theorem raiseCheck_nextOpen (m : Mod) (t : Nat) (f : Flt) : (raiseCheck m t f).nextOpen = m.nextOpen := rfl
@[simp] theorem raiseCheck_place (m : Mod) (t : Nat) (f : Flt) : (raiseCheck m t f).place = m.place := rfl
@[simp] theorem raiseCheck_bridgeDown (m : Mod) (t : Nat) (f : Flt) : (raiseCheck m t f).bridgeDown = m.bridgeDown := rfl
@[simp] theorem raiseCheck_fab (m : Mod) (t : Nat) (f : Flt) : (raiseCheck m t f).fab = m.fab := rfl
@[simp] theorem raiseCheck_hq (m : Mod) (t : Nat) (f : Flt) : (raiseCheck m t f).hq = m.hq := rfl
@[simp] theorem raiseCheck_rcv (m : Mod) (t : Nat) (f : Flt) : (raiseCheck m t f).rcv = m.rcv := rfl
@[simp] theorem raiseCheck_tb (m : Mod) (t : Nat) (f : Flt) : (raiseCheck m t f).tb = m.tb := rfl
@[simp] theorem raiseCheck_pwr (m : Mod) (t : Nat) (f : Flt) : (raiseCheck m t f).pwr = m.pwr := rfl
@[simp] theorem raiseCheck_sec (m : Mod) (t : Nat) (f : Flt) : (raiseCheck m t f).sec = m.sec := rfl
@[simp] theorem raiseCheck_pins (m : Mod) (t : Nat) (f : Flt) : (raiseCheck m t f).pins = m.pins := rfl
@[simp] theorem raiseCheck_answer (m : Mod) (t : Nat) (f : Flt) : (raiseCheck m t f).answer = m.answer := rfl
@[simp] theorem raiseCheck_out (m : Mod) (t : Nat) (f : Flt) : (raiseCheck m t f).out = m.out := rfl

/-! ## A core and its fields -/

@[simp] theorem core_setCore_self (m : Mod) (c : Nat) (f : Core → Core) : core (setCore m c f) c = f (core m c) := by
  simp [core, setCore]
theorem core_setCore_ne (m : Mod) {c e : Nat} (f : Core → Core) (h : e ≠ c) : core (setCore m c f) e = core m e := by
  simp [core, setCore, tblGet_tblMod_ne _ _ _ _ h]
theorem core_setCtx_ne (m : Mod) {t e : Nat} (f : Ctx → Ctx) (h : e ≠ t / 4) : core (setCtx m t f) e = core m e := by
  simp [setCtx, core_setCore_ne _ _ h]
@[simp] theorem core_setCluster (m : Mod) (q : Nat) (f : Cluster → Cluster) (c : Nat) : core (setCluster m q f) c = core m c := rfl
@[simp] theorem core_countCluster (m : Mod) (q k n c : Nat) : core (countCluster m q k n) c = core m c := by
  unfold countCluster; split <;> rfl

@[simp] theorem core_setCtx_cycle (m : Mod) (t c : Nat) (f : Ctx → Ctx) : (core (setCtx m t f) c).cycle = (core m c).cycle := by
  by_cases h : c = t / 4
  · subst h; simp [setCtx]
  · rw [core_setCtx_ne m f h]
@[simp] theorem core_setCtx_nextIssue (m : Mod) (t c : Nat) (f : Ctx → Ctx) : (core (setCtx m t f) c).nextIssue = (core m c).nextIssue := by
  by_cases h : c = t / 4
  · subst h; simp [setCtx]
  · rw [core_setCtx_ne m f h]
@[simp] theorem core_setCtx_switchAt (m : Mod) (t c : Nat) (f : Ctx → Ctx) : (core (setCtx m t f) c).switchAt = (core m c).switchAt := by
  by_cases h : c = t / 4
  · subst h; simp [setCtx]
  · rw [core_setCtx_ne m f h]
@[simp] theorem core_setCtx_idle (m : Mod) (t c : Nat) (f : Ctx → Ctx) : (core (setCtx m t f) c).idle = (core m c).idle := by
  by_cases h : c = t / 4
  · subst h; simp [setCtx]
  · rw [core_setCtx_ne m f h]
@[simp] theorem core_setCtx_lastIssue (m : Mod) (t c : Nat) (f : Ctx → Ctx) : (core (setCtx m t f) c).lastIssue = (core m c).lastIssue := by
  by_cases h : c = t / 4
  · subst h; simp [setCtx]
  · rw [core_setCtx_ne m f h]
@[simp] theorem core_setCtx_sdmBusy (m : Mod) (t c : Nat) (f : Ctx → Ctx) : (core (setCtx m t f) c).sdmBusy = (core m c).sdmBusy := by
  by_cases h : c = t / 4
  · subst h; simp [setCtx]
  · rw [core_setCtx_ne m f h]
@[simp] theorem core_setCtx_wdFrom (m : Mod) (t c : Nat) (f : Ctx → Ctx) : (core (setCtx m t f) c).wdFrom = (core m c).wdFrom := by
  by_cases h : c = t / 4
  · subst h; simp [setCtx]
  · rw [core_setCtx_ne m f h]
@[simp] theorem core_setCtx_cur (m : Mod) (t c : Nat) (f : Ctx → Ctx) : (core (setCtx m t f) c).cur = (core m c).cur := by
  by_cases h : c = t / 4
  · subst h; simp [setCtx]
  · rw [core_setCtx_ne m f h]
@[simp] theorem core_setCtx_lastNormal (m : Mod) (t c : Nat) (f : Ctx → Ctx) : (core (setCtx m t f) c).lastNormal = (core m c).lastNormal := by
  by_cases h : c = t / 4
  · subst h; simp [setCtx]
  · rw [core_setCtx_ne m f h]
@[simp] theorem core_setCtx_lastHigh (m : Mod) (t c : Nat) (f : Ctx → Ctx) : (core (setCtx m t f) c).lastHigh = (core m c).lastHigh := by
  by_cases h : c = t / 4
  · subst h; simp [setCtx]
  · rw [core_setCtx_ne m f h]
@[simp] theorem core_setCtx_expired (m : Mod) (t c : Nat) (f : Ctx → Ctx) : (core (setCtx m t f) c).expired = (core m c).expired := by
  by_cases h : c = t / 4
  · subst h; simp [setCtx]
  · rw [core_setCtx_ne m f h]
@[simp] theorem core_setCtx_inReset (m : Mod) (t c : Nat) (f : Ctx → Ctx) : (core (setCtx m t f) c).inReset = (core m c).inReset := by
  by_cases h : c = t / 4
  · subst h; simp [setCtx]
  · rw [core_setCtx_ne m f h]
@[simp] theorem core_setCtx_dfBase (m : Mod) (t c : Nat) (f : Ctx → Ctx) : (core (setCtx m t f) c).dfBase = (core m c).dfBase := by
  by_cases h : c = t / 4
  · subst h; simp [setCtx]
  · rw [core_setCtx_ne m f h]
@[simp] theorem core_setCtx_quantum (m : Mod) (t c : Nat) (f : Ctx → Ctx) : (core (setCtx m t f) c).quantum = (core m c).quantum := by
  by_cases h : c = t / 4
  · subst h; simp [setCtx]
  · rw [core_setCtx_ne m f h]
@[simp] theorem core_setCtx_wdLimit (m : Mod) (t c : Nat) (f : Ctx → Ctx) : (core (setCtx m t f) c).wdLimit = (core m c).wdLimit := by
  by_cases h : c = t / 4
  · subst h; simp [setCtx]
  · rw [core_setCtx_ne m f h]
@[simp] theorem core_setCtx_wdWhy (m : Mod) (t c : Nat) (f : Ctx → Ctx) : (core (setCtx m t f) c).wdWhy = (core m c).wdWhy := by
  by_cases h : c = t / 4
  · subst h; simp [setCtx]
  · rw [core_setCtx_ne m f h]
@[simp] theorem core_setCtx_shareStatic (m : Mod) (t c : Nat) (f : Ctx → Ctx) : (core (setCtx m t f) c).shareStatic = (core m c).shareStatic := by
  by_cases h : c = t / 4
  · subst h; simp [setCtx]
  · rw [core_setCtx_ne m f h]
@[simp] theorem core_setCtx_fcap (m : Mod) (t c : Nat) (f : Ctx → Ctx) : (core (setCtx m t f) c).fcap = (core m c).fcap := by
  by_cases h : c = t / 4
  · subst h; simp [setCtx]
  · rw [core_setCtx_ne m f h]
@[simp] theorem core_setCtx_scap (m : Mod) (t c : Nat) (f : Ctx → Ctx) : (core (setCtx m t f) c).scap = (core m c).scap := by
  by_cases h : c = t / 4
  · subst h; simp [setCtx]
  · rw [core_setCtx_ne m f h]
@[simp] theorem core_setCtx_conf (m : Mod) (t c : Nat) (f : Ctx → Ctx) : (core (setCtx m t f) c).conf = (core m c).conf := by
  by_cases h : c = t / 4
  · subst h; simp [setCtx]
  · rw [core_setCtx_ne m f h]
@[simp] theorem core_setCtx_dbgBusy (m : Mod) (t c : Nat) (f : Ctx → Ctx) : (core (setCtx m t f) c).dbgBusy = (core m c).dbgBusy := by
  by_cases h : c = t / 4
  · subst h; simp [setCtx]
  · rw [core_setCtx_ne m f h]
@[simp] theorem core_setCtx_dbgStatus (m : Mod) (t c : Nat) (f : Ctx → Ctx) : (core (setCtx m t f) c).dbgStatus = (core m c).dbgStatus := by
  by_cases h : c = t / 4
  · subst h; simp [setCtx]
  · rw [core_setCtx_ne m f h]
@[simp] theorem core_setCtx_dbgOp (m : Mod) (t c : Nat) (f : Ctx → Ctx) : (core (setCtx m t f) c).dbgOp = (core m c).dbgOp := by
  by_cases h : c = t / 4
  · subst h; simp [setCtx]
  · rw [core_setCtx_ne m f h]
@[simp] theorem core_setCtx_saveBase (m : Mod) (t c : Nat) (f : Ctx → Ctx) : (core (setCtx m t f) c).saveBase = (core m c).saveBase := by
  by_cases h : c = t / 4
  · subst h; simp [setCtx]
  · rw [core_setCtx_ne m f h]
@[simp] theorem core_setCtx_pfdist (m : Mod) (t c : Nat) (f : Ctx → Ctx) : (core (setCtx m t f) c).pfdist = (core m c).pfdist := by
  by_cases h : c = t / 4
  · subst h; simp [setCtx]
  · rw [core_setCtx_ne m f h]
@[simp] theorem core_setCtx_ipfen (m : Mod) (t c : Nat) (f : Ctx → Ctx) : (core (setCtx m t f) c).ipfen = (core m c).ipfen := by
  by_cases h : c = t / 4
  · subst h; simp [setCtx]
  · rw [core_setCtx_ne m f h]
@[simp] theorem core_setCtx_dpfen (m : Mod) (t c : Nat) (f : Ctx → Ctx) : (core (setCtx m t f) c).dpfen = (core m c).dpfen := by
  by_cases h : c = t / 4
  · subst h; simp [setCtx]
  · rw [core_setCtx_ne m f h]
@[simp] theorem core_setCtx_strmCap (m : Mod) (t c : Nat) (f : Ctx → Ctx) : (core (setCtx m t f) c).strmCap = (core m c).strmCap := by
  by_cases h : c = t / 4
  · subst h; simp [setCtx]
  · rw [core_setCtx_ne m f h]
@[simp] theorem core_setCtx_dtable (m : Mod) (t c : Nat) (f : Ctx → Ctx) : (core (setCtx m t f) c).dtable = (core m c).dtable := by
  by_cases h : c = t / 4
  · subst h; simp [setCtx]
  · rw [core_setCtx_ne m f h]
@[simp] theorem core_setCtx_wdtPend (m : Mod) (t c : Nat) (f : Ctx → Ctx) : (core (setCtx m t f) c).wdtPend = (core m c).wdtPend := by
  by_cases h : c = t / 4
  · subst h; simp [setCtx]
  · rw [core_setCtx_ne m f h]
@[simp] theorem core_setCtx_tableSec (m : Mod) (t c : Nat) (f : Ctx → Ctx) : (core (setCtx m t f) c).tableSec = (core m c).tableSec := by
  by_cases h : c = t / 4
  · subst h; simp [setCtx]
  · rw [core_setCtx_ne m f h]
@[simp] theorem core_setCtx_icache (m : Mod) (t c : Nat) (f : Ctx → Ctx) : (core (setCtx m t f) c).icache = (core m c).icache := by
  by_cases h : c = t / 4
  · subst h; simp [setCtx]
  · rw [core_setCtx_ne m f h]
@[simp] theorem core_setCtx_fetching (m : Mod) (t c : Nat) (f : Ctx → Ctx) : (core (setCtx m t f) c).fetching = (core m c).fetching := by
  by_cases h : c = t / 4
  · subst h; simp [setCtx]
  · rw [core_setCtx_ne m f h]
@[simp] theorem core_setCtx_fetchAt (m : Mod) (t c : Nat) (f : Ctx → Ctx) : (core (setCtx m t f) c).fetchAt = (core m c).fetchAt := by
  by_cases h : c = t / 4
  · subst h; simp [setCtx]
  · rw [core_setCtx_ne m f h]
@[simp] theorem core_setCtx_fetchPaused (m : Mod) (t c : Nat) (f : Ctx → Ctx) : (core (setCtx m t f) c).fetchPaused = (core m c).fetchPaused := by
  by_cases h : c = t / 4
  · subst h; simp [setCtx]
  · rw [core_setCtx_ne m f h]
@[simp] theorem core_setCtx_iprefetch (m : Mod) (t c : Nat) (f : Ctx → Ctx) : (core (setCtx m t f) c).iprefetch = (core m c).iprefetch := by
  by_cases h : c = t / 4
  · subst h; simp [setCtx]
  · rw [core_setCtx_ne m f h]
@[simp] theorem core_setCtx_dcache (m : Mod) (t c : Nat) (f : Ctx → Ctx) : (core (setCtx m t f) c).dcache = (core m c).dcache := by
  by_cases h : c = t / 4
  · subst h; simp [setCtx]
  · rw [core_setCtx_ne m f h]
@[simp] theorem core_setCtx_dfills (m : Mod) (t c : Nat) (f : Ctx → Ctx) : (core (setCtx m t f) c).dfills = (core m c).dfills := by
  by_cases h : c = t / 4
  · subst h; simp [setCtx]
  · rw [core_setCtx_ne m f h]
@[simp] theorem core_setCtx_streams (m : Mod) (t c : Nat) (f : Ctx → Ctx) : (core (setCtx m t f) c).streams = (core m c).streams := by
  by_cases h : c = t / 4
  · subst h; simp [setCtx]
  · rw [core_setCtx_ne m f h]
@[simp] theorem core_setCtx_tlb (m : Mod) (t c : Nat) (f : Ctx → Ctx) : (core (setCtx m t f) c).tlb = (core m c).tlb := by
  by_cases h : c = t / 4
  · subst h; simp [setCtx]
  · rw [core_setCtx_ne m f h]
@[simp] theorem core_setCtx_opcache (m : Mod) (t c : Nat) (f : Ctx → Ctx) : (core (setCtx m t f) c).opcache = (core m c).opcache := by
  by_cases h : c = t / 4
  · subst h; simp [setCtx]
  · rw [core_setCtx_ne m f h]
@[simp] theorem core_setCtx_tgen (m : Mod) (t c : Nat) (f : Ctx → Ctx) : (core (setCtx m t f) c).tgen = (core m c).tgen := by
  by_cases h : c = t / 4
  · subst h; simp [setCtx]
  · rw [core_setCtx_ne m f h]
@[simp] theorem core_setCtx_lmUse (m : Mod) (t c : Nat) (f : Ctx → Ctx) : (core (setCtx m t f) c).lmUse = (core m c).lmUse := by
  by_cases h : c = t / 4
  · subst h; simp [setCtx]
  · rw [core_setCtx_ne m f h]
@[simp] theorem core_setCtx_tileWrites (m : Mod) (t c : Nat) (f : Ctx → Ctx) : (core (setCtx m t f) c).tileWrites = (core m c).tileWrites := by
  by_cases h : c = t / 4
  · subst h; simp [setCtx]
  · rw [core_setCtx_ne m f h]
@[simp] theorem core_setCtx_tileReads (m : Mod) (t c : Nat) (f : Ctx → Ctx) : (core (setCtx m t f) c).tileReads = (core m c).tileReads := by
  by_cases h : c = t / 4
  · subst h; simp [setCtx]
  · rw [core_setCtx_ne m f h]
@[simp] theorem core_setCtx_mmas (m : Mod) (t c : Nat) (f : Ctx → Ctx) : (core (setCtx m t f) c).mmas = (core m c).mmas := by
  by_cases h : c = t / 4
  · subst h; simp [setCtx]
  · rw [core_setCtx_ne m f h]
@[simp] theorem core_setCtx_arrayRuns (m : Mod) (t c : Nat) (f : Ctx → Ctx) : (core (setCtx m t f) c).arrayRuns = (core m c).arrayRuns := by
  by_cases h : c = t / 4
  · subst h; simp [setCtx]
  · rw [core_setCtx_ne m f h]
@[simp] theorem core_setCtx_queues (m : Mod) (t c : Nat) (f : Ctx → Ctx) : (core (setCtx m t f) c).queues = (core m c).queues := by
  by_cases h : c = t / 4
  · subst h; simp [setCtx]
  · rw [core_setCtx_ne m f h]
@[simp] theorem core_setCtx_store (m : Mod) (t c : Nat) (f : Ctx → Ctx) : (core (setCtx m t f) c).store = (core m c).store := by
  by_cases h : c = t / 4
  · subst h; simp [setCtx]
  · rw [core_setCtx_ne m f h]
@[simp] theorem core_setCtx_storeBad (m : Mod) (t c : Nat) (f : Ctx → Ctx) : (core (setCtx m t f) c).storeBad = (core m c).storeBad := by
  by_cases h : c = t / 4
  · subst h; simp [setCtx]
  · rw [core_setCtx_ne m f h]
@[simp] theorem core_setCtx_lastImage (m : Mod) (t c : Nat) (f : Ctx → Ctx) : (core (setCtx m t f) c).lastImage = (core m c).lastImage := by
  by_cases h : c = t / 4
  · subst h; simp [setCtx]
  · rw [core_setCtx_ne m f h]
@[simp] theorem core_setCtx_mappedSince (m : Mod) (t c : Nat) (f : Ctx → Ctx) : (core (setCtx m t f) c).mappedSince = (core m c).mappedSince := by
  by_cases h : c = t / 4
  · subst h; simp [setCtx]
  · rw [core_setCtx_ne m f h]
@[simp] theorem core_setCtx_launches (m : Mod) (t c : Nat) (f : Ctx → Ctx) : (core (setCtx m t f) c).launches = (core m c).launches := by
  by_cases h : c = t / 4
  · subst h; simp [setCtx]
  · rw [core_setCtx_ne m f h]
@[simp] theorem core_setCtx_counters (m : Mod) (t c : Nat) (f : Ctx → Ctx) : (core (setCtx m t f) c).counters = (core m c).counters := by
  by_cases h : c = t / 4
  · subst h; simp [setCtx]
  · rw [core_setCtx_ne m f h]

@[simp] theorem core_count_cycle (m : Mod) (e k n c : Nat) : (core (count m e k n) c).cycle = (core m c).cycle := by
  unfold count; split
  · rfl
  · by_cases h : c = e
    · subst h; simp
    · rw [core_setCore_ne m _ h]
@[simp] theorem core_count_nextIssue (m : Mod) (e k n c : Nat) : (core (count m e k n) c).nextIssue = (core m c).nextIssue := by
  unfold count; split
  · rfl
  · by_cases h : c = e
    · subst h; simp
    · rw [core_setCore_ne m _ h]
@[simp] theorem core_count_switchAt (m : Mod) (e k n c : Nat) : (core (count m e k n) c).switchAt = (core m c).switchAt := by
  unfold count; split
  · rfl
  · by_cases h : c = e
    · subst h; simp
    · rw [core_setCore_ne m _ h]
@[simp] theorem core_count_idle (m : Mod) (e k n c : Nat) : (core (count m e k n) c).idle = (core m c).idle := by
  unfold count; split
  · rfl
  · by_cases h : c = e
    · subst h; simp
    · rw [core_setCore_ne m _ h]
@[simp] theorem core_count_lastIssue (m : Mod) (e k n c : Nat) : (core (count m e k n) c).lastIssue = (core m c).lastIssue := by
  unfold count; split
  · rfl
  · by_cases h : c = e
    · subst h; simp
    · rw [core_setCore_ne m _ h]
@[simp] theorem core_count_sdmBusy (m : Mod) (e k n c : Nat) : (core (count m e k n) c).sdmBusy = (core m c).sdmBusy := by
  unfold count; split
  · rfl
  · by_cases h : c = e
    · subst h; simp
    · rw [core_setCore_ne m _ h]
@[simp] theorem core_count_wdFrom (m : Mod) (e k n c : Nat) : (core (count m e k n) c).wdFrom = (core m c).wdFrom := by
  unfold count; split
  · rfl
  · by_cases h : c = e
    · subst h; simp
    · rw [core_setCore_ne m _ h]
@[simp] theorem core_count_cur (m : Mod) (e k n c : Nat) : (core (count m e k n) c).cur = (core m c).cur := by
  unfold count; split
  · rfl
  · by_cases h : c = e
    · subst h; simp
    · rw [core_setCore_ne m _ h]
@[simp] theorem core_count_lastNormal (m : Mod) (e k n c : Nat) : (core (count m e k n) c).lastNormal = (core m c).lastNormal := by
  unfold count; split
  · rfl
  · by_cases h : c = e
    · subst h; simp
    · rw [core_setCore_ne m _ h]
@[simp] theorem core_count_lastHigh (m : Mod) (e k n c : Nat) : (core (count m e k n) c).lastHigh = (core m c).lastHigh := by
  unfold count; split
  · rfl
  · by_cases h : c = e
    · subst h; simp
    · rw [core_setCore_ne m _ h]
@[simp] theorem core_count_expired (m : Mod) (e k n c : Nat) : (core (count m e k n) c).expired = (core m c).expired := by
  unfold count; split
  · rfl
  · by_cases h : c = e
    · subst h; simp
    · rw [core_setCore_ne m _ h]
@[simp] theorem core_count_ctxs (m : Mod) (e k n c : Nat) : (core (count m e k n) c).ctxs = (core m c).ctxs := by
  unfold count; split
  · rfl
  · by_cases h : c = e
    · subst h; simp
    · rw [core_setCore_ne m _ h]
@[simp] theorem core_count_inReset (m : Mod) (e k n c : Nat) : (core (count m e k n) c).inReset = (core m c).inReset := by
  unfold count; split
  · rfl
  · by_cases h : c = e
    · subst h; simp
    · rw [core_setCore_ne m _ h]
@[simp] theorem core_count_dfBase (m : Mod) (e k n c : Nat) : (core (count m e k n) c).dfBase = (core m c).dfBase := by
  unfold count; split
  · rfl
  · by_cases h : c = e
    · subst h; simp
    · rw [core_setCore_ne m _ h]
@[simp] theorem core_count_quantum (m : Mod) (e k n c : Nat) : (core (count m e k n) c).quantum = (core m c).quantum := by
  unfold count; split
  · rfl
  · by_cases h : c = e
    · subst h; simp
    · rw [core_setCore_ne m _ h]
@[simp] theorem core_count_wdLimit (m : Mod) (e k n c : Nat) : (core (count m e k n) c).wdLimit = (core m c).wdLimit := by
  unfold count; split
  · rfl
  · by_cases h : c = e
    · subst h; simp
    · rw [core_setCore_ne m _ h]
@[simp] theorem core_count_wdWhy (m : Mod) (e k n c : Nat) : (core (count m e k n) c).wdWhy = (core m c).wdWhy := by
  unfold count; split
  · rfl
  · by_cases h : c = e
    · subst h; simp
    · rw [core_setCore_ne m _ h]
@[simp] theorem core_count_shareStatic (m : Mod) (e k n c : Nat) : (core (count m e k n) c).shareStatic = (core m c).shareStatic := by
  unfold count; split
  · rfl
  · by_cases h : c = e
    · subst h; simp
    · rw [core_setCore_ne m _ h]
@[simp] theorem core_count_fcap (m : Mod) (e k n c : Nat) : (core (count m e k n) c).fcap = (core m c).fcap := by
  unfold count; split
  · rfl
  · by_cases h : c = e
    · subst h; simp
    · rw [core_setCore_ne m _ h]
@[simp] theorem core_count_scap (m : Mod) (e k n c : Nat) : (core (count m e k n) c).scap = (core m c).scap := by
  unfold count; split
  · rfl
  · by_cases h : c = e
    · subst h; simp
    · rw [core_setCore_ne m _ h]
@[simp] theorem core_count_conf (m : Mod) (e k n c : Nat) : (core (count m e k n) c).conf = (core m c).conf := by
  unfold count; split
  · rfl
  · by_cases h : c = e
    · subst h; simp
    · rw [core_setCore_ne m _ h]
@[simp] theorem core_count_dbgBusy (m : Mod) (e k n c : Nat) : (core (count m e k n) c).dbgBusy = (core m c).dbgBusy := by
  unfold count; split
  · rfl
  · by_cases h : c = e
    · subst h; simp
    · rw [core_setCore_ne m _ h]
@[simp] theorem core_count_dbgStatus (m : Mod) (e k n c : Nat) : (core (count m e k n) c).dbgStatus = (core m c).dbgStatus := by
  unfold count; split
  · rfl
  · by_cases h : c = e
    · subst h; simp
    · rw [core_setCore_ne m _ h]
@[simp] theorem core_count_dbgOp (m : Mod) (e k n c : Nat) : (core (count m e k n) c).dbgOp = (core m c).dbgOp := by
  unfold count; split
  · rfl
  · by_cases h : c = e
    · subst h; simp
    · rw [core_setCore_ne m _ h]
@[simp] theorem core_count_saveBase (m : Mod) (e k n c : Nat) : (core (count m e k n) c).saveBase = (core m c).saveBase := by
  unfold count; split
  · rfl
  · by_cases h : c = e
    · subst h; simp
    · rw [core_setCore_ne m _ h]
@[simp] theorem core_count_pfdist (m : Mod) (e k n c : Nat) : (core (count m e k n) c).pfdist = (core m c).pfdist := by
  unfold count; split
  · rfl
  · by_cases h : c = e
    · subst h; simp
    · rw [core_setCore_ne m _ h]
@[simp] theorem core_count_ipfen (m : Mod) (e k n c : Nat) : (core (count m e k n) c).ipfen = (core m c).ipfen := by
  unfold count; split
  · rfl
  · by_cases h : c = e
    · subst h; simp
    · rw [core_setCore_ne m _ h]
@[simp] theorem core_count_dpfen (m : Mod) (e k n c : Nat) : (core (count m e k n) c).dpfen = (core m c).dpfen := by
  unfold count; split
  · rfl
  · by_cases h : c = e
    · subst h; simp
    · rw [core_setCore_ne m _ h]
@[simp] theorem core_count_strmCap (m : Mod) (e k n c : Nat) : (core (count m e k n) c).strmCap = (core m c).strmCap := by
  unfold count; split
  · rfl
  · by_cases h : c = e
    · subst h; simp
    · rw [core_setCore_ne m _ h]
@[simp] theorem core_count_dtable (m : Mod) (e k n c : Nat) : (core (count m e k n) c).dtable = (core m c).dtable := by
  unfold count; split
  · rfl
  · by_cases h : c = e
    · subst h; simp
    · rw [core_setCore_ne m _ h]
@[simp] theorem core_count_wdtPend (m : Mod) (e k n c : Nat) : (core (count m e k n) c).wdtPend = (core m c).wdtPend := by
  unfold count; split
  · rfl
  · by_cases h : c = e
    · subst h; simp
    · rw [core_setCore_ne m _ h]
@[simp] theorem core_count_tableSec (m : Mod) (e k n c : Nat) : (core (count m e k n) c).tableSec = (core m c).tableSec := by
  unfold count; split
  · rfl
  · by_cases h : c = e
    · subst h; simp
    · rw [core_setCore_ne m _ h]
@[simp] theorem core_count_icache (m : Mod) (e k n c : Nat) : (core (count m e k n) c).icache = (core m c).icache := by
  unfold count; split
  · rfl
  · by_cases h : c = e
    · subst h; simp
    · rw [core_setCore_ne m _ h]
@[simp] theorem core_count_fetching (m : Mod) (e k n c : Nat) : (core (count m e k n) c).fetching = (core m c).fetching := by
  unfold count; split
  · rfl
  · by_cases h : c = e
    · subst h; simp
    · rw [core_setCore_ne m _ h]
@[simp] theorem core_count_fetchAt (m : Mod) (e k n c : Nat) : (core (count m e k n) c).fetchAt = (core m c).fetchAt := by
  unfold count; split
  · rfl
  · by_cases h : c = e
    · subst h; simp
    · rw [core_setCore_ne m _ h]
@[simp] theorem core_count_fetchPaused (m : Mod) (e k n c : Nat) : (core (count m e k n) c).fetchPaused = (core m c).fetchPaused := by
  unfold count; split
  · rfl
  · by_cases h : c = e
    · subst h; simp
    · rw [core_setCore_ne m _ h]
@[simp] theorem core_count_iprefetch (m : Mod) (e k n c : Nat) : (core (count m e k n) c).iprefetch = (core m c).iprefetch := by
  unfold count; split
  · rfl
  · by_cases h : c = e
    · subst h; simp
    · rw [core_setCore_ne m _ h]
@[simp] theorem core_count_dcache (m : Mod) (e k n c : Nat) : (core (count m e k n) c).dcache = (core m c).dcache := by
  unfold count; split
  · rfl
  · by_cases h : c = e
    · subst h; simp
    · rw [core_setCore_ne m _ h]
@[simp] theorem core_count_dfills (m : Mod) (e k n c : Nat) : (core (count m e k n) c).dfills = (core m c).dfills := by
  unfold count; split
  · rfl
  · by_cases h : c = e
    · subst h; simp
    · rw [core_setCore_ne m _ h]
@[simp] theorem core_count_streams (m : Mod) (e k n c : Nat) : (core (count m e k n) c).streams = (core m c).streams := by
  unfold count; split
  · rfl
  · by_cases h : c = e
    · subst h; simp
    · rw [core_setCore_ne m _ h]
@[simp] theorem core_count_tlb (m : Mod) (e k n c : Nat) : (core (count m e k n) c).tlb = (core m c).tlb := by
  unfold count; split
  · rfl
  · by_cases h : c = e
    · subst h; simp
    · rw [core_setCore_ne m _ h]
@[simp] theorem core_count_opcache (m : Mod) (e k n c : Nat) : (core (count m e k n) c).opcache = (core m c).opcache := by
  unfold count; split
  · rfl
  · by_cases h : c = e
    · subst h; simp
    · rw [core_setCore_ne m _ h]
@[simp] theorem core_count_tgen (m : Mod) (e k n c : Nat) : (core (count m e k n) c).tgen = (core m c).tgen := by
  unfold count; split
  · rfl
  · by_cases h : c = e
    · subst h; simp
    · rw [core_setCore_ne m _ h]
@[simp] theorem core_count_lmUse (m : Mod) (e k n c : Nat) : (core (count m e k n) c).lmUse = (core m c).lmUse := by
  unfold count; split
  · rfl
  · by_cases h : c = e
    · subst h; simp
    · rw [core_setCore_ne m _ h]
@[simp] theorem core_count_tileWrites (m : Mod) (e k n c : Nat) : (core (count m e k n) c).tileWrites = (core m c).tileWrites := by
  unfold count; split
  · rfl
  · by_cases h : c = e
    · subst h; simp
    · rw [core_setCore_ne m _ h]
@[simp] theorem core_count_tileReads (m : Mod) (e k n c : Nat) : (core (count m e k n) c).tileReads = (core m c).tileReads := by
  unfold count; split
  · rfl
  · by_cases h : c = e
    · subst h; simp
    · rw [core_setCore_ne m _ h]
@[simp] theorem core_count_mmas (m : Mod) (e k n c : Nat) : (core (count m e k n) c).mmas = (core m c).mmas := by
  unfold count; split
  · rfl
  · by_cases h : c = e
    · subst h; simp
    · rw [core_setCore_ne m _ h]
@[simp] theorem core_count_arrayRuns (m : Mod) (e k n c : Nat) : (core (count m e k n) c).arrayRuns = (core m c).arrayRuns := by
  unfold count; split
  · rfl
  · by_cases h : c = e
    · subst h; simp
    · rw [core_setCore_ne m _ h]
@[simp] theorem core_count_queues (m : Mod) (e k n c : Nat) : (core (count m e k n) c).queues = (core m c).queues := by
  unfold count; split
  · rfl
  · by_cases h : c = e
    · subst h; simp
    · rw [core_setCore_ne m _ h]
@[simp] theorem core_count_store (m : Mod) (e k n c : Nat) : (core (count m e k n) c).store = (core m c).store := by
  unfold count; split
  · rfl
  · by_cases h : c = e
    · subst h; simp
    · rw [core_setCore_ne m _ h]
@[simp] theorem core_count_storeBad (m : Mod) (e k n c : Nat) : (core (count m e k n) c).storeBad = (core m c).storeBad := by
  unfold count; split
  · rfl
  · by_cases h : c = e
    · subst h; simp
    · rw [core_setCore_ne m _ h]
@[simp] theorem core_count_lastImage (m : Mod) (e k n c : Nat) : (core (count m e k n) c).lastImage = (core m c).lastImage := by
  unfold count; split
  · rfl
  · by_cases h : c = e
    · subst h; simp
    · rw [core_setCore_ne m _ h]
@[simp] theorem core_count_mappedSince (m : Mod) (e k n c : Nat) : (core (count m e k n) c).mappedSince = (core m c).mappedSince := by
  unfold count; split
  · rfl
  · by_cases h : c = e
    · subst h; simp
    · rw [core_setCore_ne m _ h]
@[simp] theorem core_count_launches (m : Mod) (e k n c : Nat) : (core (count m e k n) c).launches = (core m c).launches := by
  unfold count; split
  · rfl
  · by_cases h : c = e
    · subst h; simp
    · rw [core_setCore_ne m _ h]

/-! ## A context -/

@[simp] theorem ctx_setCtx_self (m : Mod) (t : Nat) (f : Ctx → Ctx) : ctx (setCtx m t f) t = f (ctx m t) := by
  simp [ctx, setCtx]
theorem ctx_setCtx_ne (m : Mod) {t u : Nat} (f : Ctx → Ctx) (h : u ≠ t) : ctx (setCtx m t f) u = ctx m u := by
  by_cases hc : u / 4 = t / 4
  · have hm : u % 4 ≠ t % 4 := by omega
    simp [ctx, setCtx, hc, tblGet_tblMod_ne _ _ _ _ hm]
  · simp [ctx, core_setCtx_ne m f hc]
@[simp] theorem ctx_setCluster (m : Mod) (q : Nat) (f : Cluster → Cluster) (t : Nat) : ctx (setCluster m q f) t = ctx m t := rfl
@[simp] theorem ctx_count (m : Mod) (c k n t : Nat) : ctx (count m c k n) t = ctx m t := by
  simp [ctx]
@[simp] theorem ctx_countCluster (m : Mod) (q k n t : Nat) : ctx (countCluster m q k n) t = ctx m t := by
  simp [ctx]
/-- A change of a core that leaves its contexts leaves every context of the module. -/
theorem ctx_setCore (m : Mod) (c : Nat) (f : Core → Core) (t : Nat) (h : (f (core m c)).ctxs = (core m c).ctxs) : ctx (setCore m c f) t = ctx m t := by
  by_cases hc : t / 4 = c
  · subst hc; simp [ctx, h]
  · simp [ctx, core_setCore_ne m f hc]

@[simp] theorem ctx_land_self (m : Mod) (th t n : Nat) (sl : Slot) (pc : Word) (w : Write) :
    ctx (land m th t n sl pc w) th =
      { ctx m th with inflight := (ctx m th).inflight ++ [{ due := t + n, issued := t, slot := sl, bundle := pc, w := w }] } := by
  simp [land]
theorem ctx_land_ne (m : Mod) {th u : Nat} (t n : Nat) (sl : Slot) (pc : Word) (w : Write) (h : u ≠ th) : ctx (land m th t n sl pc w) u = ctx m u := by
  simp [land, ctx_setCtx_ne m _ h]

/-! ## A cluster -/

@[simp] theorem cluster_setCluster_self (m : Mod) (q : Nat) (f : Cluster → Cluster) : cluster (setCluster m q f) q = f (cluster m q) := by
  simp [cluster, setCluster]
theorem cluster_setCluster_ne (m : Mod) {q r : Nat} (f : Cluster → Cluster) (h : r ≠ q) : cluster (setCluster m q f) r = cluster m r := by
  simp [cluster, setCluster, tblGet_tblMod_ne _ _ _ _ h]
@[simp] theorem cluster_setCore (m : Mod) (c : Nat) (f : Core → Core) (q : Nat) : cluster (setCore m c f) q = cluster m q := rfl
@[simp] theorem cluster_setCtx (m : Mod) (t : Nat) (f : Ctx → Ctx) (q : Nat) : cluster (setCtx m t f) q = cluster m q := rfl
@[simp] theorem cluster_count (m : Mod) (c k n q : Nat) : cluster (count m c k n) q = cluster m q := by
  unfold count; split <;> rfl

/-! ## The registers of a context -/

@[simp] theorem Ctx.sreg_setS_self (x : Ctx) (r : Nat) (v : Word) : (x.setS r v).sreg r = v := by simp [Ctx.setS, Ctx.sreg]
theorem Ctx.sreg_setS_ne (x : Ctx) {r q : Nat} (v : Word) (h : q ≠ r) : (x.setS r v).sreg q = x.sreg q := by
  simp [Ctx.setS, Ctx.sreg, tblGet_tblPut_ne _ _ _ h]
@[simp] theorem Ctx.vreg_setV_self (x : Ctx) (r : Nat) (v : Vec) : (x.setV r v).vreg r = v := by simp [Ctx.setV, Ctx.vreg]
theorem Ctx.vreg_setV_ne (x : Ctx) {r q : Nat} (v : Vec) (h : q ≠ r) : (x.setV r v).vreg q = x.vreg q := by
  simp [Ctx.setV, Ctx.vreg, tblGet_tblPut_ne _ _ _ h]
@[simp] theorem Ctx.pred_zero (x : Ctx) : x.pred 0 = true := rfl
@[simp] theorem Ctx.vmask_zero (x : Ctx) : x.vmask 0 = 0xFFFFFFFF := rfl
theorem Ctx.pred_setP (x : Ctx) (r : Nat) (v : Bool) (h : r ≠ 0) : (x.setP r v).pred r = v := by simp [Ctx.setP, Ctx.pred, h]
theorem Ctx.vmask_setVm (x : Ctx) (r : Nat) (v : BitVec 32) (h : r ≠ 0) : (x.setVm r v).vmask r = v := by simp [Ctx.setVm, Ctx.vmask, h]
theorem Ctx.setP_zero (x : Ctx) (v : Bool) : x.setP 0 v = x := rfl
theorem Ctx.setVm_zero (x : Ctx) (v : BitVec 32) : x.setVm 0 v = x := rfl

end Sys2Proof.Machine
end

