-- ==== Sys2Proof/Laws/Issue.lean ====
section
/-! SUPPORT. What the issue of one slot does: the core's clock does not move when nothing is due, and the bundle issues whole. -/

namespace Sys2Proof.Machine

theorem leastUpTo_none {t : Nat} {l : List Nat} (h : ∀ k ∈ l, t < k) : leastUpTo t l = none := by
  unfold leastUpTo
  induction l with
  | nil => rfl
  | cons a l ih =>
    have ha : ¬ a ≤ t := by have := h a (by simp); omega
    simp only [List.foldl_cons, ha, if_false]
    exact ih (fun k hk => h k (by simp [hk]))

/-- Nothing lands and no cycle passes up to a cycle that has come. -/
theorem advance_here {m : Mod} {c t : Nat} (ht : t ≤ (core m c).cycle) (h : ∀ k ∈ dueCycles m c, t < k) : advance m c t = m := by
  have hl : landTo m c t (dueCycles m c).length = m := by
    cases hn : (dueCycles m c).length with
    | zero => rfl
    | succ n => simp only [landTo, leastUpTo_none h]
  simp only [advance, hl, Nat.sub_eq_zero_of_le ht, if_true]

/-- The first cycle in which a bundle is tried is the cycle it issues in. -/
theorem tryIssue_issues {m : Mod} {th : Nat} {d : SlotDef} {b : Bundle} {defs : Nat → List SlotDef} (n : Nat)
    (hd : defs (core m (th / 4)).cycle = [d]) (hb : b.quiet = false) (h : Issues m th d) :
    tryIssue th b [] defs (n + 1) m = issueWhole (issNow m th) [d] := by
  obtain ⟨⟨hc, hr, hn, hnb, hdue⟩, ⟨hdec, hst, he, hs, hv⟩, hg⟩ := h
  have hmax : max (max (core m (th / 4)).cycle (core m (th / 4)).nextIssue) (ctx m th).notBefore = (core m (th / 4)).cycle := by omega
  have hme : mustEnter (ctx m th) = false := by
    simp only [canIssue, toBoundary, hmax, advance_here (Nat.le_refl _) hdue, Bool.and_eq_true, Bool.not_eq_true'] at hc
    exact hc.2
  have hsd : (d.sdm && decide ((core m (th / 4)).cycle < (core m (th / 4)).sdmBusy)) = false := by
    cases hd : d.sdm with
    | false => rfl
    | true => have := hs hd; simp only [Bool.true_and, decide_eq_false_iff_not]; omega
  simp only [reads, issNow] at hst he hv ⊢
  unfold tryIssue
  simp only [hme, hd, List.filter_cons, List.filter_nil, hg, if_true, hr, hdec, hb, Bool.false_and, hst, bne_self_eq_false, hv, he, Bool.not_true,
    List.any_cons, List.any_nil, Bool.or_false, hsd, Bool.false_eq_true, if_false]

/-- A bundle that issues in this cycle issues whole. -/
theorem issueBundle_issues {m : Mod} {th : Nat} {d : SlotDef} {b : Bundle} {defs : Nat → List SlotDef}
    (hd : defs (core m (th / 4)).cycle = [d]) (hb : b.quiet = false) (h : Issues m th d) :
    issueBundle m th b [] defs = issueWhole (issNow m th) [d] := by
  have hs := h.1
  obtain ⟨hc, -, hn, hnb, hdue⟩ := hs
  have hmax : max (max (core m (th / 4)).cycle (core m (th / 4)).nextIssue) (ctx m th).notBefore = (core m (th / 4)).cycle := by omega
  unfold issueBundle
  simp only [hc, Bool.not_true, hmax, advance_here (Nat.le_refl _) hdue]
  exact tryIssue_issues 255 hd hb h

/-- A slot command whose bundle issues in this cycle. -/
theorem issueSlot_issues {s : State} {i : Issue} {c : Instr} {d : SlotDef} (h : Issues s.mod i.thread.toNat d) :
    issueSlot s i c d = .next { s with mod := issueWhole (issNow s.mod i.thread.toNat) [d] } := by
  unfold issueSlot
  rw [issueBundle_issues rfl rfl h]

theorem exec_slotDefS {c : Instr} {d : SlotDef} {i : Issue} (s : State) (hd : slotDefS c = some d) (hi : issuer c = some i) : exec c s = issueSlot s i c d := by
  cases c <;> first | (cases hd; cases hi; rfl) | cases hd
theorem exec_slotDefV {c : Instr} {d : SlotDef} {i : Issue} (s : State) (hd : slotDefV c = some d) (hi : issuer c = some i) : exec c s = issueSlot s i c d := by
  cases c <;> first | (cases hd; cases hi; rfl) | cases hd
theorem exec_slotDefM {c : Instr} {d : SlotDef} {i : Issue} (s : State) (hd : slotDefM c = some d) (hi : issuer c = some i) : exec c s = issueSlot s i c d := by
  cases c <;> first | (cases hd; cases hi; rfl) | cases hd

/-- The meaning of a slot command whose bundle issues in this cycle: the bundle issues whole. -/
theorem exec_issues {s : State} {c : Instr} {i : Issue} {d : SlotDef} (hi : issuer c = some i)
    (hd : slotDef (core s.mod (i.thread.toNat / 4)) (core s.mod (i.thread.toNat / 4)).cycle c = some d) (h : Issues s.mod i.thread.toNat d) :
    exec c s = .next { s with mod := issueWhole (issNow s.mod i.thread.toNat) [d] } := by
  unfold slotDef at hd
  split at hd
  · cases hi; cases hd
    simp only [exec, execUserDefinedOpcode]
    rw [issueBundle_issues rfl rfl h]
  · cases h1 : slotDefS c with
    | some e => simp only [h1] at hd; cases hd; rw [exec_slotDefS s h1 hi, issueSlot_issues h]
    | none =>
      cases h2 : slotDefV c with
      | some e => simp only [h1, h2] at hd; cases hd; rw [exec_slotDefV s h2 hi, issueSlot_issues h]
      | none => simp only [h1, h2] at hd; rw [exec_slotDefM s hd hi, issueSlot_issues h]

/-! ## The books of an issue -/

/-- Two modules that differ in the books of a core alone: no context, no other core, nothing outside the cores. -/
structure Books (m m' : Mod) (c : Nat) : Prop where
  ctxs : ∀ u, ctx m' u = ctx m u
  others : ∀ e, e ≠ c → core m' e = core m e
  same : (core m' c).quiet = (core m c).quiet

theorem Books.refl (m : Mod) (c : Nat) : Books m m c := ⟨fun _ => rfl, fun _ _ => rfl, rfl⟩

theorem Books.trans {m m' m'' : Mod} {c : Nat} (h : Books m m' c) (k : Books m' m'' c) : Books m m'' c :=
  ⟨fun u => (k.ctxs u).trans (h.ctxs u), fun e he => (k.others e he).trans (h.others e he), k.same.trans h.same⟩

theorem books_setCore (m : Mod) (c : Nat) (f : Core → Core) (h1 : (f (core m c)).ctxs = (core m c).ctxs)
    (h2 : (f (core m c)).quiet = (core m c).quiet) : Books m (setCore m c f) c :=
  ⟨fun u => ctx_setCore m c f u h1, fun _ he => core_setCore_ne m f he, by simpa using h2⟩

theorem Books.core {m m1 : Mod} {c : Nat} {f : Core → Core} (h : Books m m1 c) (h1 : ∀ k, (f k).ctxs = k.ctxs) (h2 : ∀ k, (f k).quiet = k.quiet) :
    Books m (setCore m1 c f) c := h.trans (books_setCore m1 c f (h1 _) (h2 _))

theorem books_count (m : Mod) (c k n : Nat) : Books m (count m c k n) c := by
  unfold count; split
  · exact Books.refl m c
  · exact books_setCore m c _ rfl rfl

theorem Books.count {m m1 : Mod} {c : Nat} (h : Books m m1 c) (k n : Nat) : Books m (Machine.count m1 c k n) c := h.trans (books_count m1 c k n)

theorem books_readTile (m : Mod) (c x t : Nat) : Books m (readTile m c x t).1 c := by
  unfold readTile
  dsimp only
  split
  · refine Books.count (Books.core (Books.refl m c) ?_ ?_) 24 1 <;> intro <;> rfl
  · refine Books.core (Books.refl m c) ?_ ?_ <;> intro <;> rfl

theorem books_foldl {α : Type} {β : Type} (c : Nat) (g : Mod × β → α → Mod × β) (hg : ∀ p a, Books p.1 (g p a).1 c) (l : List α) (p : Mod × β) :
    Books p.1 (l.foldl g p).1 c := by
  induction l generalizing p with
  | nil => exact Books.refl _ _
  | cons a l ih => exact (hg p a).trans (ih _)

theorem books_countTiles (m : Mod) (th cyc : Nat) (act : List SlotDef) : Books m (countTiles m th cyc act) (th / 4) := by
  unfold countTiles
  dsimp only
  refine Books.trans ?_ ((books_count _ _ _ _).trans (books_count _ _ _ _))
  refine Books.core ?_ (fun _ => rfl) (fun _ => rfl)
  refine books_foldl (th / 4) _ (fun p d => ?_) act (m, 0)
  refine books_foldl (th / 4) _ (fun q t => ?_) d.tiles (p.1, p.2 + d.fileReads)
  have := books_readTile q.1 (th / 4) (th % 4) t
  revert this
  cases readTile q.1 (th / 4) (th % 4) t with
  | mk a b => cases b <;> exact id

theorem books_countBanks (m : Mod) (k : Iss) (act : List SlotDef) : Books m (countBanks m k act) (k.th / 4) := by
  unfold countBanks
  dsimp only
  split
  · exact Books.refl _ _
  · exact books_setCore m _ _ rfl rfl

/-- Modules with the same cores have the same books. -/
theorem books_of_cores {m m' : Mod} (h : m'.cores = m.cores) (c : Nat) : Books m m' c := by
  have hc : ∀ e, core m' e = core m e := fun e => by simp only [core, h]
  exact ⟨fun u => by simp only [ctx, hc], fun e _ => hc e, by rw [hc]⟩

theorem emit_cores (m : Mod) (o : Output) : (emit m o).cores = m.cores := rfl
theorem setPort_cores (m : Mod) (p : Bool) (f : Port → Port) : (setPort m p f).cores = m.cores := by
  unfold setPort; split <;> rfl
theorem sendMsix_cores (m : Mod) (p : Bool) (v : Nat) : (sendMsix m p v).cores = m.cores := by
  unfold sendMsix
  dsimp only
  split
  · rfl
  · split
    · rfl
    · exact setPort_cores _ _ _
theorem readLine_cores (m : Mod) (line : Nat) : (readLine m line).m.cores = m.cores := by
  unfold readLine
  dsimp only
  split <;> simp [countCe, countUe]
theorem writeLine_cores (m : Mod) (line off : Nat) (d : List Byte) (p : Bool) : (writeLine m line off d p).1.cores = m.cores := by
  unfold writeLine
  dsimp only
  repeat' split
  all_goals simp [countCluster_cores, readLine_cores]
theorem logEvent_cores (m : Mod) (e : EvRec) : (logEvent m e).cores = m.cores := by
  simp only [logEvent]
  cases m.hq.journalClosed
  · cases evFull m
    · simp only [Bool.false_eq_true, if_false, sendMsix_cores, writeLine_cores]
    · simp only [Bool.false_eq_true, if_false, if_true]
  · simp only [if_true]
theorem readEntry_cores (m : Mod) (a : Nat) : (readEntry m a).1.cores = m.cores := by
  simp only [readEntry]
  cases isHbm a
  · simp only [Bool.not_false, if_true]
  · cases h : (readLine m (64 * (a / 64))).poison <;>
      simp only [Bool.not_true, Bool.false_eq_true, if_true, if_false, memCheck, logEvent_cores, readLine_cores]
theorem walk_cores (m : Mod) (xbase : Word) (a : Nat) : (walk m xbase a).1.cores = m.cores := by
  simp only [walk]
  generalize 2 ^ 20 * fld xbase.toNat 20 27 + 8 * fld a 30 17 = b
  have h := readEntry_cores m b
  generalize readEntry m b = r at h ⊢
  obtain ⟨m1, e⟩ := r
  by_cases h1 : e % 4 = 1
  · simp only [h1, if_true]; exact h
  · by_cases h2 : e % 4 = 2
    · simp only [h2]
      generalize 4096 * fld e 12 35 + 8 * fld a 21 9 = b2
      have k := readEntry_cores m1 b2
      generalize readEntry m1 b2 = r2 at k ⊢
      obtain ⟨m2, e2⟩ := r2
      by_cases h3 : e2 % 4 = 1
      · simp only [h3, if_true]; exact k.trans h
      · simp only [h3, if_false]; exact k.trans h
    · simp only [h1, h2, if_false]; exact h
theorem xlateCluster_cores (m : Mod) (q : Nat) (xbase : Word) (a : Nat) : (xlateCluster m q xbase a).1.cores = m.cores := by
  simp only [xlateCluster]
  cases tlbFind (cluster m q).tlb2 (tagBase xbase) a with
  | some e => rfl
  | none =>
    have h := walk_cores (countCluster m q 9 1) xbase a
    generalize walk (countCluster m q 9 1) xbase a = r at h ⊢
    obtain ⟨m1, o⟩ := r
    cases o with
    | none => simpa only [countCluster_cores] using h
    | some p => simpa only [countCluster_cores, setCluster_cores] using h
theorem books_xlateCore (m : Mod) (c : Nat) (xbase : Word) (a : Nat) : Books m (xlateCore m c xbase a).1 c := by
  unfold xlateCore
  dsimp only
  split
  · exact Books.refl _ _
  · have h := xlateCluster_cores (count m c 39 1) (c / 16) xbase a
    revert h
    cases xlateCluster (count m c 39 1) (c / 16) xbase a with
    | mk m1 o =>
      intro h
      have hb := (books_count m c 39 1).trans (books_of_cores h c)
      cases o with
      | none => exact hb
      | some p =>
        refine Books.core (hb.trans (books_of_cores ?_ c)) ?_ ?_ <;> intros <;> rfl
theorem books_xlate (m : Mod) (c : Nat) (xbase a : Word) : Books m (xlate m c xbase a).1 c := by
  simp only [xlate, xlateWith]
  split
  · exact Books.refl _ _
  · split
    · exact Books.refl _ _
    · split
      · exact Books.refl _ _
      · have h := books_xlateCore m c xbase a.toNat
        generalize xlateCore m c xbase a.toNat = r at h ⊢
        obtain ⟨m1, o⟩ := r
        cases o <;> exact h
theorem books_prefetchCode (m : Mod) (th : Nat) (pc : Word) : Books m (prefetchCode m th pc) (th / 4) := by
  unfold prefetchCode
  dsimp only
  split
  · exact Books.refl _ _
  · have h := books_xlate m (th / 4) (ctx m th).xbase (pc + 32)
    revert h
    cases xlate m (th / 4) (ctx m th).xbase (pc + 32) with
    | mk m1 x =>
      intro h
      cases x with
      | here a =>
        dsimp only at h ⊢
        split
        · exact h
        · refine Books.core h ?_ ?_ <;> intros <;> rfl
      | peer p a => exact h
      | notPresent => exact h

/-! ## What the issue changes outside its core: nothing, when no walk comes with it -/

/-- Two modules that differ in one core alone, there not in its TLB nor in what a bundle leaves. -/
structure Inside (m m' : Mod) (c : Nat) : Prop where
  rest : m' = { m with cores := m'.cores }
  others : ∀ e, e ≠ c → core m' e = core m e
  same : (core m' c).quiet = (core m c).quiet
  tlb : (core m' c).tlb = (core m c).tlb

theorem Inside.refl (m : Mod) (c : Nat) : Inside m m c := ⟨rfl, fun _ _ => rfl, rfl, rfl⟩

theorem Inside.trans {m m' m'' : Mod} {c : Nat} (h : Inside m m' c) (k : Inside m' m'' c) : Inside m m'' c := by
  refine ⟨?_, fun e he => (k.others e he).trans (h.others e he), k.same.trans h.same, k.tlb.trans h.tlb⟩
  have h1 := h.rest
  have h2 := k.rest
  rw [h1] at h2
  exact h2

theorem Inside.core {m m1 : Mod} {c : Nat} {f : Core → Core} (h : Inside m m1 c) (h1 : ∀ k, (f k).quiet = k.quiet) (h2 : ∀ k, (f k).tlb = k.tlb) :
    Inside m (setCore m1 c f) c :=
  h.trans ⟨rfl, fun _ he => core_setCore_ne m1 f he, by simpa using h1 _, by simpa using h2 _⟩

theorem Inside.setCtx {m m1 : Mod} {c t : Nat} {f : Ctx → Ctx} (h : Inside m m1 c) (hc : t / 4 = c) : Inside m (Machine.setCtx m1 t f) c := by
  subst hc; exact h.core (fun _ => rfl) (fun _ => rfl)

theorem Inside.count {m m1 : Mod} {c : Nat} (h : Inside m m1 c) (k n : Nat) : Inside m (Machine.count m1 c k n) c := by
  unfold Machine.count; split
  · exact h
  · exact h.core (fun _ => rfl) (fun _ => rfl)

theorem Inside.land {m m1 : Mod} {c t : Nat} (h : Inside m m1 c) (hc : t / 4 = c) (cyc n : Nat) (sl : Slot) (pc : Word) (w : Write) :
    Inside m (Machine.land m1 t cyc n sl pc w) c := h.setCtx hc

theorem inside_readTile (m : Mod) (c x t : Nat) : Inside m (readTile m c x t).1 c := by
  unfold readTile
  dsimp only
  split
  · refine Inside.count (Inside.core (Inside.refl m c) ?_ ?_) 24 1 <;> intro <;> rfl
  · refine Inside.core (Inside.refl m c) ?_ ?_ <;> intro <;> rfl

theorem inside_foldl {α : Type} {β : Type} (c : Nat) (g : Mod × β → α → Mod × β) (hg : ∀ p a, Inside p.1 (g p a).1 c) (l : List α) (p : Mod × β) :
    Inside p.1 (l.foldl g p).1 c := by
  induction l generalizing p with
  | nil => exact Inside.refl _ _
  | cons a l ih => exact (hg p a).trans (ih _)

theorem Inside.countTiles {m m1 : Mod} {th : Nat} (h : Inside m m1 (th / 4)) (cyc : Nat) (act : List SlotDef) :
    Inside m (Machine.countTiles m1 th cyc act) (th / 4) := by
  unfold Machine.countTiles
  dsimp only
  refine Inside.count (Inside.count (Inside.core (h.trans ?_) ?_ ?_) _ _) _ _
  rotate_left
  · intro _; rfl
  · intro _; rfl
  refine inside_foldl (th / 4) _ (fun p d => ?_) act (m1, 0)
  refine inside_foldl (th / 4) _ (fun q t => ?_) d.tiles (p.1, p.2 + d.fileReads)
  have := inside_readTile q.1 (th / 4) (th % 4) t
  revert this
  cases readTile q.1 (th / 4) (th % 4) t with
  | mk a b => cases b <;> exact id

theorem Inside.countBanks {m m1 : Mod} {k : Iss} (h : Inside m m1 (k.th / 4)) (act : List SlotDef) : Inside m (Machine.countBanks m1 k act) (k.th / 4) := by
  unfold Machine.countBanks
  dsimp only
  split
  · exact h
  · exact h.core (fun _ => rfl) (fun _ => rfl)

theorem landLoop_foldl (m : Mod) (th cyc : Nat) (pc : Word) (ws : List Write) :
    (∀ c, th / 4 = c → Inside m (landLoop m th cyc pc ws) c) ∧ (∀ u, u ≠ th → ctx (landLoop m th cyc pc ws) u = ctx m u) ∧
    ctx (landLoop m th cyc pc ws) th =
      { ctx m th with inflight := (ctx m th).inflight ++ ws.map (fun w => { due := cyc + 1, issued := cyc, slot := .s, bundle := pc, w := w }) } := by
  unfold landLoop
  induction ws generalizing m with
  | nil => exact ⟨fun c _ => Inside.refl m c, fun _ _ => rfl, by simp⟩
  | cons w ws ih =>
    obtain ⟨h1, h2, h3⟩ := ih (land m th cyc 1 .s pc w)
    refine ⟨fun c hc => (Inside.land (Inside.refl m c) hc cyc 1 .s pc w).trans (h1 c hc), fun u hu => ?_, ?_⟩
    · exact (h2 u hu).trans (ctx_land_ne m cyc 1 .s pc w hu)
    · simp only [List.foldl_cons, h3, ctx_land_self, List.map_cons, List.append_assoc, List.singleton_append]

/-- The instruction prefetch where no walk comes with it. -/
theorem inside_prefetchCode {m : Mod} {th : Nat} {pc : Word} (hp : (ctx m th).pc = pc) (h : NoWalk m th) : Inside m (prefetchCode m th pc) (th / 4) := by
  unfold prefetchCode
  dsimp only
  cases hi : ipfOn m (th / 4) with
  | false => exact Inside.refl m _
  | true =>
    have hx : (xlate m (th / 4) (ctx m th).xbase (pc + 32)).1 = m := by
      rcases h with h | h | h
      · simp [hi] at h
      · have hb : bitOf (ctx m th).xbase.toNat 0 = false := by
          simp only [bitOf, Nat.pow_zero, Nat.div_one, beq_eq_false_iff_ne, ne_eq]
          rw [BitVec.getLsbD] at h
          simpa [Nat.testBit_zero] using h
        simp only [xlate, xlateWith, hb]
        split
        · rfl
        · split <;> rfl
      · rw [hp] at h
        obtain ⟨e, he⟩ := Option.isSome_iff_exists.mp h
        simp only [xlate, xlateWith, xlateCore, he]
        split
        · rfl
        · split
          · rfl
          · split <;> rfl
    generalize xlate m (th / 4) (ctx m th).xbase (pc + 32) = r at hx ⊢
    obtain ⟨m1, x⟩ := r
    simp only at hx
    subst hx
    split
    · exact Inside.refl _ _
    · cases x with
      | here a =>
        dsimp only
        split
        · exact Inside.refl _ _
        · refine Inside.core (Inside.refl _ _) ?_ ?_ <;> intros <;> rfl
      | peer p a => exact Inside.refl _ _
      | notPresent => exact Inside.refl _ _

/-! ## A bundle that falls through and ends nothing -/

/-- The slot takes no branch, holds and ends no thread, and leaves the back edge. -/
structure Plain (m : Mod) (th : Nat) (d : SlotDef) : Prop where
  hold : d.hold = none
  ends : d.ends = false
  rte : d.rte = false
  redirect : d.redirect (reads m th d) = none
  deact : d.deact (reads m th d) = false

theorem quiet_proj {k k' : Core} (h : k'.quiet = k.quiet) : k'.ipfen = k.ipfen ∧ k'.cycle = k.cycle ∧ k'.quantum = k.quantum := by
  have h1 := congrArg Core.ipfen h
  have h2 := congrArg Core.cycle h
  have h3 := congrArg Core.quantum h
  exact ⟨h1, h2, h3⟩

theorem afterIssue_ctx (m : Mod) (th cyc : Nat) (b : Bool) :
    ctx (afterIssue m th cyc b) th = { ctx m th with qcount := (ctx m th).qcount + 1 } ∧
    (∀ u, u ≠ th → ctx (afterIssue m th cyc b) u = ctx m u) ∧ Inside m (afterIssue m th cyc b) (th / 4) := by
  have hc : ∀ u, ctx (if b then count (count (count m (th / 4) 1 1) (th / 4) (2 + th % 4) 1) (th / 4) 12 2
      else count (count m (th / 4) 1 1) (th / 4) (2 + th % 4) 1) u = ctx m u := by
    intro u; cases b <;> simp
  have hi : Inside m (if b then count (count (count m (th / 4) 1 1) (th / 4) (2 + th % 4) 1) (th / 4) 12 2
      else count (count m (th / 4) 1 1) (th / 4) (2 + th % 4) 1) (th / 4) := by
    cases b
    · simp only [Bool.false_eq_true, if_false]; exact ((Inside.refl m _).count _ _).count _ _
    · simp only [if_true]; exact (((Inside.refl m _).count _ _).count _ _).count _ _
  unfold afterIssue
  dsimp only
  generalize (if b then count (count (count m (th / 4) 1 1) (th / 4) (2 + th % 4) 1) (th / 4) 12 2
      else count (count m (th / 4) 1 1) (th / 4) (2 + th % 4) 1) = m1 at hc hi ⊢
  refine ⟨?_, fun u hu => ?_, ?_⟩
  · refine (ctx_setCore _ _ _ _ ?_).trans ?_
    · rfl
    · rw [ctx_setCtx_self, hc]
  · refine (ctx_setCore _ _ _ _ ?_).trans ?_
    · rfl
    · rw [ctx_setCtx_ne _ _ hu, hc]
  · refine Inside.core (Inside.setCtx hi rfl) ?_ ?_ <;> intros <;> rfl

/-- What a plain slot leaves, where its effect changes its thread by `g` and its core's other fields not at all. -/
theorem plain_issue {m : Mod} {th : Nat} {d : SlotDef} (hp : Plain m th d) {g : Ctx → Ctx}
    (hg : ∀ mm, ctx (d.eff (reads m th d) mm) th = g (ctx mm th)) (ho : ∀ mm u, u ≠ th → ctx (d.eff (reads m th d) mm) u = ctx mm u)
    (hi : ∀ mm, Inside mm (d.eff (reads m th d) mm) (th / 4)) (hx : ∀ x, (g x).pc = x.pc ∧ (g x).xbase = x.xbase)
    (hpp : (ctx (popped m th d) th).pc = (ctx m th).pc) :
    OnlyThread (popped m th d) (issueWhole (issNow m th) [d]) th
      (let y := g { ctx (popped m th d) th with waiting := none, stall := 0, resume := none, inflight := (ctx (popped m th d) th).inflight ++ loopFlying m th }
       { y with qcount := y.qcount + 1, pc := (follows m th).1 }) := by
  obtain ⟨h1, h2, h3, h4, h5⟩ := hp
  unfold popped at hpp
  unfold issueWhole popped
  simp only [reads] at hg ho hi h4 h5
  simp only [List.any_cons, List.any_nil, Bool.or_false, h2, Bool.false_eq_true, if_false, h1, Option.isSome_none,
    List.findSome?_cons, List.findSome?_nil, h3, List.foldl_cons, List.foldl_nil]
  generalize hpop : popAll (issNow m th) [d] = p at hg ho hi h4 h5 hpp ⊢
  obtain ⟨m1, pops⟩ := p
  simp only at hg ho hi h4 h5 hpp ⊢
  have h6 : edgeOf { issNow m th with pops := pops } [d] = backEdge (ctx m th) (ctx m th).pc (ctx m th).depth := by
    simp only [edgeOf, List.any_cons, List.any_nil, Bool.or_false, h3, h5, Bool.false_eq_true, if_false]; rfl
  simp only [h4, h6, Option.isSome_none, Bool.or_self, Bool.false_eq_true, if_false, Option.getD_none]
  have hth : (issNow m th).th = th := rfl
  have hcyc : (issNow m th).cyc = (core m (th / 4)).cycle := rfl
  have hpc : (issNow m th).pc = (ctx m th).pc := rfl
  have hx0 : (issNow m th).x = ctx m th := rfl
  simp only [hth, hcyc, hpc, hx0]
  generalize hA : setCtx m1 th (fun x => { x with waiting := none, stall := 0, resume := none }) = mA
  have iA : Inside m1 mA (th / 4) := by rw [← hA]; exact (Inside.refl m1 _).setCtx rfl
  have cA : ctx mA th = { ctx m1 th with waiting := none, stall := 0, resume := none } := by rw [← hA, ctx_setCtx_self]
  have oA : ∀ u, u ≠ th → ctx mA u = ctx m1 u := fun u hu => by rw [← hA, ctx_setCtx_ne _ _ hu]
  have bB := (books_countBanks mA { issNow m th with pops := pops } [d]).trans
    (books_countTiles (countBanks mA { issNow m th with pops := pops } [d]) th (core m (th / 4)).cycle [d])
  have iB : Inside m1 (countTiles (countBanks mA { issNow m th with pops := pops } [d]) th (core m (th / 4)).cycle [d]) (th / 4) :=
    (Inside.countBanks (k := { issNow m th with pops := pops }) iA [d]).countTiles _ [d]
  simp only [issNow] at bB iB hg ho hi ⊢
  generalize countTiles (countBanks mA _ [d]) th (core m (th / 4)).cycle [d] = mB at bB iB ⊢
  obtain ⟨l1, l2, l3⟩ := landLoop_foldl mB th (core m (th / 4)).cycle (ctx m th).pc (follows m th).2
  simp only [follows] at l1 l2 l3
  generalize landLoop mB th (core m (th / 4)).cycle (ctx m th).pc _ = mC at l1 l2 l3 ⊢
  have iC := iB.trans (l1 _ rfl)
  have gD := hg mC
  have oD := ho mC
  have iD := iC.trans (hi mC)
  generalize d.eff _ mC = mD at gD oD iD ⊢
  have bE := books_prefetchCode mD th (ctx m th).pc
  have iE : NoWalk mD th → (ctx mD th).pc = (ctx m th).pc → Inside m1 (prefetchCode mD th (ctx m th).pc) (th / 4) :=
    fun h h' => iD.trans (inside_prefetchCode h' h)
  generalize prefetchCode mD th (ctx m th).pc = mE at bE iE ⊢
  obtain ⟨f1, f2, f3⟩ := afterIssue_ctx mE th (core m (th / 4)).cycle false
  generalize afterIssue mE th (core m (th / 4)).cycle false = mF at f1 f2 f3 ⊢
  have cB : ctx mB th = { ctx m1 th with waiting := none, stall := 0, resume := none } := (bB.ctxs th).trans cA
  rw [cB] at l3
  rw [l3] at gD
  have hfly : List.map (fun w => ({ due := (core m (th / 4)).cycle + 1, issued := (core m (th / 4)).cycle, slot := .s, bundle := (ctx m th).pc, w := w } : Landing))
      (backEdge (ctx m th) (ctx m th).pc (ctx m th).depth).2 = loopFlying m th := rfl
  rw [hfly] at gD
  have cE : ctx mE th = ctx mD th := bE.ctxs th
  have pcD : (ctx mD th).pc = (ctx m th).pc := by rw [gD]; exact ((hx _).1).trans hpp
  refine ⟨?_, fun u hu => ?_, fun c hc => ?_, ?_, fun hw => ?_⟩
  · rw [ctx_setCtx_self, f1, cE, gD]; rfl
  · rw [ctx_setCtx_ne _ _ hu, f2 u hu, bE.ctxs u, oD u hu, l2 u hu, bB.ctxs u, oA u hu]
  · rw [core_setCtx_ne _ _ hc, f3.others c hc, bE.others c hc, iD.others c hc]
  · refine Eq.trans ?_ (f3.same.trans (bE.same.trans iD.same))
    simp only [setCtx, core_setCore_self]; rfl
  · have hwD : NoWalk mD th := by
      have hq := quiet_proj iD.same
      have hxD : (ctx mD th).xbase = (ctx m1 th).xbase := by rw [gD]; exact (hx _).2
      have hpw : mD.pwr = m1.pwr := by have := congrArg Mod.pwr iD.rest; exact this
      simp only [NoWalk, ipfOn, hq.1, hpw, hxD, iD.tlb, pcD] at hw ⊢
      rw [hpp] at hw
      exact hw
    exact ((iE hwD pcD).trans f3).trans (Inside.setCtx (Inside.refl mF _) rfl) |>.rest

/-! ## Popping leaves the threads' pc and every register -/

/-- A context without its pending machine checks. -/
def Ctx.unchecked (x : Ctx) : Ctx := { x with checks := [] }

theorem Ctx.unchecked_pc {x y : Ctx} (h : x.unchecked = y.unchecked) : x.pc = y.pc := by
  have h1 := congrArg Ctx.pc h; exact h1

/-- The contexts are the same but for the machine checks they may have taken. -/
def SameBut (m m' : Mod) : Prop := ∀ u, (ctx m' u).unchecked = (ctx m u).unchecked

theorem SameBut.trans {m m' m'' : Mod} (h : SameBut m m') (k : SameBut m' m'') : SameBut m m'' := fun u => (k u).trans (h u)

theorem sameBut_of_cores {m m' : Mod} (h : m'.cores = m.cores) : SameBut m m' := fun u => by simp only [ctx, core, h]

theorem sameBut_setCore (m : Mod) (c : Nat) (f : Core → Core) (h : ∀ k, (f k).ctxs = k.ctxs) : SameBut m (setCore m c f) :=
  fun u => by rw [ctx_setCore m c f u (h _)]

theorem sameBut_raiseCheck (m : Mod) (t : Nat) (f : Flt) : SameBut m (raiseCheck m t f) := fun u => by
  by_cases h : u = t
  · subst h; simp only [raiseCheck, ctx_setCtx_self]; rfl
  · rw [raiseCheck, ctx_setCtx_ne _ _ h]

theorem sendData_cores (m : Mod) (l : Nat) (body : List Byte) : (sendData m l body).cores = m.cores := by
  simp only [sendData, sendKind, emit, setLink]

theorem portSend_cores (m : Mod) (l : Nat) (p : Packet) : (portSend m l p).cores = m.cores := by
  simp only [portSend, emit]
  exact sendData_cores _ _ _

theorem ctlSendOne_cores (m : Mod) (l : Nat) (x : Lctrl) : (ctlSendOne m l x).cores = m.cores := by
  simp only [ctlSendOne, emit]
  exact sendData_cores _ _ _

theorem pump_cores (l n : Nat) (m : Mod) : (pump m l n).cores = m.cores := by
  induction n generalizing m with
  | zero => rfl
  | succ n ih =>
    simp only [pump]
    split
    · rfl
    · split
      · rfl
      · cases (linkOf m l).ctl with
        | cons x tail => exact (ih _).trans (ctlSendOne_cores m l x)
        | nil =>
          cases portNext (linkOf m l) with
          | none => rfl
          | some p => exact (ih _).trans (portSend_cores m l p)

theorem portQueue_cores (m : Mod) (l : Nat) (p : Packet) : (portQueue m l p).cores = m.cores := by
  unfold portQueue pumpAll
  exact (pump_cores _ _ _).trans rfl

theorem forward_cores (m : Mod) (p : Packet) : (forward m p).1.cores = m.cores := by
  simp only [forward]
  split
  · rfl
  · split
    · exact portQueue_cores _ _ _
    · rfl

theorem fabSend_cores (m : Mod) (p : Packet) : (fabSend m p).1.cores = m.cores := by
  unfold fabSend
  split
  · rfl
  · exact forward_cores _ _

theorem toEndpoint_cores (m : Mod) (c : Ctl) : (toEndpoint m c).cores = m.cores := by
  unfold toEndpoint ctlSend
  cases c.ep.peer with
  | none => rfl
  | some p => exact fabSend_cores _ _

theorem sameBut_setQueue (m : Mod) (q : Nat) (f : Queue → Queue) : SameBut m (setQueue m q f) := sameBut_setCore _ _ _ (fun _ => rfl)

theorem sameBut_freeEntry (m : Mod) (q t : Nat) : SameBut m (freeEntry m q t) := by
  simp only [freeEntry]
  cases (queueAt m q).msgs with
  | nil => exact fun _ => rfl
  | cons g rest =>
    simp only
    split
    · exact sameBut_setQueue _ _ _
    · exact (sameBut_setQueue m q _).trans ((sameBut_of_cores (toEndpoint_cores _ _)).trans (sameBut_setQueue _ q _))

theorem sameBut_popWord (m : Mod) (q t : Nat) (sl : Slot) (b : Word) : SameBut m (popWord m q t sl b).1 := by
  simp only [popWord]
  cases (core m (q / 128)).storeBad.contains ((queueAt m q).base + (queueAt m q).hd) <;> cases (queueAt m q).half <;>
    simp only [Bool.false_eq_true, if_true, if_false]
  · exact sameBut_setQueue _ _ _
  · exact (sameBut_setQueue m q _).trans (sameBut_freeEntry _ _ _)
  · exact (sameBut_raiseCheck m t _).trans (sameBut_setQueue _ _ _)
  · exact (sameBut_raiseCheck m t _).trans ((sameBut_setQueue _ q _).trans (sameBut_freeEntry _ _ _))

theorem sameBut_popWords (q t : Nat) (sl : Slot) (b : Word) (n : Nat) (m : Mod) : SameBut m (popWords m q t sl b n).1 := by
  induction n generalizing m with
  | zero => exact fun _ => rfl
  | succ n ih => exact (sameBut_popWord m q t sl b).trans (ih _)

/-- The windows of a slot popped: the threads are left but for a machine check of the popping one. -/
theorem sameBut_popped (m : Mod) (th : Nat) (d : SlotDef) : SameBut m (popped m th d) := by
  simp only [popped, popAll, List.foldl_cons, List.foldl_nil]
  have hm : (issNow m th).m = m := rfl
  rw [hm]
  suffices h : ∀ (l : List (Nat × Nat)) (p : Mod × List (Slot × Nat × List Word)), SameBut m p.1 →
      SameBut m (l.foldl (fun p w => match boundQueue (issNow m th).x (issNow m th).th w.1 with
        | none => p
        | some q => match popWords p.1 q (issNow m th).th d.slot (issNow m th).pc w.2 with
          | (m, l) => (m, p.2 ++ [(d.slot, w.1, l)])) p).1 from h _ _ (fun _ => rfl)
  intro l
  induction l with
  | nil => exact fun p h => h
  | cons w l ih =>
    intro p h
    refine ih _ ?_
    simp only
    cases boundQueue (issNow m th).x (issNow m th).th w.1 with
    | none => exact h
    | some q => exact h.trans (sameBut_popWords q _ _ _ _ _)

theorem popped_pc (m : Mod) (th : Nat) (d : SlotDef) (u : Nat) : (ctx (popped m th d) u).pc = (ctx m u).pc :=
  Ctx.unchecked_pc (sameBut_popped m th d u)

/-- A slot that names no window pops nothing. -/
theorem popped_none {m : Mod} {th : Nat} {d : SlotDef} (h : d.wins = []) : popped m th d = m := by
  simp [popped, popAll, h, issNow]

end Sys2Proof.Machine
end

