-- ==== Sys2Proof/Laws/Memory.lean ====
section
/-! SUPPORT. The memory: a byte reads as written, other bytes are left, and every operation of the memory keeps the canonical form. -/

namespace Sys2Proof.Machine

/-! ## Lists of cells -/

/-- The order of addresses alone. -/
def rising (lo : Nat) : List Host.Cell → Prop
  | [] => True
  | (a, _) :: t => lo ≤ a ∧ rising (a + 1) t

theorem rising_mono {lo hi : Nat} (h : lo ≤ hi) {l : List Host.Cell} (hr : rising hi l) : rising lo l := by
  cases l with
  | nil => trivial
  | cons c t => exact ⟨Nat.le_trans h hr.1, hr.2⟩

theorem cellFind_below {lo : Nat} {l : List Host.Cell} (hr : rising lo l) {a : Nat} (h : a < lo) : cellFind l a = none := by
  induction l generalizing lo with
  | nil => rfl
  | cons c t ih =>
    obtain ⟨b, x⟩ := c
    have hb : b ≠ a := by have := hr.1; omega
    simp [cellFind, hb, ih hr.2 (by have := hr.1; omega)]

theorem cellsOk_iff (mem : Memory) (lo : Nat) (l : List Host.Cell) :
    cellsOk mem lo l = true ↔ rising lo l ∧ ∀ c ∈ l, c.2 ≠ mem.unlisted c.1 := by
  induction l generalizing lo with
  | nil => simp [cellsOk, rising]
  | cons c t ih =>
    obtain ⟨b, x⟩ := c
    simp only [cellsOk, Bool.and_eq_true, decide_eq_true_eq, bne_iff_ne, ih, rising, List.mem_cons, forall_eq_or_imp]
    exact ⟨fun h => ⟨⟨h.1.1, h.2.1⟩, h.1.2, h.2.2⟩, fun h => ⟨⟨h.1.1, h.2.1⟩, h.1.2, h.2.2⟩⟩

theorem wf_iff (mem : Memory) : mem.wf = true ↔ rising 0 mem.cells ∧ ∀ c ∈ mem.cells, c.2 ≠ mem.unlisted c.1 := cellsOk_iff mem 0 mem.cells

theorem rising_cellPut {lo : Nat} {l : List Host.Cell} (hr : rising lo l) (a : Nat) (v : Byte) (h : lo ≤ a) : rising lo (cellPut l a v) := by
  induction l generalizing lo with
  | nil => exact ⟨h, trivial⟩
  | cons c t ih =>
    obtain ⟨b, x⟩ := c
    by_cases h1 : b = a
    · subst h1; simpa [cellPut, rising] using hr
    · by_cases h2 : a < b
      · simp only [cellPut, h1, h2, if_false, if_true]; exact ⟨h, h2, hr.2⟩
      · simp only [cellPut, h1, h2, if_false]
        exact ⟨hr.1, ih hr.2 (by omega)⟩

theorem mem_cellPut {l : List Host.Cell} {a : Nat} {v : Byte} {c : Host.Cell} (h : c ∈ cellPut l a v) : c = (a, v) ∨ c ∈ l := by
  induction l with
  | nil => simpa [cellPut] using h
  | cons e t ih =>
    obtain ⟨b, x⟩ := e
    by_cases h1 : b = a
    · simp only [cellPut, h1, if_true, List.mem_cons] at h ⊢
      exact h.imp id .inr
    · by_cases h2 : a < b
      · simpa only [cellPut, h1, h2, if_true, if_false, List.mem_cons] using h
      · simp only [cellPut, h1, h2, if_false, List.mem_cons] at h ⊢
        rcases h with h | h
        · exact .inr (.inl h)
        · rcases ih h with h | h
          · exact .inl h
          · exact .inr (.inr h)

theorem rising_cellDel {lo : Nat} {l : List Host.Cell} (hr : rising lo l) (a : Nat) : rising lo (cellDel l a) := by
  induction l generalizing lo with
  | nil => trivial
  | cons c t ih =>
    obtain ⟨b, x⟩ := c
    by_cases h1 : b = a
    · simp only [cellDel, h1, if_true]
      exact rising_mono (by have := hr.1; omega) hr.2
    · simp only [cellDel, h1, if_false]
      exact ⟨hr.1, ih hr.2⟩

theorem mem_cellDel {l : List Host.Cell} {a : Nat} {c : Host.Cell} (h : c ∈ cellDel l a) : c ∈ l := by
  induction l with
  | nil => exact h
  | cons e t ih =>
    obtain ⟨b, x⟩ := e
    by_cases h1 : b = a
    · simp only [cellDel, h1, if_true, List.mem_cons] at h ⊢; exact .inr h
    · simp only [cellDel, h1, if_false, List.mem_cons] at h ⊢
      exact h.imp id ih

theorem rising_filter {lo : Nat} {l : List Host.Cell} (hr : rising lo l) (p : Host.Cell → Bool) : rising lo (l.filter p) := by
  induction l generalizing lo with
  | nil => trivial
  | cons c t ih =>
    obtain ⟨b, x⟩ := c
    by_cases h : p (b, x) = true
    · simp only [List.filter, h]
      exact ⟨hr.1, ih hr.2⟩
    · simp only [List.filter, h]
      exact rising_mono (by have := hr.1; omega) (ih hr.2)

@[simp] theorem cellFind_cellPut_self (l : List Host.Cell) (a : Nat) (v : Byte) : cellFind (cellPut l a v) a = some v := by
  induction l with
  | nil => simp [cellPut, cellFind]
  | cons c t ih =>
    obtain ⟨b, x⟩ := c
    by_cases h1 : b = a
    · simp [cellPut, cellFind, h1]
    · by_cases h2 : a < b
      · simp [cellPut, cellFind, h1, h2]
      · simp [cellPut, cellFind, h1, h2, ih]

theorem cellFind_cellPut_ne (l : List Host.Cell) {a b : Nat} (v : Byte) (h : b ≠ a) : cellFind (cellPut l a v) b = cellFind l b := by
  have h' : ¬ a = b := fun e => h e.symm
  induction l with
  | nil => simp [cellPut, cellFind, h']
  | cons c t ih =>
    obtain ⟨e, x⟩ := c
    by_cases h1 : e = a
    · subst h1; simp [cellPut, cellFind, h']
    · by_cases h2 : a < e
      · simp [cellPut, cellFind, h1, h2, h']
      · simp [cellPut, cellFind, h1, h2, ih]

theorem cellFind_cellDel_ne (l : List Host.Cell) {a b : Nat} (h : b ≠ a) : cellFind (cellDel l a) b = cellFind l b := by
  have h' : ¬ a = b := fun e => h e.symm
  induction l with
  | nil => rfl
  | cons c t ih =>
    obtain ⟨e, x⟩ := c
    by_cases h1 : e = a
    · subst h1; simp [cellDel, cellFind, h']
    · simp [cellDel, cellFind, h1, ih]

theorem cellFind_cellDel_self {lo : Nat} {l : List Host.Cell} (hr : rising lo l) (a : Nat) : cellFind (cellDel l a) a = none := by
  induction l generalizing lo with
  | nil => rfl
  | cons c t ih =>
    obtain ⟨e, x⟩ := c
    by_cases h1 : e = a
    · subst h1
      simp only [cellDel, if_true]
      exact cellFind_below hr.2 (by omega)
    · simp [cellDel, cellFind, h1, ih hr.2]

/-! ## One byte -/

@[simp] theorem unlisted_cells (mem : Memory) (l : List Host.Cell) (a : Nat) : ({ mem with cells := l } : Memory).unlisted a = mem.unlisted a := rfl
@[simp] theorem setByte_unlisted (mem : Memory) (a b : Nat) (v : Byte) : (mem.setByte a v).unlisted b = mem.unlisted b := rfl
@[simp] theorem setByte_check (mem : Memory) (a : Nat) (v : Byte) : (mem.setByte a v).check = mem.check := rfl
@[simp] theorem setByte_granules (mem : Memory) (a : Nat) (v : Byte) : (mem.setByte a v).granules = mem.granules := rfl

/-- A byte written keeps the canonical form. -/
theorem wf_setByte {mem : Memory} (h : mem.wf = true) (a : Nat) (v : Byte) : (mem.setByte a v).wf = true := by
  rw [wf_iff] at h ⊢
  by_cases hv : v = mem.unlisted a
  · simp only [Memory.setByte, hv, if_true, unlisted_cells]
    exact ⟨rising_cellDel h.1 a, fun c hc => h.2 c (mem_cellDel hc)⟩
  · simp only [Memory.setByte, hv, if_false, unlisted_cells]
    refine ⟨rising_cellPut h.1 a v (Nat.zero_le a), fun c hc => ?_⟩
    rcases mem_cellPut hc with rfl | hc
    · exact hv
    · exact h.2 c hc

/-- A byte reads as it was written. -/
theorem byte_setByte_self {mem : Memory} (h : mem.wf = true) (a : Nat) (v : Byte) : (mem.setByte a v).byte a = v := by
  rw [wf_iff] at h
  by_cases hv : v = mem.unlisted a
  · simp only [Memory.byte, Memory.setByte, hv, if_true, unlisted_cells]
    simp [cellFind_cellDel_self h.1]
  · simp [Memory.byte, Memory.setByte, hv]

/-- A byte written leaves every other byte. -/
theorem byte_setByte_ne (mem : Memory) {a b : Nat} (v : Byte) (h : b ≠ a) : (mem.setByte a v).byte b = mem.byte b := by
  by_cases hv : v = mem.unlisted a
  · simp [Memory.byte, Memory.setByte, hv, cellFind_cellDel_ne _ h]
  · simp [Memory.byte, Memory.setByte, hv, cellFind_cellPut_ne _ _ h]

/-! ## Byte strings -/

theorem wf_setBytes {mem : Memory} (h : mem.wf = true) (a : Nat) (d : List Byte) : (mem.setBytes a d).wf = true := by
  induction d generalizing mem a with
  | nil => exact h
  | cons v t ih => exact ih (wf_setByte h a v) (a + 1)

theorem byte_setBytes_out (mem : Memory) (a : Nat) (d : List Byte) {b : Nat} (h : b < a ∨ a + d.length ≤ b) :
    (mem.setBytes a d).byte b = mem.byte b := by
  induction d generalizing mem a with
  | nil => rfl
  | cons v t ih =>
    simp only [List.length_cons] at h
    simp only [Memory.setBytes]
    rw [ih _ _ (by omega), byte_setByte_ne _ _ (by omega)]

theorem byte_setBytes_in {mem : Memory} (hw : mem.wf = true) (a : Nat) (d : List Byte) {i : Nat} (h : i < d.length) :
    (mem.setBytes a d).byte (a + i) = d[i] := by
  induction d generalizing mem a i with
  | nil => simp at h
  | cons v t ih =>
    simp only [Memory.setBytes]
    cases i with
    | zero =>
      rw [byte_setBytes_out _ _ _ (by omega)]
      simp [byte_setByte_self hw]
    | succ i =>
      have := ih (wf_setByte hw a v) (a + 1) (i := i) (by simpa using h)
      simpa [Nat.add_assoc, Nat.add_comm 1 i] using this

@[simp] theorem setBytes_unlisted (mem : Memory) (a b : Nat) (d : List Byte) : (mem.setBytes a d).unlisted b = mem.unlisted b := by
  induction d generalizing mem a with
  | nil => rfl
  | cons v t ih => simp [Memory.setBytes, ih]
@[simp] theorem setBytes_check (mem : Memory) (a : Nat) (d : List Byte) : (mem.setBytes a d).check = mem.check := by
  induction d generalizing mem a with
  | nil => rfl
  | cons v t ih => simp [Memory.setBytes, ih]
@[simp] theorem setBytes_granules (mem : Memory) (a : Nat) (d : List Byte) : (mem.setBytes a d).granules = mem.granules := by
  induction d generalizing mem a with
  | nil => rfl
  | cons v t ih => simp [Memory.setBytes, ih]

/-! ## Lines, granules and unspecified contents -/

theorem wf_check {mem : Memory} (h : mem.wf = true) (c : Tbl (List (BitVec 16))) : ({ mem with check := c } : Memory).wf = true := by
  rw [wf_iff] at h ⊢; exact h
theorem wf_granules {mem : Memory} (h : mem.wf = true) (g : Tbl Granule) : ({ mem with granules := g } : Memory).wf = true := by
  rw [wf_iff] at h ⊢; exact h

theorem wf_setLine {mem : Memory} (h : mem.wf = true) (line : Nat) (d : List Byte) : (mem.setLine line d).wf = true :=
  wf_check (wf_setBytes h line d) _
theorem wf_poisonLine {mem : Memory} (h : mem.wf = true) (line : Nat) : (mem.poisonLine line).wf = true :=
  wf_check (wf_setBytes h line _) _
theorem wf_upset {mem : Memory} (h : mem.wf = true) (line sym : Nat) (diff : BitVec 16) : (mem.upset line sym diff).wf = true := by
  unfold Memory.upset
  dsimp only
  split <;> exact wf_check (wf_setBytes h line _) _

/-- Contents that become unspecified keep the canonical form. -/
theorem wf_scramble {mem : Memory} (h : mem.wf = true) (key : Nat) : (mem.scramble key).wf = true := by
  rw [wf_iff] at h ⊢
  refine ⟨rising_filter h.1 _, fun c hc => ?_⟩
  simp only [Memory.scramble, List.mem_filter, bne_iff_ne] at hc
  have hne : genKey c.1 ≠ key := hc.2
  have hg : tblGet 0 (tblMod 0 mem.gens key (· + 1)) (genKey c.1) = tblGet 0 mem.gens (genKey c.1) := by
    simp only [tblMod, tblGet]
    congr 1
    generalize tblGet 0 mem.gens key + 1 = x
    induction mem.gens with
    | nil => simp [tblPut, tblFind, Ne.symm hne]
    | cons e t ih =>
      obtain ⟨j, y⟩ := e
      by_cases h1 : j = key
      · subst h1; simp [tblPut, tblFind, Ne.symm hne]
      · by_cases h2 : key < j
        · simp [tblPut, tblFind, h1, h2, Ne.symm hne]
        · simp [tblPut, tblFind, h1, h2, ih]
  have : (mem.scramble key).unlisted c.1 = mem.unlisted c.1 := by
    simp only [Memory.unlisted, Memory.gen, Memory.scramble, hg]
    rfl
  rw [this]
  exact h.2 c hc.1

end Sys2Proof.Machine
end

