-- ==== Sys2Proof/Laws/MlDsa.lean ====
section
/-! SUPPORT. Lengths of what the hash and the signature scheme of R661 give. -/

namespace Sys2Proof.Machine

open MlDsa

theorem toBytes_length (n : Nat) : ∀ x, (toBytes n x).length = n := by
  induction n with
  | zero => exact fun _ => rfl
  | succ n ih => exact fun x => congrArg Nat.succ (ih _)

theorem squeeze_length (rate n : Nat) : ∀ s, (squeeze rate n s).length = rate * n := by
  induction n with
  | zero => exact fun _ => rfl
  | succ n ih =>
    intro s
    simp only [squeeze, List.length_append, toBytes_length]
    split
    · subst n; simp
    · rw [ih, Nat.mul_succ, Nat.add_comm]

/-- SHAKE256 gives as many bytes as are asked for. -/
theorem shake256_length (d : List Byte) (n : Nat) : (shake256 d n).length = n := by
  simp only [shake256, List.length_take, squeeze_length]; omega

/-- A sampler gives the coefficients that are needed. -/
theorem sampled_length (rate : Nat) (f : Nat → List Nat) (n : Nat) : ∀ a need, (sampled rate f n a need).length = need := by
  induction n with
  | zero => exact fun _ _ => List.length_replicate
  | succ n ih =>
    intro a need
    simp only [sampled, List.length_append]
    split
    · rw [ih]; omega
    · simp only [List.length_take, List.length_nil] at *; omega

theorem zip_length (f : Nat → Nat → Nat) (a b : Poly) (h : a.length = b.length) : (List.zipWith f a b).length = a.length := by
  rw [List.length_zipWith, h, Nat.min_self]

/-- The transform keeps a polynomial of 256 coefficients one. -/
theorem ntt_length (l : Poly) (h : l.length = 256) : (ntt l).length = 256 := by
  have : ∀ n k (l : Poly), l.length = 2 ^ n → (nttFrom n k l).length = 2 ^ n := by
    intro n
    induction n with
    | zero => exact fun _ _ h => h
    | succ n ih =>
      intro k l h
      have h1 : (l.take (2 ^ n)).length = 2 ^ n := by rw [List.length_take]; omega
      have h2 : ((l.drop (2 ^ n)).map (fun x => zeta k * x % q)).length = 2 ^ n := by rw [List.length_map, List.length_drop]; omega
      simp only [nttFrom, List.length_append]
      rw [ih _ _ (by unfold add; rw [zip_length _ _ _ (h1.trans h2.symm), h1]), ih _ _ (by unfold MlDsa.sub; rw [zip_length _ _ _ (h1.trans h2.symm), h1])]
      omega
  exact this 8 1 l h

/-- A challenge has 256 coefficients. -/
theorem ball_length (d : List Byte) : (ball d).length = 256 := by
  have : ∀ s (l : List Byte) i c, (ballFrom s l i c).length = c.length := by
    intro s l
    induction l with
    | nil => exact fun _ _ => rfl
    | cons b t ih => 
      intro i c
      unfold ballFrom
      split
      · rfl
      · split
        · exact ih ..
        · exact (ih ..).trans ((List.length_set ..).trans (List.length_set ..))
  exact (this _ _ _ _).trans List.length_replicate

/-- The rows of the matrix hold five polynomials of 256 coefficients. -/
theorem expandA_poly (rho : List Byte) (a : List Poly) (ha : a ∈ expandA rho) : a.length = 5 ∧ ∀ p ∈ a, p.length = 256 := by
  obtain ⟨r, -, rfl⟩ := List.mem_map.mp ha
  refine ⟨by simp [cols], fun p hp => ?_⟩
  obtain ⟨s, -, rfl⟩ := List.mem_map.mp hp
  exact sampled_length ..

/-- The bytes of the number of a byte string are the string. -/
theorem toBytes_ofBytes (d : List Byte) : toBytes d.length (ofBytes d) = d := by
  induction d with
  | nil => rfl
  | cons b t ih =>
    have hb := b.isLt
    have h1 : BitVec.ofNat 8 (b.toNat + 256 * ofBytes t) = b := by apply BitVec.eq_of_toNat_eq; simp only [BitVec.toNat_ofNat]; omega
    have h2 : (b.toNat + 256 * ofBytes t) / 256 = ofBytes t := by omega
    show BitVec.ofNat 8 (b.toNat + 256 * ofBytes t) :: toBytes t.length ((b.toNat + 256 * ofBytes t) / 256) = b :: t
    rw [h1, h2, ih]

theorem ofBytes_lt (d : List Byte) : ofBytes d < 256 ^ d.length := by
  induction d with
  | nil => exact Nat.one_pos
  | cons b t ih =>
    have hb := b.isLt
    simp only [ofBytes, List.length_cons, Nat.pow_succ]
    omega

/-- A public key has 1,952 bytes (R664, R670). -/
theorem keyGen_pub_length (xi : List Byte) : (keyGen xi).pub.length = 1952 := by
  have pub : ∀ (rho : List Byte) (t : List (List Nat)), rho.length = 32 → t.length = 6 → (encodePub rho t).length = 1952 := by
    intro rho t hr ht
    have flat : ∀ l : List (List Nat), (l.flatMap (pack 10)).length = 320 * l.length := by
      intro l
      induction l with
      | nil => rfl
      | cons a l ih => simp only [List.flatMap_cons, List.length_append, ih, pack, toBytes_length, List.length_cons]; omega
    simp only [encodePub, List.length_append, flat, hr, ht]
  refine pub _ _ ?_ ?_
  · rw [List.length_take, shake256_length]; rfl
  · simp only [expandA, List.length_map, List.length_zipWith, List.length_range]; rfl

end Sys2Proof.Machine
end

