-- ==== Sys2Proof/Tests/Slice0.lean ====
section
/-! SUPPORT. The model's own tests: the decoder and the well-formedness checks, single steps whose results the spec gives, and for every statement of the slice a concrete state and operands that meet its hypotheses. -/

namespace Sys2Proof.Machine.Test

set_option Elab.async false

/-! ## Small states -/

/-- The thread of the tests, with no guard. -/
def iss : Issue := { thread := 0, guard := { inv := false, pred := 0 } }

/-- A live thread at 0x1000 with a few registers. -/
def xt : Ctx :=
  { Ctx.reset 0 with live := true, pc := 0x1000, s := [(2, 7), (3, 0xFFFFFFFFFFFFFFFD), (4, 64), (5, 0x3FF0000000000000)], v := [(2, 0x3F8000003F800000), (3, BitVec.allOnes 512)], windows := [(0, 3)], ssp := 0x400000 }

/-- An open queue of the thread with five words, its entries in the first places of the store. -/
def qopen : Queue := { isOpen := true, base := 0, depth := 16, hd := 0, count := 5, msgs := [{ ep := ⟨none, 1, 2⟩, chan := 0, c0 := false, n := 5, left := 5 }], rctx := 0, rgen := 0 }

/-- Core 0 in cycle 100, ready to issue, with thread 0 at `x` and its queue 3 open. -/
def coreAt (x : Ctx) : Core := { cycle := 100, nextIssue := 100, cur := 0, ctxs := [(0, x)], queues := [(3, qopen)], store := [(0, 0x9), (1, 0x5)] }

/-- A module that has booted, in which thread 0 stands at `x`. -/
def modAt (x : Ctx) : Mod := { cores := [(0, coreAt x)], sec := { stage := 3 } }

/-- The state of that module. -/
def at_ (x : Ctx) : State := { pending := [], mod := modAt x }

/-- The state that most tests start from. -/
def work : State := at_ xt

/-! ## Slots that issue -/

/-- `Settled`, by evaluation. -/
def settledB (m : Mod) (th : Nat) : Bool :=
  canIssue m th && (ctx m th).resume == none && decide ((core m (th / 4)).nextIssue ≤ (core m (th / 4)).cycle) && decide ((ctx m th).notBefore ≤ (core m (th / 4)).cycle) &&
  (dueCycles m (th / 4)).all (fun k => decide ((core m (th / 4)).cycle < k))

theorem settled_of (m : Mod) (th : Nat) (h : settledB m th = true) : Settled m th := by
  simpa only [settledB, Settled, Bool.and_eq_true, and_assoc, beq_iff_eq, decide_eq_true_eq, List.all_eq_true] using h

/-- `Clear`, by evaluation. -/
def clearB (m : Mod) (th : Nat) (d : SlotDef) : Bool :=
  decodeFault (ctx m th) [] [d] == none && bundleStall (issNow m th) [d] == 0 &&
  arrayFree (issNow m th) [d] && (!d.sdm || decide ((core m (th / 4)).sdmBusy ≤ (core m (th / 4)).cycle)) && valueFault (reads m th d) [d] == none

theorem clear_of (m : Mod) (th : Nat) (d : SlotDef) (h : clearB m th d = true) : Clear m th d := by
  simp only [clearB, Bool.and_eq_true, beq_iff_eq] at h
  obtain ⟨⟨⟨⟨decodes, runs⟩, free⟩, sdm⟩, reads⟩ := h
  exact ⟨decodes, runs, free, fun busy => by simpa [busy] using sdm, reads⟩

/-- `Issues`, by evaluation. -/
def issuesB (m : Mod) (th : Nat) (d : SlotDef) : Bool := settledB m th && clearB m th d && guardOn d.guard (ctx m th)

theorem issues_of (m : Mod) (th : Nat) (d : SlotDef) (h : issuesB m th d = true) : Issues m th d := by
  unfold issuesB at h
  exact ⟨settled_of m th (by cases hs : settledB m th <;> simp_all), clear_of m th d (by cases hc : clearB m th d <;> simp_all), by
    cases hg : guardOn d.guard (ctx m th) <;> simp_all⟩

/-- The command is a slot whose bundle issues in the state, and `p` holds of its thread and slot. -/
def Meets (s : State) (p : Instr → Nat → SlotDef → Bool) (c : Instr) : Prop :=
  ∃ i d, issuer c = some i ∧ slotNow s.mod i.thread.toNat c = some d ∧ Issues s.mod i.thread.toNat d ∧ p c i.thread.toNat d = true

/-- `Meets`, by evaluation. -/
def meetsB (s : State) (p : Instr → Nat → SlotDef → Bool) (c : Instr) : Bool :=
  match issuer c with
  | none => false
  | some i => match slotNow s.mod i.thread.toNat c with
    | none => false
    | some d => issuesB s.mod i.thread.toNat d && p c i.thread.toNat d

theorem meets_of (s : State) (p : Instr → Nat → SlotDef → Bool) (c : Instr) (h : meetsB s p c = true) : Meets s p c := by
  unfold meetsB at h
  cases hi : issuer c with
  | none => simp [hi] at h
  | some i =>
    cases hd : slotNow s.mod i.thread.toNat c with
    | none => simp [hi, hd] at h
    | some d =>
      simp only [hi, hd, Bool.and_eq_true] at h
      exact ⟨i, d, hi, hd, issues_of _ _ _ h.1, h.2⟩

theorem meets_all (s : State) (p : Instr → Nat → SlotDef → Bool) (l : List Instr) (h : l.all (meetsB s p) = true) : ∀ c ∈ l, Meets s p c :=
  fun c hc => meets_of s p c (List.all_eq_true.mp h c hc)

/-- Nothing more is asked of the slot. -/
def nothing (_ : Instr) (_ : Nat) (_ : SlotDef) : Bool := true

/-- The operands of a slot of `work`-like states. -/
def operands (s : State) (th : Nat) (d : SlotDef) : Iss := reads s.mod th d

/-! ## Scalars and vectors -/

theorem witness_IntegerResults : ∀ c ∈ [Instr.add iss 1 2 (.reg 3), .add iss 1 32 (.imm 0x8000), .sub iss 31 2 3, .and iss 1 2 (.reg 32), .or iss 1 2 (.imm 1), .xor iss 1 2 (.reg 3), .shl iss 1 2 (.reg 4), .shr iss 1 2 (.imm 63),
    .sra iss 1 3 (.reg 4), .mul iss 1 2 3, .mulh iss false 1 2 3, .mulh iss true 1 2 3, .div iss false 1 2 0, .div iss true 1 2 3, .rem iss false 1 2 0, .rem iss true 1 2 3, .mov iss 1 (.reg 32), .mov iss 1 (.imm 0xFFFF),
    .movk iss 1 3 0xABCD, .sel iss 1 2 3 7, .bfx iss 1 2 63 0 1, .bfi iss 1 2 0 63 0, .clz iss 1 0, .bperm iss 1 2 3 4], Meets work (fun c th d => (integerResult (reads work.mod th d) c).isSome) c :=
  meets_all _ _ _ (by decide +kernel)

theorem witness_CompareResults : ∀ c ∈ [Instr.cmpeq iss 7 2 (.reg 3), .cmpeq iss 1 2 (.imm 7), .cmpne iss 1 2 32, .cmplt iss 1 3 (.imm 0xFFFF), .cmplt iss 1 2 (.reg 3), .cmpltu iss 1 2 (.reg 3), .cmple iss 1 2 2, .cmpleu iss 0 3 2],
    Meets work (fun c th d => (compareResult (reads work.mod th d) c).isSome) c := meets_all _ _ _ (by decide +kernel)

/-- A thread in STRICT mode that rounds stochastically by default. -/
def strict : State := at_ { xt with strict := true, rnd := 2 }

theorem witness_ScalarFloatResults : ∀ s ∈ [work, strict], ∀ c ∈ [Instr.fadd iss true 1 5 5 0, .fadd iss false 1 2 32 0xD, .fmul iss true 1 5 3 0xE, .fma iss true 1 5 5 5 3, .fdiv iss false 1 5 0 0, .fsqrt iss true 1 5 4, .fmin iss true 1 0 3,
    .fmax iss false 1 2 3, .fcvt iss 1 5 0 0, .fcvt iss 1 5 1 0xC, .fcvt iss 1 3 2 0, .fcvt iss 1 3 3 0, .fcvt iss 1 3 4 0, .fcvt iss 1 5 5 0, .fcvt iss 1 5 6 8, .fcvt iss 1 5 7 0],
    Meets s (fun c th d => let x := ctx s.mod th; (floatResult (reads s.mod th d) (scalarMode x c) (drawBits x (scalarMode x c)) c).isSome) c := by
  intro s hs c hc
  rcases List.mem_cons.mp hs with rfl | hs
  · exact meets_all _ _ _ (by decide +kernel) c hc
  · rcases List.mem_cons.mp hs with rfl | hs
    · exact meets_all _ _ _ (by decide +kernel) c hc
    · cases hs

theorem witness_ScalarFloatCompare : ∀ c ∈ [Instr.fcmp iss true 1 5 3 0, .fcmp iss false 7 2 32 1, .fcmp iss true 1 5 5 2, .fcmp iss true 1 3 5 3], Meets strict nothing c := meets_all _ _ _ (by decide +kernel)

theorem witness_FloatSpecialCases : (fld 0x3FF0000000000000 fp64.mb fp64.eb ≠ 0 ∧ fld 0x3FF0000000000000 fp64.mb fp64.eb ≠ 2 ^ fp64.eb - 1 ∧ 0x8000000000000000 % 2 ^ (fp64.width - 1) = 0) ∧
    (bitOf 0xFF800000 (fp32.width - 1) = true ∧ fld 0xFF800000 fp32.mb fp32.eb ≠ 0 ∧ fld 0xFF800000 0 fp32.mb = 0) ∧
    (fld 0x80000001 0 fp32.mb ≠ 0 ∧ bitOf 0x80000001 (fp32.width - 1) = true ∧ fld 0x80000001 fp32.mb fp32.eb ≠ 2 ^ fp32.eb - 1 ∧ 0x80000000 % 2 ^ (fp32.width - 1) = 0 ∧ fld 1 fp32.mb fp32.eb = 0) ∧ isNan (readF true fp64 0x7FF0000000000001) = true := by decide +kernel

theorem witness_RoundingChoosesNeighbour : 3 % 2 ^ 1 ≠ 0 ∧ 2 * (3 % 2 ^ 1) = 2 ^ 1 ∧ 4 % 2 ^ 1 = 0 := by decide

/-- The operands of a vector test. -/
def vr (t : Nat) (m : BitVec 4) : VR := { d := 1, a := 2, b := 3, c := BitVec.ofNat 6 t, m := m }

theorem witness_VectorIntegerResults : ∀ c ∈ [Instr.vadd iss (vr 0 0), .vsub iss (vr 1 1), .vand iss (vr 2 0), .vor iss (vr 1 0), .vxor iss (vr 2 3), .vshl iss (vr 0 0), .vshr iss (vr 1 0), .vsra iss (vr 2 2), .vmov iss { vr 0 0 with b := 0 },
    .vbcast iss { vr 0 0 with b := 0 }, .vbcast iss { vr 2 15 with a := 32, b := 0 }, .vperm iss (vr 1 0)], Meets work (fun c th d => (vectorInt (reads work.mod th d) c).isSome) c := meets_all _ _ _ (by decide +kernel)

theorem witness_VectorFloatResults : ∀ c ∈ [Instr.vfadd iss .d (vr 0 0), .vfadd iss .s (vr 1 1), .vfmul iss .bf (vr 0 0), .vfma iss .s (vr 4 0), .vmin iss .d (vr 0 0), .vmax iss .bf (vr 0 0), .vcvt iss 1 2 0 1 1 0, .vcvt iss 1 2 4 6 3 1],
    Meets strict (fun c th d => (vectorFloat (reads strict.mod th d) (freshDraws (ctx strict.mod th)) c).isSome) c := meets_all _ _ _ (by decide +kernel)

theorem witness_VectorMaskResults : (∀ c ∈ [Instr.vcmpeq iss (vr 0 0), .vcmplt iss (vr 1 1), .vcmpltu iss (vr 2 2), .vfcmp iss .s (vr 1 0)], Meets strict (fun c th d => (vectorCompare (reads strict.mod th d) (freshDraws (ctx strict.mod th)) c).isSome) c) ∧
    ∀ c ∈ [Instr.vmop iss (vr 0 0), .vmop iss (vr 4 0), .vms iss { vr 0 0 with a := 32, b := 0 }, .vsm iss { vr 0 0 with b := 0 }], Meets work nothing c :=
  ⟨meets_all _ _ _ (by decide +kernel), meets_all _ _ _ (by decide +kernel)⟩

theorem witness_ReductionResults : ∀ c ∈ [Instr.vred iss { vr 0 0 with b := 4 }, .vred iss { vr 5 0 with b := 0x21 }, .vred iss { vr 0 2 with b := 1 }, .vred iss { vr 2 0 with b := 0x20 }], Meets strict nothing c := meets_all _ _ _ (by decide +kernel)

/-! ## Tiles, accumulators and local memory -/

/-- A thread with six configured tiles, the second and the last with an uncorrectable error, and accumulators of every type. -/
def xm : Ctx :=
  { xt with tcfg := [(0, { rows := 16, rowBytes := 64, fmt := 7, scale := 0 }), (1, { rows := 16, rowBytes := 64, fmt := 7, scale := 0 }), (2, { rows := 2, rowBytes := 64, fmt := 0, scale := 0 }), (3, { rows := 16, rowBytes := 64, fmt := 1, scale := 0 }), (4, { rows := 4, rowBytes := 8, fmt := 2, scale := 0 }), (6, { rows := 4, rowBytes := 8, fmt := 2, scale := 0 })], accTy := [(0, .fp32), (1, .int32), (2, .fp64), (3, .fp64)], tileBad := [1, 6] }

/-- Its state. -/
def mat : State := at_ xm

theorem witness_TileRowMoves : ∀ c ∈ [Instr.vtr iss { d := 2, a := 2, b := 0, c := 15, m := 1 }, .vtr iss { d := 0, a := 3, b := 0, c := 0, m := 2 }, .trv iss { d := 31, a := 1, b := 0, c := 15, m := 0 }, .trv iss { d := 1, a := 0, b := 0, c := 0, m := 0 }],
    Meets mat nothing c := meets_all _ _ _ (by decide +kernel)

theorem witness_MatrixConfiguration : ∀ c ∈ [Instr.tcfg iss 7 15 63 2 0, .tcfg iss 0 0 0 5 0, .acfg iss 0 2, .acfg iss 3 0, .acfg iss 1 1, .accz iss 3, .accz iss 0], Meets mat nothing c := meets_all _ _ _ (by decide +kernel)

/-- A row whose first 16 scale bytes are `v`. -/
def scaled (v : Nat) : TRow := { data := 0x7F80, scale := v * 0x01010101010101010101010101010101 }

theorem witness_IntegerDotProduct : (8 % 8 = 0 ∧ ∀ g, g < 8 / 8 → (scaled 127).scaleOf (8 * g) = 127) ∧ ∀ g, 8 * g < 13 → (scaled 255).scaleOf (8 * g) = 255 := by
  refine ⟨⟨rfl, ?_⟩, ?_⟩
  · intro g hg
    obtain rfl : g = 0 := by omega
    decide +kernel
  · intro g hg
    have : g = 0 ∨ g = 1 := by omega
    rcases this with rfl | rfl <;> decide +kernel

theorem witness_MatrixMultiply : ∀ c ∈ [Instr.mma iss 7 0 0 1, .mma iss 7 0 0 0, .mma iss 0 2 2 2, .mma iss 1 0 3 3], Meets mat (fun c _ _ => match c with | .mma _ fmt _ _ _ => (fmtOf fmt).isSome | _ => false) c := meets_all _ _ _ (by decide +kernel)

/-- A local-memory operand at unit `u` in mode `m`. -/
def lm (u m : Nat) : LmOp := { sd := 1, mode := BitVec.ofNat 2 m, lm13 := BitVec.ofNat 13 u }

theorem witness_AccumulatorReadout : ∀ c ∈ [Instr.accrd iss 5 0 1 0 false, .accrd iss 5 0 2 2 false, .accst iss 0 (lm 8191 2) 2 1 false, .accrd iss 5 2 0 0 true],
    Meets mat (fun c th _ => match c with
      | .accrd _ _ a fmt _ half | .accst _ a _ fmt _ half => (match fmtOf fmt with | some f => (readoutOf ((ctx mat.mod th).aty a.toNat) f half).isSome | none => false)
      | _ => false) c := meets_all _ _ _ (by decide +kernel)

theorem witness_TileConversion : ∀ c ∈ [Instr.tcvt iss 5 3 1 0, .tcvt iss 5 3 2 3, .tcvt iss 3 3 3 2, .ttr iss 5 4, .ttr iss 5 6],
    Meets mat (fun c th _ => match c with
      | .tcvt _ _ ta fmt _ => (fmtOf ((ctx mat.mod th).tconf ta.toNat).fmt).isSome && (fmtOf fmt).isSome
      | .ttr _ _ ta => (fmtOf ((ctx mat.mod th).tconf ta.toNat).fmt).isSome
      | _ => false) c := meets_all _ _ _ (by decide +kernel)

theorem clean (x : Ctx) (c : Nat) : CleanSram (modAt x) c := ⟨fun _ _ => rfl, fun _ _ => rfl⟩

theorem witness_LocalMemoryAccess : CleanSram mat.mod 0 ∧ ∀ c ∈ [Instr.tll iss 1 (lm 8191 2), .tll iss 5 (lm 0 0), .vld iss 31 (lm 8191 1), .tsl iss 1 (lm 8190 2), .vst iss 3 (lm 0 0), .lds iss .b 1 2 0xFFFF, .lds iss .d 1 4 0xFFF8, .lds iss .w 1 0 0x8000,
    .sts iss .d 32 4 0, .sts iss .b 2 0 0xFFFF], Meets mat nothing c := ⟨clean _ _, meets_all _ _ _ (by decide +kernel)⟩

/-! ## Global memory -/

theorem witness_GlobalLoadsIssue : ∀ c ∈ [Instr.ldg iss .d 1 4 0, .ldg iss .bu 1 0 0x7FFF, .ldg iss .w 9 4 4, .vldg iss 31 4 0], Meets work nothing c := meets_all _ _ _ (by decide +kernel)

/-- A valid line of the data cache at 0x40. -/
def line : DLine := { addr := 0x40, valid := true, lock := true, poison := false, prefetched := false, err := [], data := List.replicate 64 0x11 }

/-- A fill of the next line. -/
def fill : DFill := { addr := 0x80, prefetch := false, closed := none, merged := [] }

/-- The state with a line in core 0's data cache and that fill under way, the line after it locked and not yet valid. -/
def caching (l : DLine) : State := { pending := [], mod := { cores := [(0, { coreAt xt with dcache := [l, { line with addr := 0x80, valid := false, data := [] }], dfills := [fill] })] } }
def cached : State := caching line

theorem witness_GlobalStoresIssue : (∀ c ∈ [Instr.stg iss .d 32 4 0, .stg iss .b 2 4 63, .vstg iss 2 4 0, .vstg iss 3 1 0], Meets cached nothing c) ∧
    (∀ l ∈ [line, { line with poison := true }, { line with err := [.tag] }], Meets (caching l) nothing (.stg iss .d 32 4 0) ∧ leadsTo (caching l).mod 0 64 = .here 64 ∧ isHbm 64 = true ∧ dcFind (caching l).mod 0 (lineOf 64) = some l) ∧
    Meets cached nothing (.stg iss .d 32 4 64) ∧ leadsTo cached.mod 0 128 = .here 128 ∧ fillOpen cached.mod 0 (lineOf 128) = some fill := by
  refine ⟨meets_all _ _ _ (by decide +kernel), ?_, meets_of _ _ _ (by decide +kernel), by decide +kernel⟩
  intro l hl
  simp only [List.mem_cons, List.not_mem_nil, or_false] at hl
  rcases hl with rfl | rfl | rfl <;> exact ⟨meets_of _ _ _ (by decide +kernel), by decide +kernel⟩

theorem witness_AtomicsAndPutsIssue : (∀ c ∈ [Instr.amo iss .w 1 4 2 3 0, .amo iss .d 1 4 2 3 5, .put iss 4 0 255, .put iss 4 2 0, .put iss 6 0 191], Meets cached nothing c) ∧ leadsTo cached.mod 0 64 = .here 64 := ⟨meets_all _ _ _ (by decide +kernel), by decide +kernel⟩

theorem witness_TileGlobalIssue : ∀ c ∈ [Instr.tlg iss 2 4 4, .tlg iss 0 0 4, .tsg iss 1 4 4], Meets mat nothing c := meets_all _ _ _ (by decide +kernel)

theorem witness_CacheInstructions : (∀ c ∈ [Instr.cpre iss 4 64, .cpre iss 4 0, .cinv iss 4 0, .cinv iss 4 64], Meets cached nothing c) ∧ leadsTo cached.mod 0 64 = .here 64 ∧ leadsTo cached.mod 0 128 = .here 128 ∧ isHbm 64 = true ∧
    fillOpen cached.mod 0 128 = some fill := ⟨meets_all _ _ _ (by decide +kernel), by decide +kernel⟩

/-! ## Control flow -/

/-- A slot guarded off by predicate 1. -/
def off : Issue := { thread := 0, guard := { inv := false, pred := 1 } }

theorem witness_GuardedOffSlotsDoNothing : (∀ c ∈ [Instr.add off 1 2 (.reg 32), .exit off, .mma off 7 0 0 1, .nop off .m], ∃ i d, issuer c = some i ∧ slotNow mat.mod i.thread.toNat c = some d ∧ Settled mat.mod i.thread.toNat ∧
      decodeFault (ctx mat.mod i.thread.toNat) [] [d] = none ∧ guardOn d.guard (ctx mat.mod i.thread.toNat) = false) ∧
    ∀ c ∈ [Instr.nop iss .s, .nop iss .v, .nop iss .m, .nop iss .l, .nop iss .t, .nop iss .y], Meets work nothing c := by
  refine ⟨?_, meets_all _ _ _ (by decide +kernel)⟩
  have hs : Settled mat.mod 0 := settled_of _ _ (by decide +kernel)
  have h : ∀ c ∈ [Instr.add off 1 2 (.reg 32), .exit off, .mma off 7 0 0 1, .nop off .m], issuer c = some off ∧ (match slotNow mat.mod 0 c with
      | some d => decide (decodeFault (ctx mat.mod 0) [] [d] = none) && !guardOn d.guard (ctx mat.mod 0)
      | none => false) = true := by decide +kernel
  intro c hc
  obtain ⟨h1, h2⟩ := h c hc
  cases hd : slotNow mat.mod 0 c with
  | none => simp [hd] at h2
  | some d =>
    simp only [hd, Bool.and_eq_true, decide_eq_true_eq, Bool.not_eq_true'] at h2
    exact ⟨off, d, h1, hd, hs, h2.1, h2.2⟩

theorem witness_BranchesRedirect : ∀ c ∈ [Instr.br iss 0x8000000, .br iss 1, .call iss 1 0x200000, .call iss 1 0, .bri iss 4, .calli iss 4 4], Meets work nothing c := meets_all _ _ _ (by decide +kernel)

theorem witness_LoopsStart : ∀ c ∈ [Instr.loop iss 2 0 0xFFFFF, .loop iss 0 0 1, .loopi iss 0xFFF 0 0x3FFF, .loopi iss 0 0 1, .loopi iss 1 0 1], Meets work nothing c := meets_all _ _ _ (by decide +kernel)

/-- A thread whose levels 0 to 2 end at 0x1000 with counts of 1, 0 and 0. -/
def looping : Ctx := { xt with lps := [(0, 0x800)], lpe := [(0, 0x1000), (1, 0x1000), (2, 0x1000)], lpc := [(0, 1)] }

theorem witness_BackEdgeRule : (∀ j, j + 1 = 3 → tblGet 0 looping.lpe j ≠ 0x2000) ∧ ((∀ j, 0 < j → j < 3 → tblGet 0 looping.lpe j = 0x1000 ∧ tblGet 0 looping.lpc j = 0) ∧ tblGet 0 looping.lpe 0 = 0x1000 ∧ tblGet 0 looping.lpc 0 ≠ 0) ∧
    (∀ j, 1 ≤ j → j < 3 → tblGet 0 looping.lpe j = 0x1000 ∧ tblGet 0 looping.lpc j = 0) ∧ ∀ j, j + 1 = 4 → tblGet 0 looping.lpe j ≠ 0x1000 := by
  refine ⟨?_, ⟨?_, by decide, by decide⟩, ?_, ?_⟩
  · intro j h; obtain rfl : j = 2 := by omega
    decide
  · intro j h1 h2
    have : j = 1 ∨ j = 2 := by omega
    rcases this with rfl | rfl <;> decide
  · intro j h1 h2
    have : j = 1 ∨ j = 2 := by omega
    rcases this with rfl | rfl <;> decide
  · intro j h; obtain rfl : j = 3 := by omega
    decide

/-- A supervisor thread in its innermost loop. -/
def sup : State := at_ { looping with sup := true }

theorem witness_ControlRegisterAccess : ∀ c ∈ [Instr.crr iss 1 0, .crr iss 1 0x10, .crr iss 1 0x37, .crw iss 0 0x26, .crw iss 4 0x27, .crw iss 3 0x30, .crw iss 4 0x23, .crw iss 32 2, .crw iss 4 8, .rte iss], Meets sup nothing c := meets_all _ _ _ (by decide +kernel)

theorem witness_ControlRegisterWritesRead : (4#64).toNat % 8 ≤ 4 ∧ 4 < (5#64).toNat % 8 ∧ (0x30#64).extractLsb' 4 2 = 3 ∧ (0x20#64).extractLsb' 4 2 ≠ 3 ∧
    ∀ n, 0x20 ≤ n → n < 0x40 → (flying work.mod 0 .s 1 (crwLanding n 0x55)).w = crwLanding n 0x55 := ⟨by decide, by decide, by decide, by decide, fun _ _ _ => rfl⟩

/-- A supervisor thread whose core has loaded two user-defined opcodes. -/
def user : State := { pending := [], mod := { cores := [(0, { coreAt { xt with sup := true } with dtable := [(5, hashEntry), (37, [0, 0, 3, 0, 0x13, 0x0C, 0, 0x80, 0, 0, 0, 0, 0, 0, 0, 0] ++ toBytes 5 0x210E39E800 ++ List.replicate 75 0)] })] } }

theorem witness_UserDefinedOpcodes : CleanSram user.mod 0 ∧ (∀ c ∈ [Instr.userDefinedOpcode iss false 5 { d := 31, a := 2, b := 4, c := 0, m := 0 }, .userDefinedOpcode iss true 5 { d := 31, a := 2, b := 3, c := 0, m := 0 }, .wdt iss 4 2], Meets user nothing c) ∧
    entryAt (core user.mod 0) 5 100 = hashEntry := ⟨⟨fun _ _ => rfl, fun _ _ => rfl⟩, meets_all _ _ _ (by decide +kernel), by decide +kernel⟩

/-! ## Channels, threads and barriers -/

/-- Endpoints 0 to 3: open with one credit, broken, closed, and open of class 0. -/
def endpoints : Tbl Endpoint := [(0, { state := 2, credit := 1, grant := 4 }), (1, { state := 3 }), (3, { state := 2, credit := 1, grant := 4, c0 := true, chC0 := true })]

/-- A thread with those endpoints, nothing staged, member of barrier group 64, its counter 1 at 5. -/
def xc : Ctx := { xt with eps := endpoints, barmem := [(1, 1)], ctrs := [(1, 5)], s := [(2, 7), (4, 64), (6, 8), (7, 1), (8, 6), (9, 5)] }

/-- The same with an entry staged for channel `c`. -/
def stagedOn (c : Nat) (tokens : Nat) : State := at_ { xc with sendCh := BitVec.ofNat 7 c, sendBuf := [5], toll := tokens }

theorem witness_SendsStage : (∀ c ∈ [Instr.send iss 0 2 4, .send iss 1 2 4, .send iss 2 2 4, .sendt iss 0 2 4 7, .sendt iss 1 2 4 1, .sendt iss 3 2 4 0, .commit iss 0, .commit iss 127], Meets (at_ xc) nothing c) ∧
    Meets (stagedOn 1 4) nothing (.commit iss 1) ∧ Meets (stagedOn 3 0) nothing (.commit iss 3) ∧ Meets (stagedOn 3 4) nothing (.commit iss 3) ∧ Meets (stagedOn 0 4) nothing (.commit iss 0) ∧
    (ctx (stagedOn 1 4).mod 0).sendBuf ≠ [] ∧ epDown (ctx (stagedOn 1 4).mod 0) 1 = true ∧ epDown (ctx (stagedOn 3 0).mod 0) 3 = false ∧ (ctx (stagedOn 3 0).mod 0).toll = 0 ∧ ((ctx (stagedOn 3 4).mod 0).endp 3).chPeer = none :=
  ⟨meets_all _ _ _ (by decide +kernel), meets_of _ _ _ (by decide +kernel), meets_of _ _ _ (by decide +kernel), meets_of _ _ _ (by decide +kernel), meets_of _ _ _ (by decide +kernel), by decide +kernel⟩

theorem witness_QueueSelect : ∀ c ∈ [Instr.qsel iss 1 6 0 15 false, .qsel iss 1 6 0 0 true, .qsel iss 31 6 2 1 true], Meets (at_ xc) nothing c := meets_all _ _ _ (by decide +kernel)

theorem witness_QueueWordsArePopped : 0 / 4 = 3 / 128 ∧ (queueAt work.mod 3).half = false ∧ (queueAt (popWord work.mod 3 0 .s 0x1000).1 3).half = true := by decide +kernel

theorem witness_ThreadInstructions : (∀ c ∈ [Instr.fork iss 31 4 2, .fork iss 1 4 0, .join iss 7, .exit iss], Meets (at_ xc) nothing c) ∧ (ctx (at_ xc).mod 0).item = none := ⟨meets_all _ _ _ (by decide +kernel), rfl⟩

theorem witness_BarriersFencesAndEvents : (∀ c ∈ [Instr.barArrive iss 64, .barWait iss 64, .fenceC iss, .fenceM iss, .fenceF iss, .evwait iss 7 9, .evwait iss 7 8, .evwait iss 7 0], Meets (at_ xc) nothing c) ∧
    (∃ t, (tblGet 0 (ctx (at_ { xc with arrived := [64] }).mod t).barmem (64 / 64)).getLsbD (64 % 64) = true) ∧
    ∀ t, (tblGet 0 (ctx (at_ { xc with arrived := [64] }).mod t).barmem (64 / 64)).getLsbD (64 % 64) = true → 64 ∈ (ctx (at_ { xc with arrived := [64] }).mod t).arrived := by
  refine ⟨meets_all _ _ _ (by decide +kernel), ⟨0, by decide +kernel⟩, ?_⟩
  intro t
  by_cases h0 : t / 4 = 0
  · have : t = 0 ∨ t = 1 ∨ t = 2 ∨ t = 3 := by omega
    rcases this with rfl | rfl | rfl | rfl <;> decide +kernel
  · intro h
    have hc : core (at_ { xc with arrived := [64] }).mod (t / 4) = {} := by
      simp only [core, at_, modAt, tblGet, tblFind]
      simp [Ne.symm h0]
    simp [ctx, hc, tblGet, tblFind, Ctx.reset] at h

/-! ## Exceptions -/

/-- A machine check, and the fault of a step. -/
def check : Flt := machineCheck 0x31 3 0 0x1000 0
def stepErr : Flt := syncFault .l 0x26 1 0x777

theorem pushes (x : Ctx) (h1 : x.ssp = 0x400000) (h2 : x.xbase = 0) : Pushes (modAt x) 0 0x3FFFC0 := by
  have h : ctx (modAt x) 0 = x := rfl
  refine ⟨?_, ?_, ?_, Or.inl (by decide +kernel)⟩
  · rw [h, h1]; decide
  · rw [h, h1]; decide
  · simp only [leadsTo, h, h1, h2]
    rfl

theorem chosen_dispatch : Chosen { xt with pendInt := 0x3F, mask := 1 } (3, 2, 0x10) := by unfold Chosen; decide +kernel

/-- The state in the cycle of the thread's boundary, and the thread there. -/
def bound (x : Ctx) : Mod := toBoundary (modAt x) 0

theorem bound_eq (x : Ctx) (h : bound x = modAt x) (h1 : x.ssp = 0x400000) (h2 : x.xbase = 0) : Pushes (bound x) 0 0x3FFFC0 := h ▸ pushes x h1 h2

theorem witness_ExceptionsAreTaken :
    (let x : Ctx := { xt with checks := [check], mask := 3 }
     atBoundary (modAt x) 0 = true ∧ (ctx (bound x) 0).dbl = false ∧ Pushes (bound x) 0 0x3FFFC0 ∧ (ctx (bound x) 0).checks = [check] ∧ check.level = 4 ∧ (ctx (bound x) 0).mask ≠ 4 ∧ NoWalkTo (bound x) 0 ((ctx (bound x) 0).ssp - 64)) ∧
    (let x : Ctx := { xt with pendInt := 0x3F, mask := 1 }
     atBoundary (modAt x) 0 = true ∧ (ctx (bound x) 0).dbl = false ∧ Pushes (bound x) 0 0x3FFFC0 ∧ (ctx (bound x) 0).checks = [] ∧ Chosen (ctx (bound x) 0) (3, 2, 0x10)) ∧
    (let x : Ctx := { xt with stepFault := some stepErr, mask := 2 }
     atBoundary (modAt x) 0 = true ∧ (ctx (bound x) 0).dbl = false ∧ Pushes (bound x) 0 0x3FFFC0 ∧ (ctx (bound x) 0).checks = [] ∧ (∀ e ∈ interrupts, unmasked (ctx (bound x) 0) e = false) ∧ (ctx (bound x) 0).stepFault = some stepErr ∧ stepErr.level = 3 ∧ (ctx (bound x) 0).mask.toNat < 3) ∧
    (Settled work.mod 0 ∧ Pushes work.mod 0 0x3FFFC0 ∧ xt.dbl = false ∧ xt.mask.toNat < 3 ∧ NoWalkTo work.mod 0 (xt.ssp - 64) ∧ (∃ d f, slotNow work.mod 0 (.vadd iss (vr 4 0)) = some d ∧ decodeFault xt [] [d] = some f) ∧
      ∀ c ∈ [Instr.ldg iss .d 1 2 0, .ldg iss .d 1 32 0, .amo iss .w 1 32 2 3 0], ∃ d f, slotNow work.mod 0 c = some d ∧ decodeFault xt [] [d] = none ∧ guardOn d.guard xt = true ∧ bundleStall (issNow work.mod 0) [d] = 0 ∧ arrayFree (issNow work.mod 0) [d] = true ∧ d.sdm = false ∧
        valueFault (reads work.mod 0 d) [d] = some f) := by
  have e1 : bound { xt with checks := [check], mask := 3 } = modAt { xt with checks := [check], mask := 3 } := rfl
  have e2 : bound { xt with pendInt := 0x3F, mask := 1 } = modAt { xt with pendInt := 0x3F, mask := 1 } := rfl
  have e3 : bound { xt with stepFault := some stepErr, mask := 2 } = modAt { xt with stepFault := some stepErr, mask := 2 } := rfl
  refine ⟨⟨by decide +kernel, by decide +kernel, bound_eq _ e1 rfl rfl, by decide +kernel, rfl, by decide +kernel, Or.inl (by decide +kernel)⟩,
    ⟨by decide +kernel, by decide +kernel, bound_eq _ e2 rfl rfl, by decide +kernel, by rw [e2]; exact chosen_dispatch⟩,
    ⟨by decide +kernel, by decide +kernel, bound_eq _ e3 rfl rfl, by decide +kernel, by rw [e3]; decide +kernel, by decide +kernel, rfl, by decide +kernel⟩,
    settled_of _ _ (by decide +kernel), pushes _ rfl rfl, rfl, by decide, Or.inl rfl, ⟨_, _, rfl, rfl⟩, ?_⟩
  intro c hc
  simp only [List.mem_cons, List.not_mem_nil, or_false] at hc
  rcases hc with rfl | rfl | rfl <;> exact ⟨_, _, rfl, rfl, rfl, by decide +kernel, rfl, rfl, rfl⟩

/-- A thread whose frame push, of a level-3 entry, is answered with `r`. -/
def pushing (x : Ctx) (r : Resp) : State :=
  let y : Ctx := { x with entry := some { level := 3, frame := [0x1000, 0x36260001], at_ := 0x3FFFC0 } }
  { pending := [], mod := { modAt y with accs := [{ mkAccess (modAt y) 0 .y .framePush 0x3FFFC0 (.here 0x3FFFC0) 64 with performed := true, answer := some r }] } }

/-- A response without an error and one with. -/
def fine : Resp := { status := 0, data := List.replicate 64 0x40, poison := false, ue := false }
def bad : Resp := { status := 2, data := [], poison := false, ue := false }

/-- A thread in an RTE whose frame read is answered. -/
def returning : State :=
  let y : Ctx := { xt with rteAt := some 0x3FFFC0 }
  { pending := [], mod := { modAt y with accs := [{ mkAccess (modAt y) 0 .s .frameRead 0x3FFFC0 (.here 0x3FFFC0) 64 with performed := true, answer := some fine }] } }

/-- Is the thread's frame push answered with `r`? -/
def pushed (s : State) (r : Resp) : Bool := match pushAccess s.mod 0 with | some a => a.answer == some r | none => false

theorem witness_ExceptionPaths :
    (meshRuns (pushing xt fine).mod = true ∧ (ctx (pushing xt fine).mod 0).entry.isSome = true ∧ pushed (pushing xt fine) fine = true ∧ pushed (pushing { xt with stdHandler := true } fine) fine = true ∧ pushed (pushing xt bad) bad = true ∧
      xt.stdHandler = false ∧ xt.dbl = false ∧ xt.live = true) ∧
    (∀ d, (let x : Ctx := { xt with checks := [check], mask := 4, dbl := d }
           atBoundary (modAt x) 0 = true ∧ (ctx (bound x) 0).dbl = d ∧ (ctx (bound x) 0).stdHandler = false ∧ (ctx (bound x) 0).checks = [check] ∧ check.level = 4 ∧ (ctx (bound x) 0).mask = 4) ∧
          (let x : Ctx := { xt with stepFault := some stepErr, mask := 3, dbl := d }
           atBoundary (modAt x) 0 = true ∧ (ctx (bound x) 0).dbl = d ∧ (ctx (bound x) 0).stdHandler = false ∧ (ctx (bound x) 0).checks = [] ∧ (∀ e ∈ interrupts, unmasked (ctx (bound x) 0) e = false) ∧ (ctx (bound x) 0).stepFault = some stepErr ∧
             stepErr.level = 3 ∧ 3 ≤ (ctx (bound x) 0).mask.toNat)) ∧
    (meshRuns returning.mod = true ∧ (ctx returning.mod 0).dbl = false ∧ (ctx returning.mod 0).rteBad = none ∧ (returning.mod.accs.find? (fun k => k.kind == .frameRead && k.thread.toNat == 0 && k.gen == (ctx returning.mod 0).gen)).isSome = true ∧ fine.status = 0 ∧
      fine.poison = false ∧ fine.ue = false) ∧
    ((ctx (at_ { xt with rteAt := some 0, dbl := true }).mod 0).dbl = true ∧ ∀ j, j < 64 → granuleOf (at_ { xt with rteAt := some 0, dbl := true }).mod (dfSlot (at_ { xt with rteAt := some 0, dbl := true }).mod 0 + j) = none) ∧
    (let x : Ctx := { xt with rteAt := some 1, rteBad := some 1 }
     meshRuns (modAt x) = true ∧ (ctx (modAt x) 0).rteAt = some 1 ∧ (ctx (modAt x) 0).dbl = false ∧ (ctx (modAt x) 0).stdHandler = false ∧ (ctx (modAt x) 0).rteBad = some 1) ∧
    (∀ e ∈ [(0, 0x400010, 0), (1, 0x8000000000400000, 0), (2, 0x400000, 1)], let x : Ctx := { xt with ssp := e.2.1, xbase := e.2.2, stepFault := some stepErr, pendInt := 0x3F, mask := 1 }
     PushFails (bound x) 0 e.1 ∧ atBoundary (modAt x) 0 = true ∧ (ctx (bound x) 0).checks = [] ∧ (bound x).mem.check = [] ∧ Chosen (ctx (bound x) 0) (3, 2, 0x10)) := by
  refine ⟨by decide +kernel, by intro d; cases d <;> decide +kernel, by decide +kernel, ⟨rfl, fun _ _ => rfl⟩, by decide +kernel, ?_⟩
  intro e he
  simp only [List.mem_cons, List.not_mem_nil, or_false] at he
  unfold PushFails Chosen
  rcases he with rfl | rfl | rfl
  · exact ⟨Or.inl ⟨rfl, by decide +kernel⟩, by decide +kernel⟩
  · exact ⟨Or.inr (Or.inl ⟨rfl, by decide +kernel, Or.inl (by decide +kernel)⟩), by decide +kernel⟩
  · exact ⟨Or.inr (Or.inr ⟨rfl, by decide +kernel, by decide +kernel, by decide +kernel⟩), by decide +kernel⟩

/-! ## A core at work -/

/-- A present slot of a bundle, placed by R84 to R86 and R89. -/
def part (w : Slot) (op operands : Nat) : Nat := 2 ^ (slotAt w).2 + 2 ^ (slotAt w).1 * (op * 2 ^ 28 + operands)

/-- The word of ADD s1, s2, s3 in the S slot of a bundle whose other slots are absent. -/
def addBundle : Nat := part .s 0x01 (1 * 2 ^ 22 + 2 * 2 ^ 16 + 3 * 2 ^ 10)

/-- VADD v1, v2, v3 on 64-bit lanes beside a slot S. -/
def beside (s : Nat) : Nat := s + part .v 0x01 (1 * 2 ^ 22 + 2 * 2 ^ 16 + 3 * 2 ^ 10 + 2 * 2 ^ 4)

/-- CRW s2 to cr.mask, and LDG.D s1 from s2, which is no multiple of 8. -/
def crwSlot : Nat := part .s 0xB1 (2 * 2 ^ 22 + 5)
def ldgSlot : Nat := part .s 0x86 (1 * 2 ^ 22 + 2 * 2 ^ 16)

/-- A core whose instruction cache holds two bundles `b`, its thread at `x`. -/
def fetched (x : Ctx) (b : Nat) : Mod := { cores := [(0, { coreAt x with ipfen := false, icache := [{ addr := 0x1000, err := [], data := toBytes 32 b ++ toBytes 32 b }] })] }

/-- No slot of the bundle meets a fault at decode, by evaluation. -/
def cleanB (m : Mod) (th : Nat) (b : Bundle) : Bool := b.bad.isEmpty && (slotsNow m th b).all (fun d => d.illegal.isNone && !d.priv (ctx m th) && d.wins.isEmpty)

theorem clean_of (m : Mod) (th : Nat) (b : Bundle) (h : cleanB m th b = true) : ∀ w f, ¬DecodesTo m th b w f := by
  simp only [cleanB, Bool.and_eq_true, List.isEmpty_iff, List.all_eq_true, Option.isNone_iff_eq_none, Bool.not_eq_true'] at h
  rintro w f (⟨k, hk, -⟩ | ⟨-, d, hd, -, ⟨k, hk, -⟩ | ⟨-, hp, -⟩ | ⟨-, -, -, -, e, he, -, q, n, k, hq, -⟩⟩)
  · simp [h.1] at hk
  · simp [(h.2 d hd).1.1] at hk
  · simp [(h.2 d hd).1.2] at hp
  · simp [(h.2 d hd).2] at hq

/-- The bundle waits for nothing, by evaluation. -/
def idleB (m : Mod) (th : Nat) (b : Bundle) : Bool :=
  (activeNow m th b).all (fun d => !pendingReg (ctx m th) d && d.stall (issNow m th) == 0) && !windowsEmpty m th (windowNeeds (ctx m th) th (activeNow m th b))

theorem mayGo_of (m : Mod) (th : Nat) (b : Bundle) (h : (cleanB m th b && idleB m th b) = true) : MayGo m th b := by
  simp only [idleB, Bool.and_eq_true, List.all_eq_true, Bool.not_eq_true', beq_iff_eq] at h
  refine ⟨clean_of m th b h.1, ?_⟩
  rintro n (⟨-, d, hd, hp⟩ | ⟨-, -, hw⟩ | ⟨-, -, d, hd, hs, hn, -⟩)
  · simp [(h.2.1 d hd).1] at hp
  · simp [h.2.2] at hw
  · exact hn (hs ▸ (h.2.1 d hd).2)

/-- `Ready`, by evaluation. -/
def readyB (m : Mod) (th : Nat) (b : Bundle) : Bool :=
  (cleanB m th b && idleB m th b) && arrayFree (issNow m th) (activeNow m th b) && (activeNow m th b).all (fun d => !d.sdm || decide ((core m (th / 4)).sdmBusy ≤ (core m (th / 4)).cycle))

theorem ready_of (m : Mod) (th : Nat) (b : Bundle) (h : readyB m th b = true) : Ready m th b := by
  obtain ⟨h, sdm⟩ := Bool.and_eq_true _ _ ▸ (show (_ && _) = true from h)
  obtain ⟨goes, free⟩ := Bool.and_eq_true _ _ ▸ (show (_ && _) = true from h)
  exact ⟨mayGo_of m th b goes, free, fun d hd hs => by simpa [hs] using List.all_eq_true.mp sdm d hd⟩

/-- No value of an active slot raises a fault, by evaluation. -/
def quietB (m : Mod) (th : Nat) (b : Bundle) : Bool := (activeNow m th b).all (fun d => (unboundFault (issWith m th b) [d]).isNone && (d.fault (issWith m th b)).isNone && !d.branch)

theorem faultless_of (m : Mod) (th : Nat) (b : Bundle) (h : quietB m th b = true) : ∀ d f, ¬ValuesTo m th b d f := by
  simp only [quietB, Bool.and_eq_true, List.all_eq_true, Option.isNone_iff_eq_none, Bool.not_eq_true'] at h
  rintro d f ⟨hd, hu | ⟨-, hf | ⟨-, hb, -⟩⟩⟩
  · simp [(h d hd).1.1] at hu
  · simp [(h d hd).1.2] at hf
  · simp [(h d hd).2] at hb

/-- The bundle of a cached line. -/
def bundleOf (b : Nat) : Bundle := decodeBundle 0 (ofBytes (toBytes 32 b))

/-- A result in flight for the third cycle from now. -/
def late : Ctx := { xt with inflight := [{ due := 103, issued := 100, slot := .s, bundle := 0x1000, w := .s 1 9 }] }

theorem add_lands (k : Iss) (i : Issue) (d a : Spec) (b : RegImm) : ∃ v, OnlyLands k (defAdd i d a b) [(1, .s d.toNat v)] := ⟨_, rfl, rfl, rfl, fun _ => rfl⟩

theorem vadd_lands (k : Iss) (i : Issue) (o : VR) : ∃ v mask, OnlyLands k (defVadd i o) [(2, .v o.d.toNat v mask)] := ⟨_, _, rfl, rfl, rfl, fun _ => rfl⟩

/-- A core that waits for the line at 0x1000. -/
def fetching : Mod := { cores := [(0, { coreAt xt with fetching := some (0x1000, 0x1000) })] }

theorem witness_CoresFetchAndIssue :
    (let x : Ctx := { xt with pc := 0x800000000020 }
     2 ^ 47 ≤ (ctx (modAt x) 0).pc.toNat ∧ (core (modAt x) 0).fetching = none ∧ Settled (modAt x) 0 ∧ (ctx (modAt x) 0).waiting = none ∧ (ctx (modAt x) 0).dbl = false ∧ (ctx (modAt x) 0).mask.toNat < 3 ∧ Pushes (modAt x) 0 0x3FFFC0) ∧
    (let k := core (fetched xt 0) 0
     k.cur < 4 ∧ k.fetching = none ∧ canIssue (fetched xt 0) 0 = true ∧ xt.waiting = none ∧ xt.xbase.getLsbD 0 = false ∧ xt.pc.toNat < 2 ^ 47 ∧ (k.icache.any (fun l => l.addr == 64 * (xt.pc.toNat / 64) && !l.fails (xt.pc.getLsbD 5))) = true) ∧
    (Settled (fetched xt 0) 0 ∧ decodeBundle 0 0 = { quiet := false, slots := [] } ∧ (∃ i, bundleOf addBundle = { quiet := false, slots := [.ok i] } ∧ (issuer i).isSome = true) ∧ (core work.mod 0).icache.find? (fun l => l.addr == 64 * (xt.pc.toNat / 64)) = none) ∧
    (let m := applyUpsets fetching {}
     meshRuns m = true ∧ (core m 0).fetching = some (0x1000, 0x1000) ∧ regionOf 0x1000 = .hbm ∧ disabled m 3 = false ∧ fencedAt m 0x1000 0 = false ∧ ∃ d, m.mem.decode 0x1000 = .good d) :=
  ⟨⟨by decide +kernel, rfl, settled_of _ _ (by decide +kernel), rfl, rfl, by decide, pushes _ rfl rfl⟩, by decide +kernel,
    ⟨settled_of _ _ (by decide +kernel), by decide +kernel, ⟨.add iss 1 2 (.reg 3), by decide +kernel, rfl⟩, by decide +kernel⟩, by decide +kernel, by decide +kernel, by decide +kernel, rfl, by decide +kernel, ⟨_, rfl⟩⟩

theorem witness_CoresFetchAndIssue_bundles :
    (∀ b, b = beside crwSlot → DecodesTo (fetched xt b) 0 (bundleOf b) .s (syncFault .s 0x20 0 0) ∧ Settled (fetched xt b) 0 ∧ Pushes (fetched xt b) 0 0x3FFFC0) ∧
    (let x : Ctx := { xt with pendS := 8 }
     (∀ w f, ¬DecodesTo (fetched x (beside addBundle)) 0 (bundleOf (beside addBundle)) w f) ∧ WaitsFor (fetched x (beside addBundle)) 0 (bundleOf (beside addBundle)) 1) ∧
    (Ready (fetched xt (beside ldgSlot)) 0 (bundleOf (beside ldgSlot)) ∧ ∃ d f, ValuesTo (fetched xt (beside ldgSlot)) 0 (bundleOf (beside ldgSlot)) d f ∧ (slotNum d.slot).toNat = 0) ∧
    (let b := 2 ^ 255 + beside addBundle
     let m := fetched late b
     (bundleOf b).quiet = true ∧ settledAt (ctx m 0) 100 = 103 ∧ (∀ t, 100 ≤ t → t ≤ 103 → mustEnter (ctx (advance m 0 t) 0) = false ∧ MayGo (advance m 0 t) 0 (bundleOf b)) ∧ Ready (advance m 0 103) 0 (bundleOf b)) ∧
    (let b := beside addBundle
     let m := fetched xt b
     Ready m 0 (bundleOf b) ∧ (∀ d f, ¬ValuesTo m 0 (bundleOf b) d f) ∧ ∃ results : List (SlotDef × List (Nat × Write)), results.map Prod.fst = activeNow m 0 (bundleOf b) ∧ results.length = 2 ∧ ∀ r ∈ results, OnlyLands (issWith m 0 (bundleOf b)) r.1 r.2) := by
  refine ⟨?_, ⟨clean_of _ _ _ (by decide +kernel), Or.inl ⟨rfl, ?_⟩⟩, ⟨ready_of _ _ _ (by decide +kernel), ?_⟩, ⟨by decide +kernel, rfl, ?_, ready_of _ _ _ (by decide +kernel)⟩,
    ready_of _ _ _ (by decide +kernel), faultless_of _ _ _ (by decide +kernel), ?_⟩
  · rintro b rfl
    have h : slotsNow (fetched xt (beside crwSlot)) 0 (bundleOf (beside crwSlot)) = [defCrw _ _ _, defVadd _ _] := rfl
    refine ⟨Or.inr ⟨fun k hk => ?_, _, h ▸ List.mem_cons_self, rfl, Or.inr (Or.inl ⟨by decide +kernel, by decide +kernel, rfl⟩)⟩, settled_of _ _ (by decide +kernel), pushes xt rfl rfl⟩
    have : (bundleOf (beside crwSlot)).bad = [] := by decide +kernel
    simp [this] at hk
  · exact List.any_eq_true.mp (show (activeNow _ 0 _).any (pendingReg _) = true by decide +kernel)
  · have h : activeNow (fetched xt (beside ldgSlot)) 0 (bundleOf (beside ldgSlot)) = [defLdg _ _ _ _ _, defVadd _ _] := rfl
    exact ⟨_, _, ⟨h ▸ List.mem_cons_self, Or.inr ⟨by decide +kernel, Or.inl rfl⟩⟩, rfl⟩
  · intro t h1 h2
    have : t = 100 ∨ t = 101 ∨ t = 102 ∨ t = 103 := by omega
    rcases this with rfl | rfl | rfl | rfl <;> exact ⟨by decide +kernel, mayGo_of _ _ _ (by decide +kernel)⟩
  · obtain ⟨v, hv⟩ := add_lands (issWith (fetched xt (beside addBundle)) 0 (bundleOf (beside addBundle))) iss 1 2 (.reg 3)
    obtain ⟨w, mask, hw⟩ := vadd_lands (issWith (fetched xt (beside addBundle)) 0 (bundleOf (beside addBundle))) iss (vr 2 0)
    refine ⟨[(defAdd iss 1 2 (.reg 3), [(1, .s 1 v)]), (defVadd iss (vr 2 0), [(2, .v 1 w mask)])], rfl, rfl, ?_⟩
    intro r hr
    rcases List.mem_cons.mp hr with rfl | hr
    · exact hv
    · obtain rfl := List.mem_singleton.mp hr
      exact hw

/-- A hold in an event wait. -/
def evHold : Hold := { kind := .evwait 0 7, bundle := 0x1000, steps := 0, redirect := none, edge := none, byCrw := false, got := [], failed := none, wroteAt := none }

/-- Two threads, the first waiting, the second ready and of high priority. -/
def two : State := { pending := [], mod := { cores := [(0, { cycle := 100, nextIssue := 100, expired := true, ctxs := [(0, { xt with hold := some evHold }), (1, { Ctx.reset 1 with live := true, prio := true })] })] } }

/-- One thread, and it waits. -/
def waiting : State := at_ { xt with hold := some evHold }

theorem below4 {p : Nat → Prop} (h0 : p 0) (h1 : p 1) (h2 : p 2) (h3 : p 3) : ∀ j, j < 4 → p j := by
  intro j hj
  have : j = 0 ∨ j = 1 ∨ j = 2 ∨ j = 3 := by omega
  rcases this with rfl | rfl | rfl | rfl <;> assumption

theorem witness_CoresSwitchThreads : (NextThread two.mod 0 1 true ∧ (core two.mod 0).lastHigh < 4 ∧ (core two.mod 0).lastNormal < 4 ∧ atSwitch two.mod 0 = true ∧ (core two.mod 0).expired = true) ∧ NextThread work.mod 0 0 false ∧
    ((core waiting.mod 0).wdLimit ≠ 0 ∧ coresRun waiting.mod = true ∧ (∃ j, j < 4 ∧ (ctx waiting.mod (4 * 0 + j)).live = true) ∧
      ∀ j, j < 4 → (ctx waiting.mod (4 * 0 + j)).live = true → (ctx waiting.mod (4 * 0 + j)).halted = false ∧ stallNow waiting.mod (4 * 0 + j) ≠ 0 ∧ canEnter waiting.mod (4 * 0 + j) = false) := by
  refine ⟨⟨⟨?_, by decide +kernel, ?_⟩, by decide, by decide, by decide +kernel, rfl⟩, ⟨?_, by decide +kernel, ?_⟩, ⟨by decide, by decide +kernel, ⟨0, by decide, rfl⟩, ?_⟩⟩
  · exact ⟨fun _ => ⟨1, by decide +kernel⟩, fun _ => rfl⟩
  · rintro j ⟨⟨hj, h⟩, h2⟩
    revert h2 h
    revert j
    exact below4 (by decide +kernel) (by decide +kernel) (by decide +kernel) (by decide +kernel)
  · refine ⟨fun h => (nomatch h), ?_⟩
    rintro ⟨j, ⟨hj, h⟩, h2⟩
    revert h2 h
    revert j
    exact below4 (by decide +kernel) (by decide +kernel) (by decide +kernel) (by decide +kernel)
  · rintro j ⟨⟨hj, h⟩, h2⟩
    revert h2 h
    revert j
    exact below4 (by decide +kernel) (by decide +kernel) (by decide +kernel) (by decide +kernel)
  · decide +kernel

/-- A thread whose core issues nothing before cycle 200, with the results `l` in flight. -/
def landing (l : List Landing) : State := { pending := [], mod := { cores := [(0, { coreAt { xt with inflight := l } with nextIssue := 200 })] } }

theorem no_issue (l : List Landing) : issuesBy (landing l).mod 0 103 = false := by
  have h : (core (landing l).mod 0).nextIssue = 200 := rfl
  simp only [issuesBy, h, Bool.and_eq_false_iff, decide_eq_false_iff_not]
  omega

/-- A result for cycle 103, from a slot of a bundle issued in the cycle given. -/
def result (issued : Nat) (sl : Slot) (w : Write) : Landing := { due := 103, issued := issued, slot := sl, bundle := 0x1000, w := w }

/-- A row of a tile. -/
def rowWrite : RowWrite := { row := 15, data := 1, mask := BitVec.allOnes 512, scale := none }

/-- A load, an atomic and a PUT answered without an error, with the results `l` landed in the cycle. -/
def answered (l : List Landing) : State :=
  let x : Ctx := { xt with landed := l }
  let a (id : Nat) (kind : AccKind) (dest : AccDest) : Access := { mkAccess (modAt x) 0 .s kind 64 (.here 64) 8 with id := id, performed := true, answer := some fine, dest := dest }
  { pending := [], mod := { modAt x with accs := [a 0 .load (.s 1 .d), a 1 .amo (.s 2 .w), a 2 .load (.v 3), a 3 .put .none] } }

/-- Results of the cycle in scalar 1 and in vector 3. -/
def over1 : Landing := { due := 100, issued := 99, slot := .v, bundle := 0x1000, w := .s 1 9 }
def over3 : Landing := { over1 with w := .v 3 0 0 }

/-- A thread in a TLG or TSG of two rows, `n` steps done and the next answered, in a bundle that branches to `r`. -/
def moving (load : Bool) (n : Nat) (r : Option Word) : State :=
  let cfg : TileCfg := { rows := 2, rowBytes := 64, fmt := 0, scale := 0 }
  let y : Ctx := { xt with hold := some { kind := if load then .tlg 2 cfg 0 64 else .tsg 2 cfg 0 64, bundle := 0x1000, steps := n, redirect := r, edge := none, byCrw := false, got := [], failed := none, wroteAt := none } }
  { pending := [], mod := { modAt y with accs := [{ mkAccess (modAt y) 0 .l (if load then .tlgRow else .tsgRow) 0 (.here 0) 64 with step := n, performed := true, answer := some fine }] } }

/-- Is the next step of the thread answered without an error? -/
def stepDone (load : Bool) (n : Nat) (r : Option Word) : Bool :=
  let s := moving load n r
  match stepFind s.mod 0 n (if load then .tlgRow else .tsgRow) with
  | some a => a.present && a.performed && (s.mod.accs.find? (fun b => b.id == a.id) == some a) && (a.answer == some fine)
  | none => false

/-- A context whose thread has ended. -/
def ended : State := at_ { xt with live := false, freeing := true }

theorem witness_ResultsArrive :
    (∀ l, meshRuns (landing l).mod = true ∧ issuesBy (landing l).mod 0 103 = false ∧ (landing l).mod.mem.granules = [] ∧ ∀ j, j < 4 → j ≠ 0 → (ctx (landing l).mod j).inflight = []) ∧
    (∀ w ∈ [Write.s 31 9, .v 3 0 0, .vm 0 1 1, .p 7 true, .sd 7 1, .lps 3 1, .lpe 0 1, .lpc 3 1 true, .window 31 127, .flags 31, .tile 7 [rowWrite], .tileCfg 7 { rows := 16, rowBytes := 64, fmt := 0, scale := 0 }, .acc 3 [(255, 1)], .accTy 3 .fp64, .cr 0xD 1, .cr 0xE 1, .cr 0x12 1, .check check],
      (landed { xt with inflight := [], landed := [result 100 .s w] } w).isSome = true) ∧
    (∀ w ∈ [Write.lm [(0x7FFFF, 1), (0, 2)], .sdm [(0xFFFF, 1)]], (landed xt w).isNone = true ∧ (bytesIn 0 w).length ≠ 0) ∧ (landing []).canonical ∧
    ((result 100 .s (.s 1 9)).due = (result 100 .v (.s 1 8)).due ∧ (landKeys (Write.s 1 9)).any (fun r => (landKeys (Write.s 1 8)).contains r) = true ∧ (landed xt (.s 1 8)).isSome = true) ∧
    (∀ id ∈ [0, 1, 2], ∃ a, (answered []).mod.accs.find? (fun a => a.id == id) = some a ∧ a.answer = some fine ∧ (a.kind = .load ∨ a.kind = .amo) ∧ (ctx (answered []).mod a.thread.toNat).gen = a.gen ∧ (ctx (answered []).mod a.thread.toNat).live = true ∧
      ((∃ q f, a.dest = .s q f ∧ landedHere (answered []).mod 0 (0, q) = none) ∨ ∃ q, a.dest = .v q ∧ landedHere (answered []).mod 0 (1, q) = none)) ∧
    (meshRuns (answered [over1, over3]).mod = true ∧ ((answered [over1, over3]).mod.accs.map (fun a => a.dest)).take 3 = [.s 1 .d, .s 2 .w, .v 3] ∧ landedHere (answered [over1, over3]).mod 0 (0, 1) = some over1 ∧ landedHere (answered [over1, over3]).mod 0 (1, 3) = some over3) ∧
    (∀ load, ∀ n ∈ [0, 1], (stepDone load n none = true ∧ (ctx (moving load n none).mod 0).live = true) ∧ stepDone load n (some 0x2000) = true ∧ (ctx (moving load n (some 0x2000)).mod 0).live = true) ∧
    (∃ a, (answered []).mod.accs.find? (fun a => a.id == 3) = some a ∧ a.kind = .put ∧ a.answer = some fine) ∧
    meshRuns ended.mod = true ∧ (ctx ended.mod 0).freeing = true ∧ (∀ j, j < 4 → (ctx ended.mod (4 * (0 / 4) + j)).inflight = []) ∧ (cluster ended.mod (0 / 64)).search = none := by
  refine ⟨fun l => ⟨rfl, no_issue l, rfl, below4 (fun h => absurd rfl h) (fun _ => rfl) (fun _ => rfl) (fun _ => rfl)⟩, by decide +kernel, by decide +kernel, by unfold State.canonical; decide +kernel, by decide +kernel, ?_, by decide +kernel, by decide +kernel, ⟨_, rfl, rfl, rfl⟩, by decide +kernel, rfl, by decide +kernel, rfl⟩
  intro id h
  simp only [List.mem_cons, List.not_mem_nil, or_false] at h
  rcases h with rfl | rfl | rfl
  · exact ⟨_, rfl, rfl, Or.inl rfl, rfl, rfl, Or.inl ⟨1, .d, rfl, rfl⟩⟩
  · exact ⟨_, rfl, rfl, Or.inr rfl, rfl, rfl, Or.inl ⟨2, .w, rfl, rfl⟩⟩
  · exact ⟨_, rfl, rfl, Or.inl rfl, rfl, rfl, Or.inr ⟨3, rfl, rfl⟩⟩

/-- Core 0 with operation `op` in progress on its thread at `x`, and a save area at 0x10000. -/
def debugging (op : Nat) (x : Ctx) : State := { pending := [], mod := { cores := [(0, { coreAt x with saveBase := 0x10000, dbgBusy := true, dbgOp := some { op := BitVec.ofNat 4 op, ctx := 0 } })] } }

theorem reachable (x : Ctx) (o : Nat) : Reachable (modAt x) o := ⟨rfl, fun _ => rfl, rfl⟩

theorem witness_DebugOperations :
    (Reachable work.mod (coreBlock 0) ∧ (core work.mod 0).dbgBusy = false ∧ (ctx work.mod 0).live = true ∧ (ctx work.mod 1).live = false ∧ (ctx (at_ { xt with halted := true }).mod 0).halted = true ∧ noneLive (at_ {}).mod 0 = true ∧ noneLive work.mod 0 = false) ∧
    (meshRuns (debugging 1 xt).mod = true ∧ canHalt (debugging 1 xt).mod 0 = true ∧ ∀ j, j < 4 → (ctx (debugging 1 xt).mod (4 * 0 + j)).inflight = []) ∧
    ((∀ l ∈ [[], [7]], canSave (debugging 3 { xt with halted := true, accBad := l }).mod 0 = true ∧ (ctx (debugging 3 { xt with halted := true, accBad := l }).mod 0).live = true) ∧ (0x10000 + 0x4000 * 0) % 64 = 0 ∧ (debugging 3 { xt with halted := true }).canonical ∧ ∀ a, fencedAt (debugging 3 { xt with halted := true }).mod a 0 = false) ∧
    (isFree (debugging 4 {}).mod 0 = true ∧ (debugging 4 {}).mod.mem.check = [] ∧ ∀ a, fencedAt (debugging 4 {}).mod a 0 = false) ∧
    disabled (debugging 3 xt).mod 3 = false ∧ coresRun (debugging 2 { xt with halted := true }).mod = true ∧
    (∀ x : Ctx, x.starts = 0 → (core (debugging 5 x).mod 0).dbgOp = some { op := 5, ctx := 0 } ∧ (ctx (debugging 5 x).mod 0).starts = 0) ∧ (ctx (debugging 5 xt).mod 0).live = true ∧ (ctx (debugging 5 {}).mod 0).live = false := by
  refine ⟨⟨reachable _ _, by decide +kernel⟩, by decide +kernel, ⟨by decide +kernel, rfl, ?_, fun _ => rfl⟩, ⟨by decide +kernel, rfl, fun _ => rfl⟩, by decide +kernel, by decide +kernel, fun _ h => ⟨rfl, h⟩, rfl, rfl⟩
  unfold State.canonical; decide +kernel

/-! ## Queues and channels -/

/-- A grant of three entries. -/
def oneGrant : Grant := { ep := ⟨none, 1, 2⟩, n := 3, c0 := false, chan := 0, released := false }

/-- Core 0 with its whole store in one open queue. -/
def full : State := { pending := [], mod := { cores := [(0, { coreAt xt with queues := [(3, { qopen with depth := 2048, grants := [oneGrant] })] })] } }

theorem noRun : ∀ b, ¬ Runs full.mod 0 0 16 b := by
  intro b h
  obtain ⟨h1, h2, -, h4⟩ := h
  have h5 := h4 (3, { qopen with depth := 2048, grants := [oneGrant] }) (by simp [core, full, tblGet, tblFind]) rfl
  simp only [qopen] at h5
  have h6 : quarters (core full.mod 0) = false := by decide +kernel
  simp [h6] at h2
  omega

theorem witness_QueuesAndEndpointsOpen :
    ((qctlFields (queueAt work.mod 3) 0x40000).isOpen = true ∧ (qctlFields (queueAt work.mod 4) 0x10000).ldepth.toNat < 2 ∧ 8 < (qctlFields (queueAt work.mod 4) 0x90000).ldepth.toNat ∧ (ctx work.mod (4 * 0 + (qctlFields (queueAt work.mod 4) 0x1040000).ctx.toNat)).live = false ∧
      quarters { coreAt xt with shareStatic := true } = true) ∧
    (∀ s ∈ [work, full], (qctlFields (queueAt s.mod 4) 0x40000).isOpen = false ∧ (qctlFields (queueAt s.mod 4) 0x40000).ldepth.toNat = 4 ∧ (ctx s.mod 0).live = true ∧ quarters (core s.mod 0) = false) ∧
    (∃ b, Runs work.mod 0 0 16 b) ∧ (∀ b, ¬ Runs full.mod 0 0 16 b) ∧
    ((qctlFields (queueAt full.mod 3) 0).isOpen = true ∧ ∀ g ∈ (qctlFields (queueAt full.mod 3) 0).grants, g.ep.peer = none) ∧
    ((chctlFields ((ctx (at_ xc).mod 0).endp 0) 0).state ≠ 0 ∧ (chctlFields ((ctx (at_ xc).mod 0).endp 0) 0).chC0 = false ∧ (chctlFields ((ctx (at_ xc).mod 0).endp 0) 0).chPeer = none) ∧
    ((chctlFields ((ctx (at_ xc).mod 0).endp 2) 0x80000005).state = 0 ∧ (chctlFields ((ctx (at_ xc).mod 0).endp 2) 0x80000005).c0 = false ∧ (chctlFields ((ctx (at_ xc).mod 0).endp 2) 0x80000005).remote = true ∧
      (chctlFields ((ctx (at_ xc).mod 0).endp 2) 0x80000005).peer = (at_ xc).mod.fab.id) ∧
    (∃ k : Endpoint, k.state = 1 ∧ k.chPeer ≠ none) ∧ (ctx (at_ { xt with toll := 0 }).mod 0).toll < 4 ∧ (ctx (at_ { xt with toll := 0 }).mod 0).tollQ = [] ∧ (at_ { xt with toll := 0 }).mod.fab.floodQ = [] ∧
    tbRuns (at_ { xt with toll := 0 }).mod = true ∧ ((at_ { xt with toll := 0 }).mod.tb.slew = false ∨ (at_ { xt with toll := 0 }).mod.tb.slewLeft = 0) := by
  refine ⟨by decide +kernel, by decide +kernel, ⟨16, ⟨by decide +kernel, by decide +kernel, by decide +kernel, ?_⟩⟩, noRun, by decide +kernel, by decide +kernel, by decide +kernel, ⟨{ state := 1, chPeer := some 9 }, by decide, by decide⟩, by decide +kernel⟩
  unfold RunFree; decide +kernel

/-- An item of control traffic for queue 3 and endpoint 0 of thread 0. -/
def item (k : CtlKind) : Ctl := { id := 7, kind := k, ep := { peer := none, thread := 0, ep := 0 }, queue := 3, c0 := false, epoch := 0, count := 2, closed := false, entries := if k = .msg then [1, 2] else [], job := 0 }

/-- A module with that item in flight, its endpoint in `state`. -/
def carrying (k : CtlKind) (state : BitVec 2) : State := { pending := [], mod := { modAt { xt with eps := [(0, { state := state, chQueue := 3, grant := 4 })] } with net := [item k] } }

/-- Is the item taken, and is `p` true of the module and the item? -/
def takes (s : State) (k : CtlKind) (p : Mod → Ctl → Bool) : Bool := match takeItem s.mod k (.inFlight 7) with | some (m, _, c) => p m c | none => false

theorem witness_ControlTrafficArrives : meshRuns (carrying .greq 1).mod = true ∧ (carrying .greq 1).mod.net = [item .greq] ∧
    takes (carrying .greq 1) .greq (fun m c => !queueFenced m 3 && c.ep.peer.isNone && (queueAt m 3).isOpen) = true ∧
    takes (carrying .grant 1) .grant (fun m c => ((ctx m 0).endp 0).state == 1 && ((ctx m 0).endp 0).chQueue == c.queue && ((ctx m 0).endp 0).chPeer == none) = true ∧
    takes (carrying .rel 2) .rel (fun m _ => !queueFenced m 3 && (queueAt m 3).isOpen) = true ∧
    takes (carrying .msg 2) .msg (fun m c => !queueFenced m 3 && (queueAt m 3).isOpen && (queueAt m 3).epoch == c.epoch && decide ((queueAt m 3).count + c.entries.length ≤ (queueAt m 3).depth)) = true ∧
    takes { (carrying .msg 2) with mod := { (carrying .msg 2).mod with cores := [(0, { coreAt xt with queues := [(3, { qopen with count := 15 })] })] } } .msg (fun m c => !queueFenced m 3 && (queueAt m 3).isOpen && (queueAt m 3).epoch == c.epoch && decide ((queueAt m 3).depth < (queueAt m 3).count + c.entries.length)) = true ∧
    takes { (carrying .msg 2) with mod := { (carrying .msg 2).mod with cores := [] } } .msg (fun m _ => !queueFenced m 3 && !(queueAt m 3).isOpen) = true ∧
    ((item .msg).tiles = { item .msg with id := 8 }.tiles ∧ (item .msg).c0 = { item .msg with id := 8 }.c0 ∧ (item .msg).id ≠ 8) ∧
    (let p : Packet := { emptyPacket with type := 0x15, src := 2, word2 := 3, data := [1] }
     let x : Packet := { p with data := [2] }
     sameChannel x p = true ∧ p ∉ [x] ∧ (linkOf { (carrying .msg 2).mod with fab := { links := [(0, { rxq := [x, p] })] } } 0).rxq = [x] ++ p :: []) ∧
    takes (carrying .cret 2) .cret (fun m c => ((ctx m 0).endp 0).state == 2 && ((ctx m 0).endp 0).chQueue == c.queue) = true ∧ takes (carrying .gone 3) .gone (fun m _ => ((ctx m 0).endp 0).state == 3) = true := by decide +kernel

/-! ## Memory, caches and registers -/

/-- A module with one access `kind` of `n` bytes at `a`, and the resets `r` under way. -/
def accessing (kind : AccKind) (a n : Nat) (r : List Reset) : Mod :=
  let m : Mod := { modAt xt with rcv := { resets := r } }
  { m with accs := [{ mkAccess m 0 .s kind (BitVec.ofNat 64 a) (.here a) n with data := (List.range n).map (fun j => (BitVec.ofNat 8 j, false)) }] }

/-- The view of core 0's queues. -/
def queueView : Nat := 0x400001900000

/-- A reset of domain `d` past its drain, or in it. -/
def resetOf (d : Domain) (drains : Bool) : Reset := { d := d, draining := drains, drainAt := if drains then 100000 else 0, limitAt := 1000000, hang := false, dbg := false, escalated := false }

theorem atTarget (kind : AccKind) (a n : Nat) (r : List Reset) (hk : kind ≠ .vstore ∧ kind ≠ .tsgRow ∧ kind ≠ .framePush) (hm : accHeld (accessing kind a n r) ((accessing kind a n r).accs.headD (mkAccess {} 0 .s kind 0 (.here 0) 0)) = false) :
    ∃ k, AtTarget (accessing kind a n r) 0 k ∧ k.kind = kind ∧ k.addr = a := ⟨_, ⟨rfl, rfl, rfl, rfl, rfl, rfl, rfl, hm, hk.1, hk.2.1, hk.2.2⟩, rfl, rfl⟩

theorem witness_GlobalAccessesPerform :
    (applyUpsets (accessing .load 0 8 []) {} = accessing .load 0 8 [] ∧ meshRuns (accessing .load 0 8 []) = true ∧ (accessing .load 0 8 []).mem.check = [] ∧ (accessing .load 0 8 []).mem.granules = []) ∧
    ((∃ k, AtTarget (accessing .store 0 8 [resetOf (.stack 0) false]) 0 k ∧ k.kind = .store ∧ k.addr = 0) ∧ fencedAt (accessing .store 0 8 [resetOf (.stack 0) false]) 0 0 = true) ∧
    ((∃ k, AtTarget (accessing .load 0x600000000000 8 []) 0 k ∧ k.kind = .load ∧ k.addr = 0x600000000000) ∧ regionOf 0x600000000000 = .reserved) ∧
    ((∃ k, AtTarget (accessing .load 0x02FFFFFFFFF8 8 []) 0 k ∧ k.kind = .load ∧ k.addr = 0x02FFFFFFFFF8) ∧ regionOf 0x02FFFFFFFFF8 = .hbm ∧ (∃ q o, regionOf 0x400000000000 = .cm q o) ∧ (∃ c o, regionOf (lmAddr 2047 0x7FFFF) = .lm c o) ∧ ∃ c o, regionOf (sdmAddr 0 0) = .sdm c o) ∧
    ((∃ k, AtTarget (accessing .put 56 64 []) 0 k ∧ k.kind = .put ∧ k.addr = 56) ∧ ((accessing .put 56 64 []).accs.map (fun k => unitCount k.addr k.data.length)) = [8] ∧ 8 ≤ max 1 8 ∧ max 1 3 < 8 ∧ regionOf 56 = .hbm ∧ ∀ b ∈ (List.range 64).map (fun j => (BitVec.ofNat 8 j, false)), b.2 = false) ∧
    ((∃ k, AtTarget (accessing .amo 0 8 [resetOf (.stack 0) false]) 0 k ∧ k.kind = .amo ∧ k.addr = 0) ∧ fencedAt (accessing .amo 0 8 [resetOf (.stack 0) false]) 0 0 = true) ∧
    ((∃ k, AtTarget (accessing .amo 0x600000000000 8 []) 0 k ∧ k.kind = .amo ∧ k.addr = 0x600000000000) ∧ regionOf 0x600000000000 ≠ .hbm ∧ ∀ q o, regionOf 0x600000000000 ≠ .cm q o) ∧
    (∀ off ∈ [0x7FF8, 0x8000, 0x8008, 0x87F0, 0x8800, 0x8FF8, 0x9000, 0x9008, 0xAFF0, 0xB000], regionOf (queueView + off) = .queueView 0 off ∧ off % 8 = 0 ∧ fencedAt (accessing .store (queueView + off) 8 []) (queueView + off) 0 = false) ∧
    (∃ k, AtTarget (accessing .store (queueView + 0x8000) 8 []) 0 k ∧ k.kind = .store ∧ k.addr = queueView + 0x8000) ∧ (∀ op ∈ [1, 2], (BitVec.ofNat 64 (op * 2 ^ 62)).extractLsb' 62 2 = BitVec.ofNat 2 op) ∧
    ((∃ k, AtTarget (accessing .amo 56 8 []) 0 k ∧ k.kind = .amo ∧ k.addr = 56) ∧ 56 % 64 + 8 ≤ 64 ∧ ∀ op, op < 10 → (atomicValue op 64 0 1 0).isSome = true) ∧
    (∃ a, (accessing .store 0 8 []).accs.find? (fun k => k.id == 0) = some a ∧ a.kind = .store) ∧
    (let mem : Memory := { cells := [(0x100000, 2), (0x100001, 0x80), (0x8008, 1), (0x100008, 1)] }
     (0x100001#64).getLsbD 0 = true ∧ (0x4000005#64).toNat < 2 ^ 47 ∧ ofBytes (mem.bytes (0x100000 + 8 * (0x4000005 / 2 ^ 30)) 8) % 4 = 2 ∧ ofBytes (mem.bytes (0x100000 + 8 * (0x40000005 / 2 ^ 30)) 8) % 4 = 1 ∧ ofBytes (mem.bytes (0x8000 + 8 * (0x200005 / 2 ^ 21 % 512)) 8) % 4 = 1 ∧
       tlbFind (core work.mod 0).tlb (tagBase 0x100001) 0x200005 = none ∧ tlbFind (cluster work.mod 0).tlb2 (tagBase 0x100001) 0x200005 = none) := by
  refine ⟨⟨rfl, by decide +kernel⟩, ⟨atTarget _ _ _ _ (by decide) (by decide +kernel), by decide +kernel⟩, ⟨atTarget _ _ _ _ (by decide) (by decide +kernel), by decide +kernel⟩,
    ⟨atTarget _ _ _ _ (by decide) (by decide +kernel), by decide +kernel, ⟨0, 0, by decide +kernel⟩, ⟨2047, 0x7FFFF, by decide +kernel⟩, ⟨0, 0, by decide +kernel⟩⟩,
    ⟨atTarget _ _ _ _ (by decide) (by decide +kernel), by decide +kernel, by decide, by decide, by decide +kernel, fun b hb => by obtain ⟨j, -, rfl⟩ := List.mem_map.mp hb; rfl⟩,
    ⟨atTarget _ _ _ _ (by decide) (by decide +kernel), by decide +kernel⟩, ⟨atTarget _ _ _ _ (by decide) (by decide +kernel), by decide +kernel, by intro q o h; exact absurd h (by simp [show regionOf 0x600000000000 = .reserved by decide +kernel])⟩,
    by decide +kernel, atTarget _ _ _ _ (by decide) (by decide +kernel), by decide +kernel, ⟨atTarget _ _ _ _ (by decide) (by decide +kernel), by decide, by decide +kernel⟩, ⟨_, rfl, rfl⟩, by decide +kernel⟩

/-- Granules with each kind of mark, and a line with one symbol in error. -/
def marked (g : Granule) : State := { pending := [], mod := { modAt xt with mem := { granules := [(cmAddr 1 64, g)] }, hq := { journalClosed := false } } }
def upset : Mod := { modAt xt with mem := ({} : Memory).upset 64 35 0xFFFF }

/-- A load that waits for the fill of the caching state. -/
def waited : State := { cached with mod := { cached.mod with accs := [{ mkAccess cached.mod 0 .s .load 136 (.here 136) 8 with viaFill := true, dest := .s 1 .d }] } }

/-- Eight lines of the set of the fill, all locked or not; the fill installs unless it is closed. -/
def crowded (lock : Bool) (closed : Option Nat) : Mod :=
  { cores := [(0, { coreAt xt with dcache := (List.range 8).map (fun k => { line with addr := 128 + 64 * 1024 * (k + 1), lock := lock }), dfills := [{ fill with closed := closed }] })] }

theorem witness_CachesAndScrubbers :
    (∀ lock ∈ [true, false], ∀ closed ∈ [none, some 3], let m := crowded lock closed
     fillFind m 0 128 = some { fill with closed := closed } ∧ disabled m 3 = false ∧ dcFind m 0 128 = none ∧ ((core m 0).dcache.filter (fun k => dcSet k.addr == dcSet 128)).length = 8 ∧
       (((core m 0).dcache.filter (fun k => dcSet k.addr == dcSet 128)).find? (fun k => !k.lock)).isNone = lock ∧ fillLoads m 0 { fill with closed := closed } = []) ∧
    disabled (applyUpsets waited.mod {}) 3 = false ∧
    (meshRuns waited.mod = true ∧ fillFind (applyUpsets waited.mod {}) 0 128 = some fill ∧ 128 % 64 = 0 ∧ regionOf 128 = .hbm ∧ fencedAt (applyUpsets waited.mod {}) 128 0 = false ∧ (∃ d, (applyUpsets waited.mod {}).mem.decode 128 = .good d) ∧
      fillHeld (applyUpsets waited.mod {}) 0 fill (fillLoads (applyUpsets waited.mod {}) 0 fill) = false ∧ (∃ a, fillLoads (applyUpsets waited.mod {}) 0 fill = [a] ∧ (applyUpsets waited.mod {}).accs.find? (fun k => k.id == a.id) = some a) ∧ fill.closed = none ∧
      (dcFind (applyUpsets waited.mod {}) 0 128).isSome = true) ∧
    Reachable work.mod (coreBlock 0 + 0x18) ∧
    (scrubbed 1 (cmAddr 1 64) = true ∧ cmAddr 1 64 % 8 = 0 ∧ tblFind (marked .ce).mod.mem.granules (cmAddr 1 64) = some .ce ∧ tblFind (marked .ue).mod.mem.granules (cmAddr 1 64) = some .ue ∧ (marked .ue).mod.hq.journalClosed = false ∧ tblFind work.mod.mem.granules (cmAddr 1 64) = none) ∧
    (portOf upset 64).1 < 128 ∧ regionOf 64 = .hbm ∧ (match upset.mem.decode 64 with | .corrected _ => true | _ => false) = true := by
  exact ⟨by decide +kernel, by decide +kernel, ⟨by decide +kernel, by decide +kernel, rfl, by decide +kernel, by decide +kernel, ⟨_, rfl⟩, by decide +kernel, ⟨_, rfl, by decide +kernel⟩, rfl, by decide +kernel⟩, reachable _ _, by decide +kernel, by decide +kernel, by decide +kernel, by decide +kernel⟩

/-- A whole write of a register. -/
def whole (v : Word) : RegAccess := { at_ := 0, size := 8, value := v }

theorem aoReachable (x : Ctx) (o : Nat) : AoReachable (modAt x) o := ⟨rfl, rfl, rfl⟩

theorem witness_RegistersAreWritten :
    (let m : Mod := { cores := [(0, { coreAt xt with inReset := true })] }
     meshRuns m = true ∧ stewardReaches m 0 = true ∧ (core m 0).inReset = true ∧ m.sec.stage ≠ 3 ∧ dfspAt 0xA00008 = false ∧ true ∉ m.bridgeDown ∧ false ∉ m.bridgeDown) ∧
    (let m : Mod := { modAt xt with bridgeDown := [true, false] }
     bridgeFor m (0x7FFFF8 / 0x10000) = none ∧ bridgeFor m 0 = none ∧ (!true) ∈ m.bridgeDown) ∧
    (portLive work.mod true = true ∧ 0xFFFFFC < 0x1000000 ∧ ¬ ((4 = 8 ∧ 0xFFFFFC % 8 = 0) ∨ (4 = 4 ∧ 0xFFFFFC % 8 = 0))) ∧
    (ctlServed { work.mod with rcv := { resets := [resetOf .module false] } } .firmware 0xA00008 = true ∧ fencedAt { work.mod with rcv := { resets := [resetOf .module false] } } (ctlAddr 0x20) 0 = true) ∧
    (ctlServed work.mod (.host false) (coreBlock 2047 + 8) = true ∧ fencedAt work.mod (ctlAddr (coreBlock 2047 + 8)) 0 = false ∧ ctlServed work.mod (.host false) 0xA00008 = true ∧ fencedAt work.mod (ctlAddr 0xA00008) 0 = false ∧ submitPort 0xA0000C = none ∧ commitPort 0xA0000C = false ∧ ¬ ((8 = 8 ∧ 0xA0000C % 8 = 0) ∨ (8 = 4 ∧ 0xA0000C % 4 = 0))) ∧
    (ctlServed work.mod (.thread 0) 0x20 = true ∧ fencedAt work.mod (ctlAddr 0x20) 0 = false) ∧ wholeWrite (whole 5) = true ∧ Reachable work.mod (coreBlock 0 + 0x500) ∧
    AoReachable work.mod 0xB00000 ∧ AoReachable work.mod 0xA00000 ∧ AoReachable work.mod (ringBlock true 4095 + 8) ∧ AoReachable work.mod 0x840010 ∧ (whole 0x8000000000000000).value.getLsbD 63 = true ∧ badLog 0 = true ∧ badLog 17 = true ∧ badLog 16 = false := by
  refine ⟨by decide +kernel, by decide +kernel, by decide +kernel, by decide +kernel, by decide +kernel, by decide +kernel, rfl, reachable _ _, aoReachable _ _, aoReachable _ _, aoReachable _ _, aoReachable _ _, by decide, by decide, by decide, by decide⟩

/-! ## Stream engines -/

/-- A descriptor of operation `op` of thread 1 with 1,000 destination bytes. -/
def desc (op : Nat) : SDesc := { seq := 5, words := [BitVec.ofNat 64 (op + 2 ^ 32), 0x1000, 0x2000, 1000, 0, 0x1122334455667788, 0, 0], job := 0, xbase := 0, rnd := 0, thread := some 1 }

/-- A multicast that waits for its laggards. -/
def mcast : SDesc := { seq := 5, words := [0x100000005, 0, 0, 100, 0, 0xF, 0, 0], job := 0, xbase := 0, rnd := 0, thread := some 1, attached := [0, 1, 2, 3], acks := [(0, [0, 1, 2, 3, 4, 5, 6, 7, 8]), (1, [9])], heldAt := some 100 }

/-- A chunk of four bytes, to HBM or to receiver 2. -/
def chunk (w : List Nat) : Chunk :=
  { tag := 9, queue := 1, seq := 5, index := 0, src := 0x5000, dst := 0x4000100, reads := [], parts := [{ off := 0, n := 4, peer := none, at_ := 0x3000 }], data := [(1, false), (2, false), (3, false), (4, false)], ready := true, failed := false, waits := w }

/-- Cluster 0 with those in queue 1. -/
def streaming (d : List SDesc) (c : List Chunk) : State := { pending := [], mod := { modAt xt with clusters := [(0, { dqs := [(1, d)], lastServed := 3, chunks := c })] } }

/-- A VSTG of thread 1 to its own port. -/
def submitting : State :=
  { pending := [], mod := { modAt xt with accs := [{ mkAccess (modAt xt) 1 .t .vstore 0x700000001200 (.here 0x700000001200) 64 with data := List.replicate 64 (0, false) }] } }

/-- A descriptor of operation `op` whose next chunk is read from HBM. -/
def copying (op : Nat) : SDesc := { desc op with words := [BitVec.ofNat 64 (op + 2 ^ 32), 0x1000, if op = 5 then 0 else 0x2000, 1000, 0, if op = 5 then 0xF else 0x3000, 0, 0], attached := if op = 5 then [0, 1, 2, 3] else [] }

/-- Do the sources and the destinations of its next chunk lie where they are plain memory of this module? -/
def plainParts (m : Mod) (d : SDesc) : Bool :=
  let e := withIndex m d
  let n := e.chunkEnd - e.off
  (match (sourceParts m 0 e (e.srcRow + BitVec.ofNat 64 e.off) n).2 with
    | .inr p => p.all (fun x => x.onMesh && regionOf x.at_ == .hbm) && decide (0 < p.length ∧ (p.map (fun x => unitCount x.at_ x.n)).foldl (· + ·) 0 ≤ max 1 600)
    | .inl _ => false) &&
  (match (destParts m 0 e (e.dstRow + BitVec.ofNat 64 e.off) n).2 with | .inr p => p.all (fun x => x.peer.isNone) | .inl _ => false)

theorem witness_StreamEnginesMoveChunks_sources : ∀ op ∈ [1, 2, 3, 5],
    let m := (streaming [copying op] []).mod
    coresRun m = true ∧ freeTag m 0 = some 0 ∧ nextQueue m 0 = some 1 ∧ nextDesc m 0 1 = some (copying op) ∧ inQueue m 0 1 = [copying op] ∧ readsAsked m 0 0 = false ∧ (copying op).op = op ∧ (copying op).conv = false ∧ (copying op).xbase.getLsbD 0 = false ∧
      (copying op).slipHeld = false ∧ (copying op).idx = none ∧ (indexAt (copying op)).toNat < 2 ^ 47 ∧ regionOf (indexAt (copying op)).toNat = .hbm ∧ plainParts m (copying op) = true ∧ disabled m 3 = false ∧ m.mem.check = [] := by decide +kernel

theorem witness_StreamEnginesMoveChunks :
    (let d : SDesc := { desc 4 with words := [BitVec.ofNat 64 (4 + 2 ^ 31 + 2 ^ 29 + 2 ^ 32), 0x1000, 0x2000, 1000, 0, 5, 0, 0x4000], row := 2 }
     let m := (streaming [d] []).mod
     inQueue m 0 1 = [d] ∧ descDone m 0 1 d = true ∧ d.hasRec = true ∧ d.bar = true ∧ d.recSent = false ∧ d.xbase.getLsbD 0 = false ∧ (d.words.getD 7 0).toNat < 2 ^ 47 ∧ (d.words.getD 7 0).toNat % 32 = 0 ∧ regionOf (d.words.getD 7 0).toNat = .hbm ∧ (ctx m 1).hold = none) ∧
    (∃ a, submitting.mod.accs.find? (fun k => k.id == 0) = some a ∧ a.submitsDesc = true ∧ a.unitsDone = 0 ∧ mayPerform submitting.mod a = true ∧ fencedAt submitting.mod a.addr a.issuedAt = false) ∧
    (let m := (streaming [desc 4] []).mod
     coresRun m = true ∧ freeTag m 0 = some 0 ∧ nextQueue m 0 = some 1 ∧ nextDesc m 0 1 = some (desc 4) ∧ inQueue m 0 1 = [desc 4] ∧ readsAsked m 0 0 = false ∧ (desc 4).op = 4 ∧ (desc 4).conv = false ∧ (desc 4).xbase.getLsbD 0 = false ∧ (desc 4).slipHeld = false ∧
       (match (destParts m 0 (desc 4) ((desc 4).dstRow + BitVec.ofNat 64 (desc 4).off) ((desc 4).chunkEnd - (desc 4).off)).2 with | .inr p => p.all (fun x => x.peer.isNone) | .inl _ => false) = true) ∧
    (let m := (streaming [desc 4] [chunk []]).mod
     (cluster m 0).chunks.find? (fun k => k.tag == 9) = some (chunk []) ∧ writesAsked m 0 9 = false ∧ regionOf 0x3000 = .hbm ∧ (∀ b ∈ (chunk []).data, b.2 = false) ∧ (∀ d ∈ inQueue m 0 1, d.op ≠ 5) ∧ unitCount 0x3000 4 ≤ max 1 1 ∧ max 1 1 < unitCount 0x3000 20 ∧ disabled m 3 = false) ∧
    (let d : SDesc := { desc 4 with row := 2 }
     let m := (streaming [d, desc 4] []).mod
     inQueue m 0 1 = [d, desc 4] ∧ descDone m 0 1 d = true ∧ d.hasRec = false ∧ d.bar = false ∧ (ctx m 1).starts = d.starts ∧ (ctx m 1).hold = none) ∧
    (let m := (streaming [mcast] [chunk [2]]).mod
     (cluster m 0).chunks.find? (fun k => k.tag == 9) = some (chunk [2]) ∧ 2 ∈ (chunk [2]).waits ∧ inQueue m 0 1 = [mcast] ∧ mcast.seq = (chunk [2]).seq ∧ (chunk [2]).dst.toNat % 0x2000000 + 4 ≤ 0x1000000 ∧ fencedAt m (cmAddr 2 ((chunk [2]).dst.toNat % 0x2000000)) 0 = false ∧ tblGet 0 (chunk [2]).mcDone 2 = 0 ∧ unitCount (cmAddr 2 ((chunk [2]).dst.toNat % 0x2000000)) 4 ≤ max 1 1 ∧ max 1 1 < unitCount (cmAddr 2 0) 20) ∧
    (cluster (streaming [mcast] []).mod 0).mcTimeout.toNat ≠ 0 ∧ mcast.heldAt = some 100 ∧ (mcast.words.getD 0 0).getLsbD 30 = false ∧ (0x140000005#64).getLsbD 30 = true := by
  exact ⟨by decide +kernel, ⟨_, rfl, by decide +kernel, rfl, by decide +kernel, by decide +kernel⟩, by decide +kernel⟩

/-! ## The fabric -/

/-- A module of a torus of 4 × 2 with links 0 and 8 at `k`, link 16 DOWN, and no job. -/
def fabric (k : Link) : State := { pending := [], mod := { modAt xt with fab := { en := true, id := 0, sizes := 0x0103, links := [(0, k), (8, k), (16, { state := 0 })] }, hq := { journalClosed := false } } }

/-- An UP link, one that waits for two acknowledgements, and one at the limits. -/
def up : Link := { state := 2, lanes := 0xF }
def sending : Link := { up with window := [(254, [1]), (255, [2]), (0, [3])] }
def failing : Link := { sending with replays := 16, uceMs := 17 }
/-- One that has been replayed once less often. -/
def replayed : Link := { sending with replays := 15 }

/-- A codeword with its CRC, or with another. -/
def framed (kind : Nat) (seq : Byte) (errors : Nat) (good : Bool) (body : List Byte) : Codeword :=
  let c := crc32 (toBytes 3 (cwHeader (BitVec.ofNat 4 kind) seq 0) ++ body)
  { symbolErrors := errors, kind := BitVec.ofNat 4 kind, seq := seq, ack := 0, bytes := body ++ toBytes 4 (if good then c else c + 1) }

/-- A codeword of zeros, and the bytes of one that begins with an LCTRL which returns a credit on every virtual channel. -/
def zeros (kind : Nat) (seq : Byte) (errors : Nat) (good : Bool) : Codeword := framed kind seq errors good (List.replicate 636 0)
def ctlBytes : List Byte := [0x30, 1] ++ (List.range 10).flatMap (fun _ => [1, 0]) ++ List.replicate 614 0

theorem crcShift_lt (n : Nat) : ∀ c, c < 2 ^ 32 → crcShift n c < 2 ^ 32 := by
  induction n with
  | zero => exact fun _ h => h
  | succ n ih =>
    intro c h
    simp only [crcShift]
    split
    · exact ih _ (Nat.xor_lt_two_pow (by omega) (by decide))
    · exact ih _ (by omega)

theorem crcFold_lt (d : List Byte) : ∀ c, c < 2 ^ 32 → d.foldl (fun c b => crcShift 8 (c ^^^ b.toNat)) c < 2 ^ 32 := by
  induction d with
  | nil => exact fun _ h => h
  | cons b t ih => exact fun c h => ih _ (crcShift_lt 8 _ (Nat.xor_lt_two_pow h (by have := b.isLt; omega)))

theorem crc32_lt (d : List Byte) : crc32 d < 2 ^ 32 := Nat.xor_lt_two_pow (crcFold_lt d _ (by decide)) (by decide)

theorem crc_checks (body hdr : List Byte) (hb : body.length = 636) (good : Bool) :
    (crc32 (hdr ++ sliceBytes (body ++ toBytes 4 (if good then crc32 (hdr ++ body) else crc32 (hdr ++ body) + 1)) 0 636) ==
      ofBytes (sliceBytes (body ++ toBytes 4 (if good then crc32 (hdr ++ body) else crc32 (hdr ++ body) + 1)) 636 4)) = good := by
  have h1 : ∀ t : List Byte, sliceBytes (body ++ t) 0 636 = body := fun t => by
    rw [sliceBytes, List.drop_zero, List.append_assoc, List.take_left' hb]
  have h2 : ∀ c, sliceBytes (body ++ toBytes 4 c) 636 4 = toBytes 4 c := fun c => by
    rw [sliceBytes, List.drop_left' hb, List.take_left' (show (toBytes 4 c).length = 4 from rfl)]
  have h3 : ∀ c, ofBytes (toBytes 4 c) = c % 2 ^ 32 := fun c => by simp only [toBytes, ofBytes, BitVec.toNat_ofNat]; omega
  have h := crc32_lt (hdr ++ body)
  rw [h1, h2, h3]
  generalize crc32 (hdr ++ body) = c at h ⊢
  cases good
  · simp only [beq_eq_false_iff_ne, ne_eq, Bool.false_eq_true, if_false]; omega
  · simp only [beq_iff_eq, if_true]; omega

theorem framed_crc (kind : Nat) (seq : Byte) (errors : Nat) (good : Bool) (body : List Byte) (h : body.length = 636) : cwCrcOk (framed kind seq errors good body) = good := by
  unfold cwCrcOk framed
  exact crc_checks body (toBytes 3 (cwHeader (BitVec.ofNat 4 kind) seq 0)) h good

theorem zeros_crc (kind : Nat) (seq : Byte) (errors : Nat) (good : Bool) : cwCrcOk (zeros kind seq errors good) = good := framed_crc _ _ _ _ _ List.length_replicate

/-- A write of four bytes to HBM by module 2. -/
def wrPacket : Packet := { emptyPacket with src := 2, dst := 0, type := 1, cls := 2, len := 4, word2 := 0xFFC, data := [1, 2, 3, 4], ftag := 9, job := 7, epoch := 3 }

theorem framed_body (kind : Nat) (seq : Byte) (errors : Nat) (good : Bool) (body : List Byte) (h : body.length = 636) : sliceBytes (framed kind seq errors good body).bytes 0 636 = body := by
  unfold framed sliceBytes
  rw [List.drop_zero, List.append_assoc, List.take_left' h]

theorem zeros_parse : parseStream 636 (sliceBytes (zeros 0 0 0 true).bytes 0 636) = (([] : List Packet).map Sum.inl, []) := by
  rw [zeros, framed_body _ _ _ _ _ List.length_replicate]
  decide +kernel

theorem ctl_parse : parseStream 636 (sliceBytes (framed 0 0 0 true ctlBytes).bytes 0 636) = ([Sum.inr (ctlBytes.take 32)], []) := by
  rw [framed_body _ _ _ _ _ (by decide +kernel)]
  decide +kernel

theorem witness_LinksKeepTheirStreams :
    PacketOk wrPacket ∧ PacketOk { emptyPacket with type := 0x10, cls := 3 } ∧ (linkOf (fabric up).mod 0).state = 2 ∧ (fabric up).mod.now < (linkOf (fabric up).mod 0).uceFrom + 1000000 ∧ 15 < (zeros 0 0 16 true).symbolErrors ∧
    ((zeros 1 0 15 false).symbolErrors ≤ 15 ∧ (zeros 1 0 15 false).kind.toNat ≤ 4 ∧ cwCrcOk (zeros 1 0 15 false) = false) ∧
    (cwCrcOk (zeros 0 1 15 true) = true ∧ (linkOf (fabric up).mod 0).window = [] ∧ (zeros 0 1 15 true).seq ≠ (linkOf (fabric up).mod 0).rxNext) ∧
    (cwCrcOk (zeros 2 0 0 true) = true ∧ (zeros 2 0 0 true).seq = (linkOf (fabric up).mod 0).rxNext ∧ (linkOf (fabric up).mod 0).discarding = false ∧ parseStream 636 (sliceBytes (zeros 0 0 0 true).bytes 0 636) = (([] : List Packet).map Sum.inl, [])) ∧
    (cwCrcOk (framed 0 0 0 true ctlBytes) = true ∧ parseStream 636 (sliceBytes (framed 0 0 0 true ctlBytes).bytes 0 636) = ([Sum.inr (ctlBytes.take 32)], []) ∧ (ctlBytes.take 32).getD 1 0 = 1) ∧
    portIdle (linkOf (fabric up).mod 0) ∧ portIdle (linkOf (fabric sending).mod 8) ∧ (1 : BitVec 2).toNat < (2 : BitVec 2).toNat ∧
    ((linkOf (fabric sending).mod 8).txq = [] ∧ (linkOf (fabric sending).mod 8).window = [(254, [1])] ++ (255, [2]) :: (0, [3]) :: [] ∧ (∀ x ∈ [((254 : Byte), ([1] : List Byte))], x.1 ≠ 255) ∧ (linkOf (fabric replayed).mod 8).replays < 16) ∧
    ((linkOf (fabric failing).mod 0).txq = [] ∧ (∀ r ∈ (fabric failing).mod.rcv.resets, domainIn (.link 0) r.d = false) ∧ (linkOf (fabric failing).mod 0).window ≠ [] ∧ 16 ≤ (linkOf (fabric failing).mod 0).replays ∧ (fabric failing).mod.fab.uceLimit.toNat < (linkOf (fabric failing).mod 0).uceMs) ∧
    ((linkOf (fabric { state := 1 }).mod 0).state = 1 ∧ mayTrain (fabric { state := 1 }).mod 0 = true) ∧
    ((linkOf (fabric up).mod 0).lanes = 0xF ∧ (linkOf (fabric { up with t1 := some 0 }).mod 0).t1 = some 0) ∧
    ((fabric up).mod.fab.root = false ∧ 0 / 8 = (fabric up).mod.fab.parent.toNat ∧ ∀ j, j < 0 % 8 → (linkOf (fabric up).mod (0 - 0 % 8 + j)).state ≠ 2) ∧
    (∃ t2 t3 : Int, (halfOf ((t2 - 0) - (0 - t3))).natAbs ≤ 16 * (fabric up).mod.tb.stepmin.toNat) ∧ (∃ t2 t3 : Int, 16 * (fabric up).mod.tb.stepmin.toNat < (halfOf ((t2 - 0) - (0 - t3))).natAbs) ∧
    (fabric up).mod.tb.exchanged = false ∧ jobsInStep (fabric up).mod = [] := by
  refine ⟨by unfold PacketOk; decide +kernel, by unfold PacketOk; decide +kernel, by decide +kernel, by decide +kernel, by decide +kernel, ⟨by decide, by decide, zeros_crc _ _ _ _⟩, ⟨zeros_crc _ _ _ _, by decide +kernel, by decide⟩, ⟨zeros_crc _ _ _ _, by decide +kernel, rfl, zeros_parse⟩, ⟨framed_crc _ _ _ _ _ (by decide +kernel), ctl_parse, rfl⟩,
    by unfold portIdle; decide +kernel, by unfold portIdle; decide +kernel, by decide, by decide +kernel, by decide +kernel, by decide +kernel, by decide +kernel, by decide +kernel,
    ⟨0, 0, by decide +kernel⟩, ⟨1000000, 1000000, by decide +kernel⟩, by decide +kernel⟩

/-- A module whose job 7 is open at epoch 3, module 2 its member, with packet `p` at the receiver of link 0. -/
def receiving (p : Packet) (r : List Reset) : State :=
  { pending := [], mod := { modAt xt with fab := { en := true, id := 0, sizes := 0x0103, links := [(0, { up with rxq := [p] }), (8, up), (16, { state := 0 })] }, rcv := { resets := r }, mem := { cells := [(0x8000, 2)] }, hq := { journalClosed := false, jobs := [(7, { epoch := 3, xbase := 0, stackBase := 0, stackBytes := 0, members := 0x8000, count := 1 })] } } }

/-- An access sent as the request of a tag. -/
def awaiting : State :=
  let a : Access := { mkAccess (modAt xt) 0 .s .store 64 (.peer 2 64) 8 with sent := true }
  { pending := [], mod := { modAt xt with accs := [a], fab := { en := true, id := 0, sizes := 0x0103, reqs := [{ die := 0, ftag := 9, owner := .access 0, at_ := 5 }], links := [(0, { up with txq := [({ wrPacket with src := 0, dst := 2 }, 3)] })] } } }

/-- A flood of module 9. -/
def floodOf (type : Byte) (w : Word) : Packet := { emptyPacket with src := 2, type := type, job := 7, epoch := 3, word2 := w }

/-- A module with an entry of FAB_DOWN for subject 9. -/
def withDown : State := { pending := [], mod := { (receiving wrPacket []).mod with fab := { (receiving wrPacket []).mod.fab with down := [(0, downEntry 9 3 5)] } } }

/-- A write of twelve bytes across two units, and a module in which its first unit has been performed and `got` read. -/
def long : Packet := { wrPacket with len := 12, word2 := 0xFF4, data := List.replicate 12 7 }
def halfway (got : List (Byte × Bool)) : State :=
  let s := receiving long []
  { s with mod := { s.mod with fab := { s.mod.fab with parts := [{ link := 0, p := long, done := 1, got := got }] } } }

theorem witness_PacketsArePerformed :
    applyUpsets (receiving wrPacket []).mod {} = (receiving wrPacket []).mod ∧ (meshRuns (receiving wrPacket []).mod = true ∧ wrPacket.type = 1 ∧ wrPacket.dst = (receiving wrPacket []).mod.fab.id) ∧
    ((receiving wrPacket []).mod.fab.parts.any (fun x => x.p == wrPacket) = false ∧ disabled (receiving wrPacket []).mod 3 = false ∧ disabled { (receiving wrPacket []).mod with sec := { degraded := 4 } } 3 = true ∧ isRegister 0x700000000000 = true ∧ wrPacket.poison = false) ∧
    TurnOf (receiving long []).mod 0 long 0xFF4 12 1 0 0xFF4 0xFF8 False ∧ TurnOf (halfway []).mod 0 long 0xFF4 12 1 1 0xFF8 0x1000 True ∧ (∀ b ∈ (partOfPacket (halfway [(5, false)]).mod 0 long).got, b.2 = false) ∧
    ((receiving wrPacket [resetOf .module true]).mod.rcv.resets.any (fun r => r.d == .module) = true ∧ staleTags (receiving wrPacket []).mod 7 2 = true) ∧
    (Requests (receiving wrPacket []).mod wrPacket 1 ∧ Requests (receiving { wrPacket with type := 2 } []).mod { wrPacket with type := 2 } 2 ∧ Requests (receiving { wrPacket with type := 3, op := 0x19 } []).mod { wrPacket with type := 3, op := 0x19 } 3) ∧
    (0xFFC % 4096 + 4 ≤ 4096 ∧ fencedAt (receiving wrPacket [resetOf (.stack 0) false]).mod 0xFFC 0 = true ∧ regionOf 0x600000000000 = .reserved ∧ regionOf 0xFFC = .hbm ∧ fencedAt (receiving wrPacket []).mod 0xFFC 0 = false ∧ (receiving wrPacket []).mod.mem.check = [] ∧ (receiving wrPacket []).mod.mem.wf = true) ∧
    (∀ x y, regionOf 0xFFC ≠ .hostWindow x y) ∧ ((atomicValue (0x19 % 16) 32 0 1 0).isSome = true ∧ (0x19 : Nat) / 16 ≤ 1 ∧ 0x19 % 16 < 10 ∧ 0xFFC % 4 = 0) ∧
    (awaiting.mod.fab.reqs.find? (fun x => x.die == 0 && x.ftag == 9) = some { die := 0, ftag := 9, owner := .access 0, at_ := 5 } ∧ awaiting.mod.fab.waiting.find? (fun x => x.2.k == 0) = none ∧ (awaiting.mod.accs.find? (fun k => k.id == 0)).isSome = true) ∧
    (nextHop (receiving wrPacket []).mod 2 0 3 0 0 = some (0, false) ∧ isFlood { wrPacket with dst := 3 } = false ∧ 8 * (2 * 0 + 1) + 0 ≠ 0 ∧ (linkOf (receiving wrPacket []).mod 8).state = 2) ∧ portFree (linkOf (receiving wrPacket []).mod 8) { wrPacket with dst := 3 } ∧
    (nextHop (receiving wrPacket []).mod 2 0 4 0 0 = some (1, true) ∧ (linkOf (receiving wrPacket []).mod 16).state ≠ 2 ∧ wrPacket.src ≠ 0) ∧
    (linkOf awaiting.mod 0).txq = [({ wrPacket with src := 0, dst := 2 }, 3)] ∧
    (∀ ty ∈ [(0x20 : Byte), 0x21, 0x22, 0x23], NewFlood (receiving wrPacket []).mod 0 (floodOf ty 0) ty) ∧
    (tblFind (receiving wrPacket []).mod.hq.jobs 7 = some { epoch := 3, xbase := 0, stackBase := 0, stackBytes := 0, members := 0x8000, count := 1 } ∧ isMemberOf (receiving wrPacket []).mod { epoch := 3, xbase := 0, stackBase := 0, stackBytes := 0, members := 0x8000, count := 1 } 2 = true) ∧
    (floodKey (floodOf 0x22 0) ∈ (keysOf (addKey (receiving wrPacket []).mod 0 (floodKey (floodOf 0x22 0))) 0).map FloodEntry.key ∧ keysOf (addKey (receiving wrPacket []).mod 0 (floodKey (floodOf 0x22 0))) 0 ≠ []) ∧
    ((tblGet 0 withDown.mod.fab.down 0).getLsbD 63 = true ∧ (tblGet 0 withDown.mod.fab.down 0).extractLsb' 0 16 = (0x1053000900000000#64).extractLsb' 32 16 ∧ (tblGet 0 withDown.mod.fab.down 0).extractLsb' 48 4 = (0x1053000900000000#64).extractLsb' 48 4 ∧ (0x1053000900000000#64).getLsbD 60 = true ∧
      (tblGet 0 work.mod.fab.down 63).getLsbD 63 = false ∧ (0x0013000900000000#64).extractLsb' 52 8 ≠ 0) ∧
    ((fabric up).mod.fab.en = true ∧ (2 : BitVec 4) ∉ (fabric up).mod.fab.lost ∧ (∀ k, k < 8 → (linkOf (fabric up).mod (8 * 2 + k)).state = 0 ∨ (linkOf (fabric up).mod (8 * 2 + k)).state = 1) ∧ (fabric up).mod.fab.resetRoadblocks = [] ∧ (fabric up).mod.hq.jobs = []) := by
  unfold TurnOf Requests portFree portIdle NewFlood
  refine ⟨rfl, by decide +kernel, by decide +kernel, ⟨Or.inl ⟨rfl, rfl⟩, by decide +kernel⟩, ⟨Or.inr ⟨by decide, _, rfl, rfl⟩, by decide +kernel⟩, by decide +kernel, ?_⟩
  refine ⟨by decide +kernel, by decide +kernel, by decide +kernel, fun x y h => ?_, by decide +kernel, by decide +kernel, by decide +kernel, by decide +kernel, ?_⟩
  rotate_left
  · exact ⟨by decide +kernel, by decide +kernel, by decide +kernel, by decide +kernel⟩
  have : regionOf 0xFFC = .hbm := by decide +kernel
  rw [this] at h; cases h

/-! ## The host interface -/

/-- A completion entry owed on ring 2 of port 0. -/
def owes (old : Bool) : CEntry := { port := false, cring := 2, ring := 1, status := 0, tag := 5, result := 9, old := old }

/-- A READY module whose port 0 has a submission ring 1 with two descriptors and a completion ring 2. -/
def host (en : Bool) (state : BitVec 2) : State :=
  let p : Port := { srings := [(1, { base := 0x10000, en := true, lsize := 1, head := 0, tail := 1 })], crings := [(2, { base := 0x20000, en := en, lsize := 2, ithresh := 1, itime := 5, vector := 3, firstAt := some 100 })], bme := true }
  { pending := [], mod := { modAt xt with hq := { port0 := p, owed := [owes false], journalClosed := false }, sec := { stage := 3 }, pwr := { state := state } } }

/-- An access of thread 0 without an answer. -/
def hanging (a : Nat) : State := { pending := [], mod := { modAt xt with accs := [{ mkAccess (modAt xt) 0 .s .load 0 (.here a) 8 with sent := true }] } }

/-- A completion ring without a threshold, and a port with a message pending on vector 7. -/
def quietRing : CRing := { firstAt := some 100, itime := 5 }
def unmasking : Port := { bme := true, msix := [(7, { addr := 0x1000, data := 3, masked := true })], msixPending := [7] }

/-- The same with both bridges down, in brown-out S4, and with the ports not enabled yet. -/
def cut : Mod := { (host true 0).mod with bridgeDown := [true, false] }
def browned : Mod := { (host true 0).mod with pwr := { level := 4 } }
def unready : Mod := { (host true 0).mod with sec := { stage := 1 } }

/-- A chunk whose write at part `p` is out, and a core whose fetch is. -/
def stuckChunk (ready : Bool) : Mod :=
  let p : ChunkPart := { off := 0, n := 4, peer := none, at_ := 0x3000 }
  (streaming [desc 1] [{ chunk [] with ready := ready, parts := [p], reads := if ready then [] else [p] }]).mod

theorem witness_HostRingsMove_waits :
    applyUpsets (host true 0).mod {} = (host true 0).mod ∧ applyUpsets cut {} = cut ∧ applyUpsets browned {} = browned ∧
    (cut.sec.stage = 3 ∧ meshRuns cut = true ∧ cut.pwr.state = 0 ∧ ((ingressOf cut 0xFFF).map (stewardReaches cut)) = some false ∧ ((ingressOf (host true 0).mod 0xFFF).map (stewardReaches (host true 0).mod)) = some true ∧
      meshRuns browned = false ∧ browned.sec.stage = 3 ∧ browned.pwr.state = 0 ∧ portUp unready true = true ∧ unready.sec.stage ≠ 2 ∧ unready.sec.stage ≠ 3 ∧ portUp { unready with sec := { degraded := 16 } } true = false) ∧
    (∀ ready ∈ [true, false], let m := stuckChunk ready
     coresRun m = true ∧ (chunkFind m 0 9).isSome = true ∧ descFind m 0 1 5 = some (desc 1) ∧ (desc 1).op ≠ 5 ∧ ((chunkFind m 0 9).map (fun c => (c.ready, c.done, (chunkWaits c).length))) = some (ready, 0, 1)) ∧
    (coresRun fetching = true ∧ (core fetching 0).fetching = some (0x1000, 0x1000) ∧ (core fetching 0).cur < 4) := ⟨rfl, rfl, rfl, by decide +kernel, by decide +kernel, by decide +kernel⟩

theorem witness_HostRingsMove :
    (portLive (host true 0).mod false = true ∧ portLive (host true 2).mod false = true ∧ (host true 0).mod.pwr.state ≠ 2 ∧ (host true 2).mod.pwr.state = 2) ∧ mayFetch (host true 0).mod false 1 = true ∧
    (portMaster (host true 0).mod false = true ∧ (host true 0).mod.sec.stage = 3 ∧ (host true 0).mod.hq.owed.find? (fun x => x.port == false && x.cring == 2) = some (owes false) ∧ (tblGet {} (host true 0).mod.hq.port0.crings 2).en = true ∧ (4 + 0 - 0 % 4) % 4 < 4 - 1 ∧
      (tblGet {} (host false 0).mod.hq.port0.crings 2).en = false ∧ (owes false).old = false) ∧
    ((tblGet {} (host true 0).mod.hq.port0.crings 2).firstAt = some 100 ∧ (tblGet {} (host true 0).mod.hq.port0.crings 2).itime ≠ 0 ∧ (tblGet {} (host true 0).mod.hq.port0.crings 2).ithresh ≠ 0 ∧ quietRing.itime ≠ 0 ∧ quietRing.firstAt = some 100 ∧ quietRing.ithresh = 0) ∧
    (unmasking.bme = true ∧ unmasking.perst = false ∧ (7 : BitVec 11).toNat ∈ unmasking.msixPending ∧ (0x5#64).getLsbD 32 = false ∧ (0x100000005#64).getLsbD 32 = true ∧ (∃ b, b ∉ (host true 0).mod.bridgeDown)) ∧
    ((host true 0).mod.pwr.aoOn = true ∧ (host true 0).mod.pwr.down = false ∧ (portOfHost (host true 0).mod false).perst = false ∧ ({} : Mod).sec.stage ≠ 3 ∧ regionOf 0x600000000000 = .reserved ∧ regionOf 0xFFF = .hbm ∧ disabled (host true 0).mod 5 = false ∧ disabled (host true 0).mod 3 = false ∧ meshRuns (host true 0).mod = true ∧ (host true 2).mod.pwr.state ≠ 0 ∧
      (host true 0).mod.mem.check = [] ∧ (host true 0).mod.mem.granules = [] ∧ 0xFFF % 4096 + 1 ≤ 4096 ∧ fencedAt (host true 0).mod 0xFFF 0 = false ∧ fencedAt { (host true 0).mod with rcv := { resets := [resetOf (.stack 0) false] } } 0xFFF 0 = true ∧ (host true 0).mod.mem.wf = true) ∧
    (∃ x y, regionOf 0x500000000000 = .hostWindow x y ∧ ∃ a, (hanging 0x500000000000).mod.accs.find? (fun k => k.id == 0) = some a ∧ a.answer = none ∧ a.peer = none ∧ a.present = true ∧ a.sent = true ∧ a.addr = 0x500000000000 ∧ meshRuns (hanging 0x500000000000).mod = true) ∧
    (∃ a, (hanging 64).mod.accs.find? (fun k => k.id == 0) = some a ∧ a.answer = none ∧ a.peer = none ∧ a.present = true ∧ coresRun (hanging 64).mod = true) := by
  refine ⟨by decide +kernel, by decide +kernel, by decide +kernel, by decide +kernel, ⟨by decide, by decide, by decide, by decide, by decide, ⟨false, by decide⟩⟩, by decide +kernel, ⟨false, 0, by decide +kernel, _, rfl, rfl, rfl, rfl, rfl, rfl, by decide +kernel⟩, ⟨_, rfl, rfl, rfl, rfl, by decide +kernel⟩⟩

/-! ## Descriptors -/

/-- A descriptor of job 7 in ring 1 with completion ring 5, an opcode and its body words. -/
def task (op : Nat) (st : RecState) (ws : List Word) : Rec := { port := false, ring := 1, words := [BitVec.ofNat 64 (7 + 3 * 2 ^ 16 + op * 2 ^ 32 + 5 * 2 ^ 48), 9] ++ ws, at_ := 100, state := st, order := 4 }

/-- A valid handle of job 7, with a table section of one entry. -/
def sealed (entry : Byte) : Handle := { seq := 3, valid := true, digest := [1], job := 7, codeBase := 0x8000, bypass := false, sup := true, entry := 5, handler := 64, table := [(1, [entry])] }

/-- A READY module with job 7 open, handles 2 and 3, and the records `l`. -/
def engine (l : List (Nat × Rec)) : State :=
  { pending := [], mod := { modAt xt with sec := { stage := 3 }, hq := { port0 := { srings := [(1, { en := true, prio := 7 }), (2, { en := true })], bme := true }, recs := l, nextRec := 50, jobs := [(7, { epoch := 3, xbase := 0, stackBase := 0x9000, stackBytes := 0x40, members := 0, count := 0 })], handles := [(2, sealed 1), (3, sealed 2)], journalClosed := false } } }

/-- One with record 1 only. -/
def only (x : Rec) : State := engine [(1, x)]

/-- The same with no job open. -/
def noJob (s : State) : State := { s with mod := { s.mod with hq := { s.mod.hq with jobs := [] } } }

/-- No record bears on whether the engine runs. -/
theorem engineOn_engine (l : List (Nat × Rec)) : engineOn (engine l).mod = true :=
  (show engineOn (engine l).mod = engineOn (engine []).mod from rfl).trans (by decide +kernel)

theorem started_only (op : Nat) (ws : List Word) (h : (task op .started ws).op = op) : Started (only (task op .started ws)).mod 1 (task op .started ws) op := ⟨rfl, rfl, engineOn_engine _, h⟩

/-- Handles 2 and 3 of sequence 3, and one that does not exist. -/
def hGood : Word := 0x3002
def hBoth : Word := 0x300200003002
def hMixed : Word := 0x300300003002
def hNone : Word := 0x300500003005

/-- A launch of a thread on each core of cluster 0, handed to core 0 behind two others. -/
def launching (op : Nat) : Rec := { task op .running [hBoth, 0, 1, 0, 0, 0] with todo := [0, 1], args := [1, 2, 3], argsB := [] }
def handing (op : Nat) : State :=
  let s := only (launching op)
  { s with mod := { s.mod with cores := [(0, { coreAt xt with launches := [1, 12], queues := [], store := [] })] } }

/-- A load whose outcome is known. -/
def loading (k : Handle) (report : Option Word) (slots : Tbl Handle) : State :=
  let s := only (task 7 .running [0, 0, 0])
  { s with mod := { s.mod with hq := { s.mod.hq with handles := slots, loading := [{ record := 1, at_ := 700, image := k, report := report, ends := true }] } } }

theorem loading_handles (k : Handle) (w : Option Word) (l : Tbl Handle) : (loading k w l).mod.hq.handles = l := rfl

/-- Every handle slot in use. -/
def noSlot : Tbl Handle := (List.range 4096).map (fun i => (i, sealed 1))

theorem tblFind_sealed (l : List Nat) (i : Nat) (h : i ∈ l) : tblFind (l.map (fun i => (i, sealed 1))) i = some (sealed 1) := by
  induction l with
  | nil => cases h
  | cons a t ih =>
    simp only [List.map_cons, tblFind]
    split
    · rfl
    · rename_i hne
      exact ih (by rcases List.mem_cons.mp h with h | h; exact absurd h.symm hne; exact h)

theorem noSlot_free (k : Handle) (w : Option Word) : freeSlots (loading k w noSlot).mod = [] := by
  simp only [freeSlots, List.filter_eq_nil_iff]
  intro i hi
  rw [loading_handles, noSlot, tblFind_sealed _ _ hi]
  decide

theorem noSlot_reuse (k : Handle) (w : Option Word) (h : k.digest ≠ [1]) : reusable (loading k w noSlot).mod k = none := by
  simp only [reusable, List.find?_eq_none]
  intro e he
  rw [loading_handles, noSlot] at he
  obtain ⟨i, -, rfl⟩ := List.mem_map.mp he
  have : ([1] == k.digest) = false := by simpa using Ne.symm h
  simp only [sealed, this, Bool.and_false, Bool.false_and, Bool.false_eq_true, not_false_eq_true]

/-- No record bears on whether the memory is on. -/
theorem hbm_on (x : Rec) : disabled (only x).mod 3 = false := (show disabled (only x).mod 3 = disabled (engine []).mod 3 from rfl).trans (by decide +kernel)

theorem plain (x : Rec) (a : Word) (n : Nat) (h : a.toNat + n ≤ 0x030000000000) : ReadsPlain (only x).mod 0 a n := ⟨rfl, h, hbm_on x, rfl, fun _ => rfl⟩

theorem witness_DescriptorsExecute_0 : engineOn (only (task 5 .recorded [5, 0])).mod = true ∧ startable (only (task 5 .recorded [5, 0])).mod ≠ [] := by decide +kernel

theorem witness_DescriptorsExecute_1 : Started (only (task 5 .started [5, 0])).mod 1 (task 5 .started [5, 0]) 5 := started_only 5 _ (by decide)

theorem witness_DescriptorsExecute_2 : nextStart (only (task 5 .recorded [5, 0])).mod = some (1, task 5 .recorded [5, 0]) ∧ (task 5 .recorded [5, 0]).op = 5 := by decide +kernel

theorem witness_DescriptorsExecute_3 : Started (only (task 6 .started [5, 1])).mod 1 (task 6 .started [5, 1]) 6 ∧ (task 6 .started [5, 1]).w 2 / 2 ^ 16 % 2 = 0 := ⟨started_only 6 _ (by decide), by decide⟩

theorem witness_DescriptorsExecute_4 : Started (only (task 6 .started [0x0002000000010005, 1])).mod 1 (task 6 .started [0x0002000000010005, 1]) 6 ∧ ¬ ((task 6 .started [0x0002000000010005, 1]).w 2 / 2 ^ 16 % 2 = 0 ∨ (task 6 .started [0x0002000000010005, 1]).w 2 / 2 ^ 48 % 2 ^ 16 = (only (task 6 .started [0x0002000000010005, 1])).mod.fab.id.toNat) ∧
      isShared (only (task 6 .started [0x0002000000010005, 1])).mod (task 6 .started [0x0002000000010005, 1]).job = false := ⟨started_only 6 _ (by decide), by decide +kernel⟩

theorem witness_DescriptorsExecute_5 : ∀ e ∈ [(1, [hGood, 0x400, 1, 0, 3840, 0]), (2, [hBoth, 0, 1, 0, 0x400, 0x800])], let x := task e.1 .started e.2
      Started (only x).mod 1 x e.1 ∧ Started (noJob (only x)).mod 1 x e.1 ∧ tblFind (noJob (only x)).mod.hq.jobs x.job = none ∧ (tblFind (only x).mod.hq.jobs x.job).isSome = true ∧ handleFor (only x).mod x.hA x.job = some (sealed 1) ∧
      (e.1 = 2 → handleFor (only x).mod x.hB x.job = some (sealed 1)) ∧ x.argsAsked = false ∧ x.argParts = [] ∧ argsOut (only x).mod 1 = false ∧ ReadsPlain (only x).mod 0 (x.words.getD (if e.1 = 1 then 3 else 6) 0) x.nA ∧ (e.1 = 2 → ReadsPlain (only x).mod 0 (x.words.getD 7 0) x.nB) := by
    intro e he
    simp only [List.mem_cons, List.mem_nil_iff, or_false] at he
    rcases he with rfl | rfl
    · exact ⟨started_only 1 _ (by decide), ⟨rfl, rfl, by decide +kernel, by decide⟩, by decide, by decide +kernel, by decide +kernel, by decide, rfl, rfl, rfl, plain _ _ _ (by decide +kernel), fun h => by cases h⟩
    · exact ⟨started_only 2 _ (by decide), ⟨rfl, rfl, by decide +kernel, by decide⟩, by decide, by decide +kernel, by decide +kernel, by decide +kernel, rfl, rfl, rfl, plain _ _ _ (by decide +kernel), fun _ => plain _ _ _ (by decide +kernel)⟩

theorem witness_DescriptorsExecute_6 : ∀ e ∈ [(1, [hNone, 0, 1, 0, 0, 0]), (2, [hNone, 0, 1, 0, 0, 0])], let x := task e.1 .started e.2
      Started (only x).mod 1 x e.1 ∧ (tblFind (only x).mod.hq.jobs x.job).isSome = true ∧ handleFor (only x).mod x.hA x.job = none := by
  unfold Started
  decide +kernel

theorem witness_DescriptorsExecute_7 : let x := task 2 .started [hMixed, 0, 1, 0, 0, 0]
     Started (only x).mod 1 x 2 ∧ (tblFind (only x).mod.hq.jobs x.job).isSome = true ∧ handleFor (only x).mod x.hA x.job = some (sealed 1) ∧ handleFor (only x).mod x.hB x.job = some (sealed 2) ∧ (sealed 1).table ≠ [] ∧ (sealed 2).table ≠ [] ∧ (sealed 1).table ≠ (sealed 2).table := by
  unfold Started
  decide +kernel

theorem witness_DescriptorsExecute_8 : ∀ op ∈ [1, 2], let x := launching op
      engineOn (handing op).mod = true ∧ nextLaunch (handing op).mod 0 = some (1, x) ∧ (tblFind (handing op).mod.hq.jobs x.job).isSome = true ∧ tblFind (handing op).mod.hq.handles (x.hA % 4096) = some (sealed 1) ∧ (x.op ≠ 1 → tblFind (handing op).mod.hq.handles (x.hB % 4096) = some (sealed 1)) ∧
      (x.op = 1 ∨ x.op = 2) ∧ x.tA + x.tB ≤ (startContexts (handing op).mod 0).length ∧ tableAllows (handing op).mod 0 (sealed 1).table = true ∧ replayWaits (handing op).mod 0 = false ∧ (cluster (handing op).mod 0).search = none ∧ (core (handing op).mod 0).inReset = false ∧ disabled (handing op).mod 2 = false ∧ stewardReaches (handing op).mod 0 = true ∧
      (handing op).mod.mem.wf = true ∧ (handing op).mod.mem.granules = [] ∧ x.args.length ≤ 1920 ∧ x.argsB.length = 0 := by decide +kernel

theorem witness_DescriptorsExecute_9 : ∀ b ∈ [none, some ((6 : Byte), (77 : Word))], let x := { task 1 .running [] with blame := b }
      engineOn (only x).mod = true ∧ tblFind (only x).mod.hq.recs 1 = some x ∧ x.op = 1 ∧ launchOver (only x).mod 1 x = true ∧ isShared (only x).mod x.job = false := by
  intro b hb
  simp only [List.mem_cons, List.mem_nil_iff, or_false] at hb
  rcases hb with rfl | rfl <;> decide +kernel

theorem witness_DescriptorsExecute_10 : ∀ op ∈ [3, 4], let x := task op .started [0x0004000200000000, 9, 8, 7, 6, 5]
      Started (only x).mod 1 x op ∧ (tblFind (only x).mod.hq.jobs x.job).isSome = true ∧ (inQueue (only x).mod (x.w 2 / 2 ^ 48 % 128) 64).length < 16 ∧ queueHeld (only x).mod (x.w 2 / 2 ^ 48 % 128) 64 = false := by
  unfold Started
  decide +kernel

theorem witness_DescriptorsExecute_11 : Started (only (task 8 .started [0, 0])).mod 1 (task 8 .started [0, 0]) 8 ∧ (tblFind (only (task 8 .started [0, 0])).mod.hq.jobs (task 8 .started [0, 0]).job).isSome = true := by
  unfold Started
  decide +kernel

theorem witness_DescriptorsExecute_12 : let x := task 9 .started [0, 0, 0, 0, 0]
     Started (only x).mod 1 x 9 ∧ (tblFind (only x).mod.hq.jobs x.job).isSome = true ∧ Started (noJob (only x)).mod 1 x 9 ∧ tblFind (noJob (only x)).mod.hq.jobs x.job = none ∧ (noJob (only x)).mod.hq.jobs.length < 4096 := by
  unfold Started
  decide +kernel

theorem witness_DescriptorsExecute_13 : let x := task 0xA .started []
     Started (only x).mod 1 x 0xA ∧ (tblFind (only x).mod.hq.jobs x.job).isSome = true ∧ earlierDone (only x).mod 1 x = true ∧ x.job ≠ 0 := by
  unfold Started
  decide +kernel

theorem witness_DescriptorsExecute_14 : let x := task 0xB .started [5]
     Started (only x).mod 1 x 0xB ∧ (tblFind (only x).mod.hq.jobs x.job).isSome = true ∧ ∀ e ∈ (only x).mod.hq.recs, otherAbort 1 x e = false := by
  unfold Started
  decide +kernel

theorem witness_DescriptorsExecute_15 : let x := { task 0xB .running [5] with graceAt := some 5 }
     engineOn (only x).mod = true ∧ tblFind (only x).mod.hq.recs 1 = some x ∧ (tblFind (only x).mod.hq.jobs x.job).map Job.epoch = some x.ep ∧ ∀ e ∈ (only x).mod.hq.recs, otherAbort 1 x e = false := by decide +kernel

theorem witness_DescriptorsExecute_16 : ∀ a ∈ [(0 : Word), 0x8000000000000000], let x := task 7 .started [a, 5, 0]
      Started (only x).mod 1 x 7 ∧ loadBase (only x).mod x = some 0 ∧ loadTurn (only x).mod x = true ∧ (a.getLsbD 63 = true ∨ ReadsPlain (only x).mod 0 a (x.w 3 % 2 ^ 32)) := by
    intro a ha
    simp only [List.mem_cons, List.mem_nil_iff, or_false] at ha
    rcases ha with rfl | rfl
    · exact ⟨started_only 7 _ (by decide), by decide, by decide +kernel, .inr (plain _ _ _ (by decide +kernel))⟩
    · exact ⟨started_only 7 _ (by decide), by decide, by decide +kernel, .inl (by decide)⟩

theorem witness_DescriptorsExecute_17 : ∀ s ∈ [loading (sealed 1) none [(2, sealed 1)], loading { sealed 1 with digest := [9] } (some 5) [], loading { sealed 1 with digest := [9] } none []],
      engineOn s.mod = true ∧ tblFind s.mod.hq.recs 1 = some (task 7 .running [0, 0, 0]) ∧ (s.mod.hq.loading.find? (fun k => k.record == 1)).isSome = true := by decide +kernel

theorem witness_DescriptorsExecute_18 : reusable (loading (sealed 1) none [(2, sealed 1)]).mod (sealed 1) = some (2, sealed 1) := by decide +kernel

theorem witness_DescriptorsExecute_19 : ∀ w, reusable (loading { sealed 1 with digest := [9] } w []).mod { sealed 1 with digest := [9] } = none := fun _ => rfl

theorem witness_DescriptorsExecute_20 : 0 ∈ freeSlots (loading { sealed 1 with digest := [9] } none []).mod := List.mem_filter.mpr ⟨List.mem_range.mpr (by decide), rfl⟩

theorem witness_DescriptorsExecute_21 : reusable (loading { sealed 1 with digest := [9] } none noSlot).mod { sealed 1 with digest := [9] } = none ∧ freeSlots (loading { sealed 1 with digest := [9] } none noSlot).mod = [] := ⟨noSlot_reuse _ _ (by decide), noSlot_free _ _⟩

theorem witness_DescriptorsExecute_22 : ∀ op ∈ [5, 8], let x := { task op .recorded [] with words := [BitVec.ofNat 64 (7 + op * 2 ^ 32), 0x100000000] }
      engineOn (only x).mod = true ∧ (only x).mod.pwr.level < 3 ∧ tblFind (only x).mod.hq.recs 1 = some x ∧ x.w 1 / 2 ^ 32 ≠ 0 ∧ (x.op = 5 ∨ isShared (only x).mod x.job = false) := by decide +kernel

/-- A module whose links keep 128 codewords each, so that a packet waits at its port. -/
def congested (x : Rec) : Mod :=
  let k : Link := { up with window := (List.range 128).map (fun i => (BitVec.ofNat 8 i, [])) }
  { (only x).mod with fab := { en := true, id := 0, sizes := 0x0103, links := [(5, k), (13, k), (21, k), (29, k)] } }

theorem witness_DescriptorsExecute_23 : let x := task 6 .started [0x0002000000010005, 1]
    x.op = 6 ∧ x.state = .started ∧ engineOn (congested x) = true ∧ (chooseRoute (congested x) 0 2 5).isSome = true ∧ packetsWaiting (congested x) < packetsWaiting (fabSend (congested x) (signalPacket x)).1 ∧
      packetsWaiting (only x).mod = packetsWaiting (fabSend (only x).mod (signalPacket x)).1 := by decide +kernel

/-- A COPY that runs, its descriptor in the engine of cluster 0 or already gone from it. -/
def copyRec (b : Option (Byte × Word)) (grace : Option Nat) : Rec :=
  { task 3 .running [0, 1, 2, 3, 4, 5] with words := [BitVec.ofNat 64 (7 + 3 * 2 ^ 16 + 3 * 2 ^ 32), 0x100000000, 0, 1, 2, 3, 4, 5], blame := b, graceAt := grace }
def moved : SDesc := { desc 1 with record := some 1, thread := none }
def copyingHost (x : Rec) (there : Bool) : Mod := { (only x).mod with clusters := [(0, { dqs := if there then [(64, [moved])] else [] })] }

theorem witness_DescriptorsExecute_24 : (∀ there, moveDescOf (copyingHost (copyRec none none) there) 1 (copyRec none none) = if there then some moved else none) ∧
    (∀ b ∈ [(none, none), (some ((8 : Byte), (0 : Word)), some 100)], ∀ there, let x := copyRec b.1 b.2
      engineOn (copyingHost x there) = true ∧ (copyingHost x there).pwr.level < 3 ∧ x.w 1 / 2 ^ 32 ≠ 0 ∧ x.op = 3 ∧ x.isMove = true ∧ x.state = .running ∧ descDone (copyingHost x there) 0 64 moved = false ∧ (cluster (copyingHost x there) 0).chunks = []) := by decide +kernel

theorem witness_DescriptorsExecute_25 : let x := { task 0xB .running [5] with graceAt := some 5 }
    (∃ e : Nat × Rec, otherAbort 1 x e = true) ∧ ∃ y : Rec, y.state ≠ .recorded ∧ y.state ≠ .running ∧ y.state ≠ .done ∧ y.isLaunch = true :=
  ⟨⟨(2, task 0xB .running [9]), by decide +kernel⟩, ⟨task 1 .started [], by decide +kernel⟩⟩

/-! ## Resets and lost work -/

/-- A module with links, under the resets `r`, its journal open. -/
def under (k : Link) (r : List Reset) : State := { fabric k with mod := { (fabric k).mod with rcv := { resets := r } } }

/-- The same with the module held down by MOD_RESET_N. -/
def heldDown : State :=
  let s := under up [resetOf .module false]
  { s with mod := { s.mod with pins := { modReset := true }, pwr := { s.mod.pwr with down := true } } }

/-- A cluster reset by a hang, no launch of it in a search. -/
def hung (d : Domain) : Reset := { resetOf d true with hang := true }

/-- A DBG_RESET write: go, a domain code and a target. -/
def dbgReset (go : Bool) (code target : Nat) : RegAccess := whole (BitVec.ofNat 64 ((if go then 2 ^ 63 else 0) + code * 2 ^ 56 + target))

/-- A module reset with floods that have not left, a reset of core 0 that waits for an access in the middle of its units, and the reset of a thread by KILL. -/
def flooding : State := let s := under up [resetOf .module true]
  { s with mod := { s.mod with fab := { s.mod.fab with floodQ := [(0, 0, wrPacket)] } } }
def midAccess (d : Domain) : State := let s := under up [resetOf d true]
  { s with mod := { s.mod with accs := [{ mkAccess s.mod 64 .s .put 0 (.here (if d = .cluster 0 then cmAddr 0 0 else if d = .die 0 then 0 else lmAddr 0 0)) 64 with unitsDone := 1 }] } }
def killOf : Reset := { resetOf (.thread 0) true with kill := true }

/-- A shared job in step: its launches 1 recorded and 2 running; a module reset then drains. -/
def inStep : State :=
  let s := engine [(1, task 1 .recorded []), (2, task 1 .running [])]
  { s with mod := { s.mod with hq := { s.mod.hq with jobs := [(7, { epoch := 3, xbase := 0, stackBase := 0x9000, stackBytes := 0x40, members := 0, count := 2 })] } } }
def inStepDrained : State := { inStep with mod := { inStep.mod with rcv := { resets := [resetOf .module true] } } }

/-- DBG_RESET with a reset of its own under way. -/
def busyReset : State := { work with mod := { work.mod with rcv := { busy := true } } }

theorem witness_ResetsRun :
    (powered work.mod = true ∧ (∀ d ∈ [Domain.thread 0, .core 0, .cluster 0, .die 0, .stack 0], Uncovered work.mod d ∧ ¬ Uncovered (under up [resetOf .module true]).mod d) ∧ powered (under up [resetOf .module true]).mod = true) ∧
    (work.mod.pwr.aoOn = true ∧ work.mod.pwr.down = false ∧ work.mod.pwr.tripped = false ∧ Uncovered work.mod .module ∧ jobsInStep work.mod = []) ∧
    (heldDown.mod.pins.modReset = true ∧ heldDown.mod.pwr.down = true ∧ heldDown.mod.rcv.resets = [resetOf .module false] ∧ (resetOf .module false).draining = false) ∧
    ((linkOf (fabric up).mod 0).state = 2 ∧ (linkOf (fabric up).mod 0).txq = [] ∧ Uncovered (fabric up).mod (.link 0)) ∧ ((linkOf (fabric { state := 0 }).mod 0).state = 0 ∧ mayTrain (fabric { state := 0 }).mod 0 = true ∧ Uncovered (fabric { state := 0 }).mod (.link 0)) ∧
    (inStep.mod.pwr.aoOn = true ∧ inStep.mod.pwr.down = false ∧ inStep.mod.pwr.tripped = false ∧ Uncovered inStep.mod .module ∧ jobsInStep inStep.mod = [7] ∧ (inStep.mod.hq.jobs.map Prod.fst).Nodup) ∧
    (∃ a b, tblFind inStep.mod.hq.recs 1 = some a ∧ a.state = .recorded ∧ a.job = 7 ∧ tblFind inStep.mod.hq.recs 2 = some b ∧ b.isLaunch = true ∧ b.state = .running ∧ b.job = 7 ∧ 1 ≠ inStep.mod.hq.nextRec ∧ 2 ≠ inStep.mod.hq.nextRec) := by
  unfold Uncovered
  refine ⟨by decide +kernel, by decide +kernel, by decide +kernel, ?_⟩
  refine ⟨by decide +kernel, by decide +kernel, ?_⟩
  exact ⟨⟨rfl, rfl, rfl, by decide +kernel, by decide +kernel⟩, task 1 .recorded [], task 1 .running [], by decide +kernel⟩

theorem witness_ResetsRun_drains :
    (∀ d ∈ [Domain.core 0, .cluster 0, .die 0, .module], drainWaits (midAccess d).mod d = true) ∧ drainWaits flooding.mod .module = true ∧ drainWaits (under up [resetOf (.core 0) true]).mod (.core 0) = false ∧ drainWaits (under up [resetOf .module true]).mod .module = false ∧
    ((under up [killOf]).mod.rcv.resets.find? (fun x => x.d == killOf.d && x.draining) = some killOf ∧ killOf.kill = true ∧ drainWaits (under up [killOf]).mod killOf.d = false) ∧
    (∀ d ∈ [Domain.thread 0, .core 0, .cluster 0, .die 0, .stack 0, .link 0, .module], (under up [resetOf d true]).mod.rcv.resets.find? (fun x => x.d == d && x.draining) = some (resetOf d true)) ∧ (under up [resetOf .module true]).mod.pins.modReset = false ∧
    ((under up [hung (.cluster 0)]).mod.rcv.resets.find? (fun x => x.d == .cluster 0 && x.draining) = some (hung (.cluster 0)) ∧ (cluster (under up [hung (.cluster 0)]).mod 0).search = none ∧ (cluster (under up [hung (.cluster 0)]).mod 0).lastSearch.1 = [] ∧ ∀ e ∈ (under up [hung (.cluster 0)]).mod.hq.recs, e.2.cls ≠ 2) ∧
    (∀ d ∈ [Domain.thread 0, .core 0, .cluster 0, .die 0, .stack 0, .link 0, .module], (under up [resetOf d false]).mod.rcv.resets.find? (fun x => x.d == d && !x.draining) = some (resetOf d false) ∧ (under up [resetOf d false]).mod.hq.journalClosed = false) ∧
    (cluster (under up [resetOf (.thread 0) false]).mod 0).search = none ∧
    (tblFind inStepDrained.mod.hq.recs 1 = some (task 1 .recorded []) ∧ tblFind inStepDrained.mod.hq.recs 2 = some (task 1 .running []) ∧ (task 1 .recorded []).op = 1 ∧ (task 1 .running []).blame = none ∧ inStepDrained.mod.rcv.resets.find? (fun x => x.d == .module && x.draining) = some (resetOf .module true) ∧
      drainWaits inStepDrained.mod .module = false ∧ inStepDrained.mod.pins.modReset = false) := by
  refine ⟨by decide +kernel, by decide +kernel, by decide +kernel, by decide +kernel, ?_⟩
  refine ⟨⟨rfl, rfl, by decide +kernel⟩, by decide +kernel, rfl, ?_⟩
  exact ⟨by decide +kernel, by decide +kernel, rfl, rfl, rfl, by decide +kernel⟩

theorem witness_ResetsRun_ends :
    (∀ d ∈ [Domain.thread 0, .core 0, .cluster 0, .die 0, .stack 0], ∃ e, escalation d = some e ∧ jobsInStep (under up [resetOf d false]).mod = [] ∧ Uncovered (under up [resetOf d false]).mod e) ∧
    ((∀ go, ∀ code, wholeWrite (dbgReset go code 0) = true) ∧ AoReachable work.mod 0xF00208 ∧ AoReachable busyReset.mod 0xF00208 ∧ (dbgReset true 0 0).value.getLsbD 63 = true ∧ (dbgReset false 0 0).value.getLsbD 63 = false ∧ busyReset.mod.rcv.busy = true ∧ work.mod.rcv.busy = false ∧
      domainFrom ((dbgReset true 1 2048).value.extractLsb' 56 3).toNat ((dbgReset true 1 2048).value.extractLsb' 0 14).toNat = none ∧ domainFrom ((dbgReset true 1 2047).value.extractLsb' 56 3).toNat ((dbgReset true 1 2047).value.extractLsb' 0 14).toNat = some (.core 2047) ∧ Uncovered work.mod (.core 2047)) := by
  unfold Uncovered AoReachable
  refine ⟨?_, fun _ _ => rfl, ⟨rfl, rfl, rfl⟩, ⟨rfl, rfl, rfl⟩, by decide +kernel⟩
  intro d hd
  simp only [List.mem_cons, List.mem_nil_iff, or_false] at hd
  rcases hd with rfl | rfl | rfl | rfl | rfl <;> exact ⟨_, rfl, by decide +kernel⟩

/-- A descriptor of a replay class. -/
def classed (op cls : Nat) (st : RecState) (ws : List Word) : Rec := { task op st ws with words := [BitVec.ofNat 64 (7 + 3 * 2 ^ 16 + cls * 2 ^ 27 + op * 2 ^ 32 + 5 * 2 ^ 48), 9] ++ ws }

/-- A lost work item of record 1. -/
def lostItem (c n : Nat) : Item := { record := 1, core := c, imageB := false, pos := 0, replays := n, lost := true, running := false }

/-- A module whose record 1 runs with the lost work item 0. -/
def losing (x : Rec) (it : Item) : State := { engine [(1, x)] with mod := { (engine [(1, x)]).mod with hq := { (engine [(1, x)]).mod.hq with items := [(0, it)] } } }

/-- A launch, and a COPY of cluster 4, of a class. -/
def lostLaunch (cls n : Nat) : State := losing (classed 1 cls .running [hGood, 0, 1, 0, 0, 0]) (lostItem 0 n)
def lostCopy (cls : Nat) : State := losing (classed 3 cls .running [0x0004000200000000, 9, 8, 7, 6, 5]) (lostItem 2052 0)

/-- Both steward bridges down; the dispatchers off with the steward firmware's die left out; a lost item of a blamed descriptor. -/
def cutOff : State := { work with mod := { work.mod with bridgeDown := [false, true] } }
def diesOff : State := { work with mod := { work.mod with sec := { work.mod.sec with degraded := 2 } } }
def lostBlamed (c : Nat) : State := losing { classed 1 0 .running [hGood, 0, 1, 0, 0, 0] with blame := some (7, 9) } (lostItem c 0)

/-- A cluster whose launch, record 1, is a suspect with thread 0 live. -/
def searching (f : Search) (live : Bool) : State :=
  let s := only (task 1 .running [hGood, 0, 1, 0, 0, 0])
  { s with mod := { s.mod with cores := [(0, coreAt { xt with live := live, launch := some 1 })], clusters := [(0, { search := some f })] } }

/-- A search that waits for its next trial, and one with a trial. -/
def untried (l : List Nat) : Search := { todo := l, trial := none, until_ := 0, cleared := [] }
def trying : Search := { todo := [], trial := some 1, until_ := 500, cleared := [] }

/-- A commit by thread 0, of a work item of class CHECKPOINT. -/
def commits : Access :=
  { mkAccess (modAt xt) 0 .s .vstore 64 (.here (ctlAddr 0xF80000)) 64 with item := some 0, job := 0x8000007, data := List.replicate 64 (5, false) }
def committing : State := { work with mod := { work.mod with accs := [commits], hq := { journalClosed := false } } }

theorem witness_LostWorkIsReplayed :
    (work.mod.rcv.pwd = true ∧ coresRun work.mod = true ∧ (core work.mod 0).inReset = false ∧ (∃ u ∈ runningThreads work.mod 0, threadFenced work.mod u = false) ∧ (cluster work.mod 0).search = none ∧ Uncovered work.mod (.cluster 0)) ∧
    (meshRuns work.mod = true ∧ Uncovered work.mod (.die 0) ∧ disabled work.mod 2 = false ∧ stewardReaches work.mod (16 * 0) = true ∧ disabled diesOff.mod 2 = true ∧ stewardReaches cutOff.mod (16 * 0) = false ∧ ¬ Uncovered (under up [resetOf .module false]).mod (.die 0) ∧ engineOn (engine []).mod = true ∧ Uncovered (engine []).mod (.die 0)) ∧
    (∀ e ∈ [(2, 0), (0, 2), (0, 0), (1, 1)], LostItem (lostLaunch e.1 e.2).mod 0 (lostItem 0 e.2) (classed 1 e.1 .running [hGood, 0, 1, 0, 0, 0]) ∧ (classed 1 e.1 .running [hGood, 0, 1, 0, 0, 0]).cls = e.1 ∧ (lostLaunch e.1 e.2).mod.rcv.budget.toNat = 2 ∧ (lostLaunch e.1 e.2).mod.hq.journalClosed = false ∧
      (tblFind (lostLaunch e.1 e.2).mod.hq.jobs (classed 1 e.1 .running [hGood, 0, 1, 0, 0, 0]).job).isSome = true ∧ tblFind (lostLaunch e.1 e.2).mod.hq.handles ((classed 1 e.1 .running [hGood, 0, 1, 0, 0, 0]).hA % 4096) = some (sealed 1) ∧ startContexts (lostLaunch e.1 e.2).mod 0 = [1, 2, 3] ∧
      disabled (lostLaunch e.1 e.2).mod 2 = false ∧ stewardReaches (lostLaunch e.1 e.2).mod (0 / 16) = true ∧ (core (lostLaunch e.1 e.2).mod 0).inReset = false ∧ tableAllows (lostLaunch e.1 e.2).mod 0 (sealed 1).table = true ∧ itemThreads (lostLaunch e.1 e.2).mod 0 = []) ∧
    (∀ cls ∈ [2, 0], LostItem (lostCopy cls).mod 0 (lostItem 2052 0) (classed 3 cls .running [0x0004000200000000, 9, 8, 7, 6, 5]) ∧ (classed 3 cls .running [0x0004000200000000, 9, 8, 7, 6, 5]).cls = cls ∧ 0 < (lostCopy cls).mod.rcv.budget.toNat ∧
      (tblFind (lostCopy cls).mod.hq.jobs (classed 3 cls .running [0x0004000200000000, 9, 8, 7, 6, 5]).job).isSome = true ∧ (inQueue (lostCopy cls).mod 4 64).length < 16 ∧ queueHeld (lostCopy cls).mod 4 64 = false) ∧
    (∀ c ∈ [0, 2052], engineOn (lostBlamed c).mod = true ∧ tblFind (lostBlamed c).mod.hq.items 0 = some (lostItem c 0) ∧ (lostItem c 0).lost = true ∧ (lostItem c 0).ended = false ∧ (lostItem c 0).failed = false ∧
      ∃ x, tblFind (lostBlamed c).mod.hq.recs 1 = some x ∧ x.state = .running ∧ x.blame = some (7, 9)) := by
  unfold Uncovered LostItem
  refine ⟨⟨by decide +kernel, by decide +kernel, by decide +kernel, ⟨0, by decide +kernel⟩, by decide +kernel⟩, by decide +kernel, by decide +kernel, by decide +kernel, ?_⟩
  intro c hc
  simp only [List.mem_cons, List.mem_nil_iff, or_false] at hc
  rcases hc with rfl | rfl <;> exact ⟨by decide +kernel, rfl, rfl, rfl, rfl, _, rfl, rfl, rfl⟩

theorem witness_LostWorkIsReplayed_searches :
    (engineOn (searching (untried [1]) true).mod = true ∧ (cluster (searching (untried [1]) true).mod 0).search = some (untried [1]) ∧ Uncovered (searching (untried [1]) true).mod (.cluster 0) ∧ (untried [1]).left (searching (untried [1]) true).mod = 1 :: [] ∧ lostIn (searching (untried [1]) true).mod 1 0 = [] ∧ threadsIn (searching (untried [1]) true).mod 1 0 ≠ []) ∧
    (engineOn (searching (untried []) true).mod = true ∧ (cluster (searching (untried []) true).mod 0).search = some (untried []) ∧ Uncovered (searching (untried []) true).mod (.cluster 0) ∧ (untried []).left (searching (untried []) true).mod = []) ∧
    (engineOn (searching trying true).mod = true ∧ (cluster (searching trying true).mod 0).search = some trying ∧ trying.left (searching trying true).mod = [] ∧ { trying with todo := [1] }.left (searching { trying with todo := [1] } true).mod ≠ []) ∧
    (meshRuns committing.mod = true ∧ committing.mod.accs.find? (fun k => k.id == 0) = some commits ∧ mayPerform committing.mod commits = true ∧ commits.unitsDone = 0 ∧ commits.peer = none ∧ commits.kind = .vstore ∧ commits.data.length = 64 ∧ commits.addr = ctlAddr 0xF80000 ∧ fencedAt committing.mod commits.addr commits.issuedAt = false ∧
      commits.item = some 0 ∧ commits.job.extractLsb' 27 2 = 1 ∧ committing.mod.hq.journalClosed = false ∧ committing.mod.mem.wf = true) := by
  unfold Uncovered
  exact ⟨by decide +kernel, by decide +kernel, by decide +kernel, by decide +kernel⟩

/-! ## Mileposts and telemetry -/

/-- A comparator due at 100, with a period, that interrupts and takes a snapshot; a trigger pin that stamps and one that pulses. -/
def clocked (snap : Bool) (edges : BitVec 2) (busy : Bool) (tail : BitVec 26) (held : List (List Word)) : State :=
  { work with mod := { work.mod with tb := { mps := [(1, { time := 100, en := true, irq := true, snap := snap, job := 7, period := 10 })], pins := [(2, { en := true, edge := edges, pulseEnd := some 50 }), (3, { en := true, out := true, mp := 1 })], telBase := 0x20000, telEn := true, telLsize := 3, telTail := tail, snapBusy := busy, held := held } } }

/-- Two comparators due in the same tick, and one whose registers are written in that tick. -/
def dueTogether : State := { work with mod := { work.mod with tb := { mps := [(0, { time := 100, en := true }), (1, { time := 100, en := true })] } } }
def writtenLate : State := { work with mod := { work.mod with tb := { mps := [(1, { time := 100, en := true, late := [(0, 5, 15)] })] } } }

/-- Ring state with a pin stamped now. -/
def justStamped : State := { work with mod := { work.mod with tb := { time := 19, pins := [(2, { en := true, stamped := some 0 })] } } }

theorem witness_MilepostsAndTelemetry :
    (∀ s ∈ [clocked true 1 false 0 [], clocked true 1 true 0 [], clocked false 1 false 0 []], s.mod.pwr.aoOn = true ∧ s.mod.pwr.down = false ∧ (tblGet {} s.mod.tb.mps 1).en = true ∧ s.mod.tb.slewLeft = 0 ∧ s.mod.tb.telEn = true ∧ (tblGet {} s.mod.tb.mps 1).period ≠ 0 ∧
      firesBefore s.mod 1 = false ∧ (tblGet {} s.mod.tb.mps 1).late = [] ∧ s.mod.tb.time.toNat + 100 < 2 ^ 64 ∧ s.mod.tb.ticks + 100 = max (s.mod.tb.ticks + ((tblGet {} s.mod.tb.mps 1).time.toNat - s.mod.tb.time.toNat)) (max s.mod.tb.ticks ((tblGet {} s.mod.tb.mps 1).armed + 1))) ∧
    (firesBefore dueTogether.mod 1 = true ∧ firesBefore dueTogether.mod 0 = false ∧ (firesBefore writtenLate.mod 1 = false ∧ (tblGet {} writtenLate.mod.tb.mps 1).late = [(0, 5, 15)] ∧ (tblGet {} writtenLate.mod.tb.mps 1).en = true)) ∧
    ((clocked true 1 false 0 []).mod.tb.snapBusy = false ∧ freeUnits (clocked true 1 false 0 []).mod.tb < snapshotUnits (clocked true 1 false 0 []).mod) ∧
    (∃ s : State, s.mod.pwr.aoOn = true ∧ s.mod.pwr.down = false ∧ (tblGet {} s.mod.tb.mps 1).en = true ∧ (tblGet {} s.mod.tb.mps 1).snap = true ∧ s.mod.tb.telEn = true ∧ s.mod.tb.slewLeft = 0 ∧ firesBefore s.mod 1 = false ∧ (tblGet {} s.mod.tb.mps 1).late = [] ∧ s.mod.pwr.level = 0 ∧ s.mod.tb.snapBusy = false ∧ snapshotUnits s.mod ≤ freeUnits s.mod.tb ∧ (tblGet {} s.mod.tb.mps 1).period = 0) ∧
    (∀ s ∈ [clocked true 1 false 0 [], clocked true 1 true 0 [], clocked true 1 false 16383 []], s.mod.pwr.aoOn = true ∧ s.mod.pwr.down = false ∧ tblFind s.mod.hq.jobs 0 = none ∧ (tblGet {} s.mod.tb.pins 2).en = true ∧ (tblGet {} s.mod.tb.pins 2).out = false ∧ (tblGet {} s.mod.tb.pins 2).edge.getLsbD 0 = true ∧ (tblGet {} s.mod.tb.pins 2).stamped = none ∧
      s.mod.tb.telEn = true ∧ s.mod.tb.telKinds.getLsbD 6 = true) ∧
    ((tblGet {} (clocked true 2 false 0 []).mod.tb.pins 2).edge.getLsbD 0 = false ∧ (tblGet {} justStamped.mod.tb.pins 2).stamped = some 0 ∧ (justStamped.mod.tb.time - 0).toNat < 20) ∧
    ((clocked true 1 true 0 []).mod.tb.snapBusy = true ∧ freeUnits (clocked true 1 false 16383 []).mod.tb = 0 ∧ 0 < freeUnits (clocked true 1 false 0 []).mod.tb ∧ regionOf 0x20000 = .hbm ∧ 0x20000 % 64 = 0 ∧ (clocked true 1 false 0 []).mod.mem.wf = true ∧ (clocked true 1 false 0 []).mod.mem.check = []) ∧
    (tblGet {} (clocked true 1 false 0 []).mod.tb.pins 2).pulseEnd = some 50 ∧
    ((clocked true 1 true 0 [[5]]).mod.tb.held.length ≤ freeUnits (clocked true 1 true 0 [[5]]).mod.tb ∧ ∀ w ∈ (clocked true 1 true 0 [[5]]).mod.tb.held, 0 < w.length ∧ w.length ≤ 8) := by
  refine ⟨by decide +kernel, by decide +kernel, by decide +kernel, ⟨{ work with mod := { work.mod with tb := { mps := [(1, { en := true, snap := true })], telEn := true, telKinds := 0, telLsize := 14 } } }, by decide +kernel⟩, ?_⟩
  exact ⟨by decide +kernel, by decide +kernel, by decide +kernel, by decide +kernel, by decide +kernel⟩

/-! ## Power -/

/-- A module at an input voltage, with levels due since their timers, at a shedding level. -/
def supplied (p : Power) : State := { work with mod := { work.mod with pwr := p, now := 5 } }

/-- Level S1 due, its leave timer running from 3. -/
def shedding : Power := { level := 1, due := [1], vin := 47500, above := [(1, 3)] }

/-- PWR_STATE written, and a job of its own at work. -/
def jobAtWork : State := engine [(1, task 1 .running [])]

theorem witness_PowerIsManaged :
    ((core work.mod 0).inReset = false ∧ work.mod.pwr.idleUs ≠ 0 ∧ powered work.mod = true ∧ tileBusy work.mod 1 = false ∧ (cluster work.mod 1).gated = false ∧ (cluster { work.mod with clusters := [(1, { gated := true })] } 1).gated = true) ∧
    (wholeWrite (whole 0) = true ∧ AoReachable work.mod 0xD00000 ∧ AoReachable (supplied { state := 2 }).mod 0xD00000 ∧ AoReachable jobAtWork.mod 0xD00000 ∧ (supplied { state := 2 }).mod.pwr.state = 2 ∧ (supplied { state := 3 }).mod.pwr.state = 3 ∧ AoReachable (supplied { state := 3 }).mod 0xD00000 ∧ (supplied { state := 2 }).mod.hq.recs = [] ∧ (jobAtWork.mod.pwr.state = 0 ∧ ∃ e ∈ jobAtWork.mod.hq.recs, e.2.active = true ∧ e.2.job ≠ 0) ∧
      (work.mod.pwr.state = 0 ∧ ¬ ∃ e ∈ work.mod.hq.recs, e.2.active = true ∧ e.2.job ≠ 0)) ∧
    ((supplied { state := 2, waking := true }).mod.pwr.state = 2 ∧ (supplied { state := 2, waking := true }).mod.pwr.waking = true) ∧
    (work.mod.pwr.aoOn = true ∧ work.mod.pwr.switchOpen = false ∧ work.mod.pwr.down = false ∧ LevelOk work.mod.pwr ∧ LevelOk shedding) := by
  unfold AoReachable
  refine ⟨by decide +kernel, ?_, by decide +kernel, rfl, rfl, rfl, by unfold LevelOk; decide +kernel, by unfold LevelOk; decide +kernel⟩
  exact ⟨rfl, ⟨rfl, rfl, rfl⟩, ⟨rfl, rfl, by decide +kernel⟩, by decide +kernel, rfl, rfl, ⟨rfl, rfl, by decide +kernel⟩, rfl, ⟨rfl, ⟨_, List.mem_cons_self .., by decide +kernel⟩⟩, rfl, fun ⟨e, h, _⟩ => nomatch h⟩

theorem witness_PowerIsManaged_sheds :
    (∀ mv ∈ [47999, 39999], (∃ n x, 1 ≤ n ∧ n ≤ 5 ∧ n ∉ work.mod.pwr.due ∧ dwell work.mod mv n = some x ∧ 10000 = x + 10000) ∧ ∀ n x, 1 ≤ n → n ≤ 5 → n ∉ work.mod.pwr.due → dwell work.mod mv n = some x → 10000 ≤ x + 10000) ∧
    (dwell work.mod 39999 5 = some 0 ∧ dwell work.mod 40000 5 = none ∧ timeTo work.mod 10000 = 10000) ∧
    ((∃ n x, leaving (supplied shedding).mod 49000 n = some x ∧ 10003 = x + 10000) ∧ ∀ n x, leaving (supplied shedding).mod 49000 n = some x → 10003 ≤ x + 10000) := by
  refine ⟨?_, by decide +kernel, ⟨1, 3, by decide +kernel⟩, ?_⟩
  · intro mv hm
    refine ⟨?_, fun n x _ _ _ _ => by omega⟩
    simp only [List.mem_cons, List.mem_nil_iff, or_false] at hm
    rcases hm with rfl | rfl <;> exact ⟨1, 0, by decide +kernel⟩
  · intro n x h
    unfold leaving at h
    split at h
    · rename_i hn
      have : n = 1 := by simpa [supplied, shedding] using hn.1
      subst this
      have : (3 : Nat) = x := by simpa [supplied, shedding, tblFind] using h
      omega
    · cases h

theorem witness_PowerIsManaged_steps :
    (∀ p ∈ [({ capEn := true } : Power), { capEn := true, capUnder := 9 }, { capEn := true, capUnder := 9, capSteps := 2, capClk := 700 }, { capEn := true, capUnder := 9, capSteps := 1, capIssue := 95 }],
      (supplied p).mod.pwr.aoOn = true ∧ (supplied p).mod.pwr.down = false ∧ (supplied p).mod.pwr.capEn = true ∧ (supplied p).mod.pwr.watts.toNat = 5000) ∧
    ((supplied { capUnder := 9 }).mod.pwr.capSteps = 0 ∧ 9 ≤ (supplied { capUnder := 9 }).mod.pwr.capUnder ∧ work.mod.pwr.capUnder < 9 ∧ 800 ≤ work.mod.pwr.capClk ∧ 100 * 4899 < 98 * 5000 ∧ 98 * 5000 ≤ 100 * 4900) ∧
    (∀ x ∈ [none, some 0, some 5], (supplied { thermFrom := x }).mod.pwr.aoOn = true ∧ (supplied { thermFrom := x }).mod.pwr.down = false ∧ (supplied { thermFrom := x }).mod.pwr.thermFrom = x ∧ (supplied { thermFrom := x }).mod.pwr.temps = []) ∧
    ((supplied {}).mod.now / 1000000 + 1) * 1000000 < 5 + 10000000 := by
  exact ⟨by decide +kernel, by decide +kernel, by decide +kernel, by decide +kernel⟩

theorem witness_PowerIsManaged_trips :
    (SensorAt { temps := [(64, 1520)] } 1520 1360 ∧ SensorAt { temps := [(32, 1360)] } 1520 1360 ∧ ¬ SensorAt work.mod.pwr 1520 1360) ∧
    ((supplied { tripFrom := some 4 }).mod.pwr.tripFrom = some 4 ∧ (supplied { tripFrom := some 4 }).mod.pwr.aoOn = true ∧ (supplied { tripFrom := some 4 }).mod.pwr.down = false) ∧
    (61000 < (61001 : BitVec 16).toNat ∧ work.mod.pwr.switchOpen = false ∧ (59999 : BitVec 16).toNat < 60000 ∧ (supplied { switchOpen := true, aoOn := false }).mod.pwr.switchOpen = true ∧ (supplied { switchOpen := true, aoOn := false }).mod.pwr.aoOn = false) ∧
    (let s := supplied { down := true, goodFrom := some 5 }
     s.mod.pwr.goodFrom = some 5 ∧ s.mod.pwr.aoOn = true ∧ s.mod.pwr.switchOpen = false ∧ s.mod.pwr.down = true ∧ s.mod.pwr.state ≠ 3 ∧ s.mod.pwr.tripped = false ∧ ∀ r ∈ s.mod.rcv.resets, r.d ≠ .module) := by
  exact ⟨⟨⟨64, 1520, by decide +kernel⟩, ⟨32, 1360, by decide +kernel⟩, fun ⟨i, x, h, _⟩ => nomatch h⟩, by decide +kernel, by decide +kernel, by decide +kernel⟩

/-! ## Boot and attestation -/

section Forge

open MlDsa (Poly q gamma1 beta rows cols ntt invNtt dot ball expandA chunksOf norm useHint commitment representative unpackHints)

/-! ### A key of zeros, whose signature of any message can be written down: t of the key is zero, so the commitment does not depend on the challenge. -/

def nulls (n : Nat) : List Byte := List.replicate n 0
def zeroPoly : Poly := List.replicate 256 0
def zeroKey : List Byte := nulls 1952

/-- The commitment to the zero vector, z = 0 packed, no hints. -/
def forge (msg : List Byte) : List Byte :=
  commitment (representative (digest zeroKey) [] msg) (List.replicate 6 zeroPoly) ++ ((List.replicate 640 (toBytes 5 0x8000080000)).flatten ++ nulls 61)

theorem mul_zeroPoly (a : Poly) (h : a.length = 256) : MlDsa.mul a zeroPoly = zeroPoly := by
  refine List.eq_replicate_iff.mpr ⟨(zip_length _ _ _ (h.trans List.length_replicate.symm)).trans h, fun b hb => ?_⟩
  obtain ⟨i, hi, rfl⟩ := List.mem_iff_getElem.mp hb
  simp only [MlDsa.mul, zeroPoly, List.getElem_zipWith, List.getElem_replicate, Nat.mul_zero, Nat.zero_mod]

theorem dot_zero (a : List Poly) (h : a.length = 5) (hp : ∀ p ∈ a, p.length = 256) : dot a (List.replicate 5 zeroPoly) = zeroPoly := by
  match a, h with
  | [a, b, c, d, e], _ =>
    simp only [List.mem_cons, List.mem_nil_iff, or_false, forall_eq_or_imp, forall_eq] at hp
    obtain ⟨ha, hb, hc, hd, he⟩ := hp
    show [MlDsa.mul a zeroPoly, MlDsa.mul b zeroPoly, MlDsa.mul c zeroPoly, MlDsa.mul d zeroPoly, MlDsa.mul e zeroPoly].foldl MlDsa.add zeroPoly = zeroPoly
    rw [mul_zeroPoly _ ha, mul_zeroPoly _ hb, mul_zeroPoly _ hc, mul_zeroPoly _ hd, mul_zeroPoly _ he]
    decide +kernel

theorem forge_verifies (msg : List Byte) : MlDsa.verify zeroKey [] msg (forge msg) = true := by
  have hc : (commitment (representative (digest zeroKey) [] msg) (List.replicate 6 zeroPoly)).length = 48 := shake256_length ..
  have take : (forge msg).take 48 = commitment (representative (digest zeroKey) [] msg) (List.replicate 6 zeroPoly) := List.take_left' hc
  have drop : (forge msg).drop 48 = (List.replicate 640 (toBytes 5 0x8000080000)).flatten ++ nulls 61 := List.drop_left' hc
  have drop' : (forge msg).drop 3248 = nulls 61 := by
    rw [show 3248 = 48 + 3200 from rfl, ← List.drop_drop, drop]
    exact List.drop_left' (by decide +kernel)
  have len : (forge msg).length = 3309 := by
    simp only [forge, List.length_append, hc]
    rw [show (List.replicate 640 (toBytes 5 0x8000080000)).flatten.length = 3200 by decide +kernel]; rfl
  have hz : (chunksOf 640 cols ((List.replicate 640 (toBytes 5 0x8000080000)).flatten ++ nulls 61)).map (fun d => (MlDsa.unpack 20 d).map (fun x => (q + gamma1 - x) % q)) = List.replicate 5 zeroPoly := by decide +kernel
  have ht : (chunksOf 320 rows (zeroKey.drop 32)).map (fun d => ntt ((MlDsa.unpack 10 d).map (fun x => x * 8192 % q))) = List.replicate 6 zeroPoly := by decide +kernel
  have hh : unpackHints (nulls 61) = some (List.replicate 6 (List.replicate 256 false)) := by decide +kernel
  have hn : (List.replicate 5 zeroPoly).map ntt = List.replicate 5 zeroPoly := by decide +kernel
  have hw : List.zipWith (fun row t => invNtt (MlDsa.sub (dot row (List.replicate 5 zeroPoly)) (MlDsa.mul (ntt (ball ((forge msg).take 48))) t))) (expandA (zeroKey.take 32)) (List.replicate 6 zeroPoly) = List.replicate 6 zeroPoly := by
    have hl : (expandA (zeroKey.take 32)).length = 6 := by simp [expandA, rows]
    have hp := expandA_poly (zeroKey.take 32)
    generalize expandA (zeroKey.take 32) = a at hl hp
    have hm := mul_zeroPoly _ (ntt_length _ (ball_length ((forge msg).take 48)))
    generalize ntt (ball ((forge msg).take 48)) = c at hm
    refine List.eq_replicate_iff.mpr ⟨by simp [hl], fun b hb => ?_⟩
    obtain ⟨i, hi, rfl⟩ := List.mem_iff_getElem.mp hb
    have hi' : i < a.length := by simp at hi; omega
    obtain ⟨h5, hq⟩ := hp a[i] (List.getElem_mem ..)
    simp only [List.getElem_zipWith, List.getElem_replicate, dot_zero _ h5 hq, hm]
    decide +kernel
  unfold MlDsa.verify
  rw [take] at hw
  simp only [drop, drop', hz, ht, hh, hn, hw, len, take]
  have hu : List.zipWith (fun h p => List.zipWith useHint h p) (List.replicate 6 (List.replicate 256 false)) (List.replicate 6 zeroPoly) = List.replicate 6 zeroPoly := by decide +kernel
  have hb : ((List.replicate 5 zeroPoly).map norm).all (fun n => decide (n + beta < gamma1)) = true := by decide +kernel
  rw [hu, hb, beq_self_eq_true]
  decide +kernel

/-- The digest as a fuse holds it. -/
def fuseOf (d : List Byte) : BitVec 512 := BitVec.ofNat 512 (ofBytes (digest d))

theorem fuseOf_bytes (d : List Byte) : toBytes 64 (fuseOf d).toNat = digest d := by
  have hl : (digest d).length = 64 := shake256_length ..
  have hb := ofBytes_lt (digest d)
  have := toBytes_ofBytes (digest d)
  rw [hl] at hb this
  rw [fuseOf, BitVec.toNat_ofNat, Nat.mod_eq_of_lt (by omega), this]

/-- SHAKE256 of no bytes, 64 bytes of it (FIPS 202). -/
def emptyDigest : List Byte :=
  toBytes 64 0xBEC4B7B3AC2E294086B49A47491C82FCF692B5679D0105CB00F2C0D8DDC45DD72F76D56E64270CB5821BB862EA52CD3F24EB3E74EB3F3B23138DA80B2BDDB946


/-- SHAKE256 of no bytes (FIPS 202). -/
theorem test_shake256 : digest [] = emptyDigest := by decide +kernel

/-- A manifest of key slot 0 up to its signature: the firmware component, of no bytes, with security version 5. -/
def manifestHead : List Byte := [0x4D, 0x46, 0x4E, 0x54, 1, 0, 0, 1] ++ nulls 8 ++ zeroKey ++ [1, 0, 5] ++ nulls 13 ++ emptyDigest
def manifestText : List Byte := manifestHead.take 2047
def manifestBytes : List Byte := manifestHead ++ forge (digest manifestText)
/-- What it reads as. -/
def manifestRead : Manifest :=
  { keySlot := 0, key := zeroKey, comps := [{ type := 1, svn := 5, off := 0, len := 0, digest := emptyDigest }], signed := manifestText, signature := forge (digest manifestText), whole := manifestBytes }

theorem forge_length (msg : List Byte) : (forge msg).length = 3309 := by
  have hc : (commitment (representative (digest zeroKey) [] msg) (List.replicate 6 zeroPoly)).length = 48 := shake256_length ..
  simp only [forge, List.length_append, hc]
  rw [show (List.replicate 640 (toBytes 5 0x8000080000)).flatten.length = 3200 by decide +kernel]; rfl

theorem head_length : manifestHead.length = 2048 := by decide +kernel

/-- A source that gives the bytes of the manifest. -/
def Gives (get : Nat → Nat → List Byte) : Prop := ∀ o n, o + n ≤ 5357 → get o n = (manifestBytes.drop o).take n

theorem head_of {get : Nat → Nat → List Byte} (h : Gives get) (o n : Nat) (hn : o + n ≤ 2048) : get o n = (manifestHead.drop o).take n := by
  rw [h o n (by omega), manifestBytes, List.drop_append_of_le_length (by rw [head_length]; omega), List.take_append_of_le_length (by rw [List.length_drop, head_length]; omega)]

theorem manifest_read {get : Nat → Nat → List Byte} (h : Gives get) : readManifest get = some manifestRead := by
  have g := head_of h
  have sig : get 2048 3309 = forge (digest manifestText) := by
    rw [h 2048 3309 (Nat.le_refl 5357), manifestBytes, List.drop_left' head_length]
    exact List.take_of_length_le (Nat.le_of_eq (forge_length _))
  have whole : get 0 5357 = manifestBytes := by
    have len : manifestBytes.length = 5357 := by simp only [manifestBytes, List.length_append, forge_length, head_length]
    rw [h 0 5357 (by omega), List.drop_zero]
    exact List.take_of_length_le (Nat.le_of_eq len)
  have count : numAt get 7 1 = 1 := by rw [numAt, g 7 1 (by omega)]; decide +kernel
  have at0 : get 0 4 = [0x4D, 0x46, 0x4E, 0x54] := (g 0 4 (by omega)).trans (by decide +kernel)
  have at4 : get 4 1 = [1] := (g 4 1 (by omega)).trans (by decide +kernel)
  have at5 : get 5 1 = [0] := (g 5 1 (by omega)).trans (by decide +kernel)
  have at6 : get 6 1 = [0] := (g 6 1 (by omega)).trans (by decide +kernel)
  have at8 : get 8 8 = nulls 8 := (g 8 8 (by omega)).trans (by decide +kernel)
  have at16 : get 16 1952 = zeroKey := (g 16 1952 (by omega)).trans (by decide +kernel)
  have text : get 0 2047 = manifestText := g 0 2047 (by omega)
  have comp : readComponent get 0 = { type := 1, svn := 5, off := 0, len := 0, digest := emptyDigest } := by
    simp only [readComponent, numAt, Nat.mul_zero, Nat.add_zero, Nat.reduceAdd]
    rw [g 1968 2 (by omega), g 1970 1 (by omega), g 1972 4 (by omega), g 1976 4 (by omega), g 1984 64 (by omega)]
    decide +kernel
  have at1971 : get 1971 1 = [0] := (g 1971 1 (by omega)).trans (by decide +kernel)
  have at1980 : get 1980 4 = nulls 4 := (g 1980 4 (by omega)).trans (by decide +kernel)
  unfold readManifest
  rw [count]
  simp only [show List.range 1 = [0] from rfl, List.map_cons, List.map_nil, List.flatMap_cons, List.flatMap_nil, Nat.mul_zero, Nat.add_zero, Nat.mul_one, Nat.reduceAdd, numAt, at0, at4, at5, at6, at8, at16, text, comp, at1971, at1980, sig, whole]
  exact if_pos (by decide +kernel)

/-- Fuses with the key's digest. -/
def zeroFuses : Vector (BitVec 512) 4 := Vector.ofFn (fun k => if k.val = 0 then fuseOf zeroKey else 0)

theorem manifest_signed (x : Sec) (h : x.keyHash = zeroFuses) (hr : x.revoked = 0) : manifestSigned x manifestRead = true := by
  have hk : toBytes 64 (x.keyHash.getD 0 0).toNat = digest zeroKey := by rw [h]; exact fuseOf_bytes zeroKey
  simp only [manifestSigned, manifestRead, hk, hr, forge_verifies, beq_self_eq_true, Bool.true_and]
  decide +kernel

theorem component_ok {get : Nat → Nat → List Byte} (h : Gives get) : componentOk get { type := 1, svn := 5, off := 0, len := 0, digest := emptyDigest } = true := by
  unfold componentOk
  rw [h 0 0 (by omega)]
  exact beq_iff_eq.mpr test_shake256

/-- Bytes placed in a table from an address on. -/
def placed (a : Nat) (d : List Byte) : List (Nat × Byte) := (List.range d.length).map (fun i => (a + i, d.getD i 0))

theorem tblFind_placed (d : List Byte) : ∀ (a k : Nat) (r : Tbl Byte), a ≤ k → k < a + d.length → tblFind (placed a d ++ r) k = some (d.getD (k - a) 0) := by
  have shift : ∀ (b : Byte) t a, placed a (b :: t) = (a, b) :: placed (a + 1) t := by
    intro b t a
    simp only [placed, List.length_cons, List.range_succ_eq_map, List.map_cons, List.map_map, Nat.add_zero, List.getD_cons_zero]
    congr 1
    exact List.map_congr_left (fun i _ => by simp only [Function.comp, List.getD_cons_succ, Nat.succ_eq_add_one, Prod.mk.injEq, and_true]; omega)
  induction d with
  | nil => intro a k r h1 h2; simp only [List.length_nil] at h2; omega
  | cons b t ih =>
    intro a k r h1 h2
    rw [shift]
    by_cases e : a = k
    · subst e; simp [tblFind]
    · simp only [List.cons_append, tblFind, e, if_false]
      rw [ih (a + 1) k r (by omega) (by simp only [List.length_cons] at h2; omega), show k - a = k - (a + 1) + 1 by omega, List.getD_cons_succ]

theorem take_drop_getD (d : List Byte) (o n : Nat) (h : o + n ≤ d.length) : (List.range n).map (fun i => d.getD (o + i) 0) = (d.drop o).take n := by
  apply List.ext_getElem
  · simp; omega
  · intro i h1 h2
    simp only [List.length_map, List.length_range] at h1
    simp only [List.getElem_map, List.getElem_range, List.getElem_take, List.getElem_drop, List.getD_eq_getElem?_getD, List.getElem?_eq_getElem (show o + i < d.length by omega), Option.getD_some]

theorem bytes_length : manifestBytes.length = 5357 := by rw [manifestBytes, List.length_append, forge_length, head_length]

theorem tblFind_skip (p r : Tbl Byte) (k : Nat) (h : ∀ e ∈ p, e.1 ≠ k) : tblFind (p ++ r) k = tblFind r k := by
  induction p with
  | nil => rfl
  | cons e p ih =>
    have : ¬ e.1 = k := h e (List.mem_cons_self ..)
    simp only [List.cons_append, tblFind, this, if_false]
    exact ih (fun e he => h e (List.mem_cons_of_mem _ he))

/-- A store with the manifest in a slot, and bytes elsewhere, gives it. -/
theorem store_gives (x : Sec) (s : Nat) (p : Tbl Byte) (h : x.store = p ++ placed (slotBase s) manifestBytes) (hp : ∀ e ∈ p, e.1 < slotBase s ∨ slotBase s + 5357 ≤ e.1) : Gives (fun o n => storeBytes' x (slotBase s + o) n) := by
  intro o n hn
  rw [← take_drop_getD _ _ _ (by rw [bytes_length]; exact hn)]
  refine List.map_congr_left (fun i hi => ?_)
  have := List.mem_range.mp hi
  rw [h, tblFind_skip _ _ _ (fun e he => by have := hp e he; omega), ← List.append_nil (placed _ _), tblFind_placed _ _ _ _ (by omega) (by rw [bytes_length]; omega), Option.getD_some]
  congr 1
  omega

theorem slot_accepted (x : Sec) (s : Nat) (p : Tbl Byte) (h : x.store = p ++ placed (slotBase s) manifestBytes) (hp : ∀ e ∈ p, e.1 < slotBase s ∨ slotBase s + 5357 ≤ e.1) (hk : x.keyHash = zeroFuses) (hr : x.revoked = 0) (hc : x.fuseCtr = []) :
    slotManifest x s = some manifestRead ∧ romCheck x s = 0 := by
  have g := store_gives x s p h hp
  have m : slotManifest x s = some manifestRead := manifest_read g
  have v : svnOk x manifestRead = true := by simp only [svnOk, hc]; decide +kernel
  refine ⟨m, ?_⟩
  simp only [romCheck, m, manifest_signed x hk hr, v, Bool.not_true, Bool.false_eq_true, if_false, show manifestRead.comp 1 = some { type := 1, svn := 5, off := 0, len := 0, digest := emptyDigest } from rfl]
  exact if_pos (component_ok g)

theorem cellFind_placed (d : List Byte) (a k : Nat) (h1 : a ≤ k) (h2 : k < a + d.length) : cellFind (placed a d) k = some (d.getD (k - a) 0) := by
  have e : ∀ t : List Host.Cell, cellFind t k = tblFind t k := by
    intro t
    induction t with
    | nil => rfl
    | cons c t ih => simp only [cellFind, tblFind, ih]
  rw [e, ← List.append_nil (placed a d)]
  exact tblFind_placed d a k [] h1 h2

theorem mem_gives (m : Mod) (h : m.mem.cells = placed m.sec.updAddr.toNat manifestBytes) : Gives (stagedGet m) := by
  have e : ∀ n a, m.mem.bytes a n = (List.range n).map (fun i => m.mem.byte (a + i)) := by
    intro n
    induction n with
    | zero => exact fun _ => rfl
    | succ n ih =>
      intro a
      simp only [Memory.bytes, List.range_succ_eq_map, List.map_cons, List.map_map, Nat.add_zero, ih]
      congr 1
      exact List.map_congr_left (fun i _ => by simp only [Function.comp, Nat.succ_eq_add_one]; congr 1; omega)
  intro o n hn
  rw [← take_drop_getD _ _ _ (by rw [bytes_length]; exact hn), stagedGet, e]
  refine List.map_congr_left (fun i hi => ?_)
  have := List.mem_range.mp hi
  rw [Memory.byte, h, cellFind_placed _ _ _ (by omega) (by rw [bytes_length]; omega), Option.getD_some]
  congr 1
  omega

/-- No bad line in a memory that records no errors. -/
theorem stagedOk_of (m : Mod) (h : m.mem.check = []) (ha : m.sec.updAddr.toNat + slotSize ≤ 0x030000000000) : stagedOk m = true := by
  have : ∀ a, lineBad m a = false := fun a => by simp only [lineBad, Memory.decode, h]; rfl
  simp only [stagedOk, this, Bool.and_eq_true, List.all_eq_true]
  exact ⟨decide_eq_true ha, fun _ _ => rfl⟩

theorem staged_accepted_of (m : Mod) (h : m.mem.cells = placed m.sec.updAddr.toNat manifestBytes) (hc : m.mem.check = []) (ha : m.sec.updAddr.toNat + slotSize ≤ 0x030000000000)
    (hk : m.sec.keyHash = zeroFuses) (hr : m.sec.revoked = 0) (hf : m.sec.fuseCtr = []) : stagedAccepted m = true := by
  have g := mem_gives m h
  have v : svnOk m.sec manifestRead = true := by simp only [svnOk, hf]; decide +kernel
  simp only [stagedAccepted, stagedOk_of m hc ha, manifest_read g, manifest_signed m.sec hk hr, v, Bool.true_and]
  exact List.all_eq_true.mpr (fun c hc => by obtain rfl := List.mem_singleton.mp hc; exact component_ok g)

end Forge

/-! ### States -/

/-- A slot whose first bytes are zeros, so that no manifest stands in it. -/
def emptySlot (s : Nat) : Tbl Byte := placed (slotBase s) (nulls 4)

/-- Fuses that hold the key's digest, the manifest in slot `n`, and none in the other. -/
def fused (n : Nat) : Sec := { store := emptySlot (1 - n) ++ placed (slotBase n) manifestBytes, keyHash := zeroFuses, seed := 1 }
/-- No manifest. -/
def unprogrammed : Sec := { store := emptySlot 0 ++ emptySlot 1 }

theorem fused_accepted (n : Nat) (hn : n ≤ 1) : slotManifest (fused n) n = some manifestRead ∧ romCheck (fused n) n = 0 := by
  refine slot_accepted _ n (emptySlot (1 - n)) rfl ?_ rfl rfl rfl
  have : n = 0 ∨ n = 1 := by omega
  rcases this with rfl | rfl <;> decide +kernel

/-- The state of the tests with this boot store, in a stage. -/
def secured (x : Sec) (stage : BitVec 4) : State := { work with mod := { work.mod with sec := { x with stage := stage } } }

/-- A module reset at the end of its drain, with a boot store. -/
def booting (x : Sec) : State := { (under up [resetOf .module true]) with mod := { (under up [resetOf .module true]).mod with sec := x } }

/-- READY after a boot of slot 0, SEC_COMMIT not written, its interfaces open. -/
def booted : State := secured { fused 0 with i3cAddr := some 9 } 3

/-- An update staged at 0x20000. -/
def stagedAs (l : List Host.Cell) : State := { booted with mod := { booted.mod with sec := { booted.mod.sec with updAddr := 0x20000, updBusy := true }, mem := { cells := l } } }
def staged (good : Bool) : State := stagedAs (if good then placed 0x20000 manifestBytes else [])

theorem stagedAs_cells (l : List Host.Cell) : (stagedAs l).mod.mem.cells = l ∧ (stagedAs l).mod.sec.updAddr.toNat = 0x20000 := ⟨rfl, rfl⟩

theorem staged_accepted : stagedAccepted (staged true).mod = true := staged_accepted_of _ (by rw [staged, if_pos rfl, (stagedAs_cells _).1, (stagedAs_cells _).2]) rfl (by rw [staged, (stagedAs_cells _).2]; decide) rfl rfl rfl

theorem notStaged : stagedAccepted (staged false).mod = false := by
  have e : readManifest (stagedGet (staged false).mod) = none := by decide +kernel
  unfold stagedAccepted
  rw [e]
  exact Bool.and_false _

/-- SEC_COMMIT written with go: counters named, slots to revoke. -/
def commitOf (revoke ctrs : Nat) : RegAccess := whole (BitVec.ofNat 64 (2 ^ 63 + revoke * 256 + ctrs))

/-- READY with a report under signature and what stands behind it, on the two interfaces. -/
def reporting (l : List Report) : State := { booted with mod := { booted.mod with sec := { booted.mod.sec with reports := l } } }
def signing : Report := { m := .i3c, mask := 1, nonce := List.replicate 32 7, body := some [1] }
def unlatched : Report := { signing with m := .doe false, body := none }

theorem witness_BootAndAttestation :
    (∀ b ∈ [true, false], let s := booting { fused 0 with updBusy := b }
      s.mod.rcv.resets.find? (fun e => e.d == .module && e.draining) = some (resetOf .module true) ∧ s.mod.pins.modReset = false ∧ drainWaits s.mod .module = false) ∧
    (∀ n ∈ [0, 1], (secured (fused n) 0).pending = [] ∧ (secured (fused n) 0).mod.pwr.aoOn = true ∧ (secured (fused n) 0).mod.pwr.down = false ∧ b1 (fused n).pref = 0) ∧
    (romCheck (fused 0) 0 = 0 ∧ slotManifest (fused 0) 0 = some manifestRead ∧ (manifestRead.comp 1).isSome = true ∧ (secured (fused 0) 1).mod.sec.slot = 0) ∧
    (romCheck (fused 1) 0 ≠ 0 ∧ romCheck (fused 1) 1 = 0) ∧ (romCheck unprogrammed 0 ≠ 0 ∧ romCheck unprogrammed 1 ≠ 0) ∧
    (∀ l ∈ [true, false], let s : State := { (under up [resetOf .module false]) with mod := { (under up [resetOf .module false]).mod with sec := { stage := 2 }, hq := { journalLost := l } } }
      s.mod.sec.stage = 2 ∧ s.mod.pwr.down = false ∧ s.mod.rcv.resets = [resetOf .module false] ∧ s.mod.hq.journalLost = l) := by
  refine ⟨?_, by decide +kernel, ⟨(fused_accepted 0 (by decide)).2, (fused_accepted 0 (by decide)).1, rfl, rfl⟩, ⟨by decide +kernel, (fused_accepted 1 (by decide)).2⟩, by decide +kernel, ?_⟩
  · exact fun b hb => ⟨by revert b; decide +kernel, by revert b; decide +kernel, by revert b; decide +kernel⟩
  · decide +kernel

theorem witness_BootAndAttestation_commits :
    (wholeWrite (commitOf 0 1) = true ∧ AoReachable booted.mod 0xE00010 ∧ AoReachable booted.mod 0xE00018 ∧ AoReachable booted.mod 0xE00080 ∧ booted.mod.sec.commitBusy = false) ∧
    ((commitOf 0 1).value.getLsbD 63 = true ∧ (whole 1).value.getLsbD 63 = false ∧ (∀ n ∈ [0, 15], (secured (fused 0) n).mod.sec.stage = n ∧ (secured (fused 0) n).mod.sec.commitBusy = false)) ∧
    (slotManifest booted.mod.sec booted.mod.sec.slot.toNat = some manifestRead ∧ booted.mod.sec.stage = 3 ∧ LeastSvn booted.mod.sec manifestRead 0 5 ∧ LeastSvn booted.mod.sec manifestRead 1 0) ∧
    (manifestRead.keySlot = 0 ∧ (commitOf 1 1).value.extractLsb' 8 4 = (1 : BitVec 4) ∧ (commitOf 2 1).value.extractLsb' 8 4 = (2 : BitVec 4) ∧ (commitOf 15 1).value.extractLsb' 8 4 = (15 : BitVec 4)) ∧
    8 ≤ ((0x800000000000000F : Word).extractLsb' 0 4).toNat := by
  unfold AoReachable LeastSvn
  exact ⟨by decide +kernel, by decide +kernel, ⟨(fused_accepted 0 (by decide)).1, rfl, Or.inl (by decide +kernel), Or.inr (by decide +kernel)⟩, by decide +kernel, by decide +kernel⟩

theorem witness_BootAndAttestation_updates :
    (∀ b ∈ [true, false], powered (staged b).mod = true ∧ (staged b).mod.sec.stage = 3 ∧ (staged b).mod.sec.updBusy = true) ∧ stagedAccepted (staged false).mod = false ∧ stagedAccepted (staged true).mod = true := by
  refine ⟨?_, notStaged, staged_accepted⟩
  exact fun b hb => ⟨by revert b; decide +kernel, by revert b; decide +kernel, by revert b; decide +kernel⟩

theorem witness_BootAndAttestation_messages :
    (∀ b ∈ [Mailbox.doe false, .i3c], MailFree booted.mod b ∧ MailFree (secured { fused 0 with i3cAddr := some 9 } 2).mod b) ∧ MailFree (secured { fused 0 with i3cAddr := some 9 } 15).mod .i3c ∧
    (IsMessage { box := .i3c, head := .message 9 0 } (.getCert { box := .i3c, head := .message 9 0 }) 2 0 ∧ IsMessage { box := .i3c, head := .discovery 0 } (.getCert { box := .i3c, head := .discovery 0 }) 2 0 ∧
      IsMessage { box := .doe false, head := .discovery 1 } (.getCert { box := .doe false, head := .discovery 1 }) 2 0) ∧
    (mailOpen work.mod .i3c = false ∧ (∀ r ∈ [signing, unlatched], mailOpen (reporting [r]).mod r.m = true ∧ ∃ e ∈ (reporting [r]).mod.sec.reports, e.m = r.m)) ∧
    (booted.mod.sec.stage = 3 ∧ (∀ n, n < 16 → (mrOf booted.mod.sec n).length = 64) ∧ ∀ r ∈ booted.mod.sec.reports, r.body.isSome = true) ∧
    (MailFree (reporting [signing]).mod (.doe false) ∧ (reporting [signing]).mod.sec.reports ≠ [] ∧ ∀ r ∈ (reporting [signing]).mod.sec.reports, r.body.isSome = true) ∧
    ((reporting [signing]).mod.sec.reports = signing :: [] ∧ (reporting [signing, unlatched]).mod.sec.reports = signing :: [unlatched] ∧ signing.body = some [1] ∧ unlatched.body = none ∧ unlatched.nonce.length = 32 ∧
      ∀ n, n < 16 → (mrOf (reporting [signing, unlatched]).mod.sec n).length = 64) := by
  unfold MailFree IsMessage
  refine ⟨?_, ⟨rfl, fun _ h => nomatch h⟩, ⟨Or.inr (Or.inl ⟨rfl, rfl, rfl⟩), Or.inr (Or.inl ⟨rfl, rfl, rfl⟩), Or.inr (Or.inl ⟨rfl, rfl, rfl⟩)⟩, ⟨rfl, ?_⟩, ⟨rfl, by decide +kernel, fun _ h => nomatch h⟩, ?_, rfl, rfl, rfl, rfl, rfl, by decide +kernel⟩
  · intro b hb
    simp only [List.mem_cons, List.mem_nil_iff, or_false] at hb
    rcases hb with rfl | rfl <;> exact ⟨⟨rfl, fun _ h => nomatch h⟩, rfl, fun _ h => nomatch h⟩
  · intro r hr
    simp only [List.mem_cons, List.mem_nil_iff, or_false] at hr
    rcases hr with rfl | rfl <;> exact ⟨rfl, _, List.mem_cons_self .., rfl⟩
  · exact ⟨⟨rfl, by decide +kernel⟩, nofun, by decide +kernel⟩

theorem witness_BootAndAttestation_pins : work.mod.pwr.aoOn = true ∧ work.mod.pwr.down = false ∧ work.mod.pins.jtag ≠ .extest ∧ { work.mod.pins with jtag := .extest }.jtag = .extest := by decide +kernel

/-! ## The machine as a whole -/

/-- A write of HBM by port 0 in front of the queue, and a clock gate behind it. -/
def queued : State := { host true 0 with pending := [.hostBar4Access false 0x1000 (.write [1, 2] false) {}, .nop iss .s] }

/-- The state after a step. -/
def after (s : State) : State := match step s with
  | .next t => t
  | _ => s

theorem witness_StepRunsFront :
    queued.pending = .hostBar4Access false 0x1000 (.write [1, 2] false) {} :: [.nop iss .s] ∧ (work.pending = [] ∧ work.mod.sec.stage ≠ 0 ∧ work.mod.sec.stage ≠ 1) ∧
    ∀ n ∈ [0, 1], (secured unprogrammed n).pending = [] ∧ (secured unprogrammed n).mod.pwr.aoOn = true ∧ (secured unprogrammed n).mod.pwr.down = false ∧ (secured unprogrammed n).mod.sec.stage = n := ⟨rfl, by decide +kernel, fun _ _ => ⟨rfl, rfl, rfl, rfl⟩⟩

theorem step_queued : step queued = .next (after queued) := by
  obtain ⟨o, ho⟩ : ∃ o, step queued = o := ⟨_, rfl⟩
  have hs : stops o = false := by rw [← ho]; decide +kernel
  unfold after
  rw [ho]
  cases o with
  | next t => rfl
  | fault f => cases hs
  | refused r => cases hs

theorem witness_CarriedCommandsStayCarried : (∀ c ∈ queued.pending, c.wf = true) ∧ step queued = .next (after queued) ∧ (after queued).pending = [.nop iss .s] := ⟨by decide +kernel, step_queued, by decide +kernel⟩

theorem witness_CanonicalMemoryStaysCanonical : queued.mod.mem.wf = true ∧ step queued = .next (after queued) ∧ (after queued).mod.mem.cells = [(0x1000, 1), (0x1001, 2)] := ⟨by decide +kernel, step_queued, by decide +kernel⟩

/-! ## The decoder and the well-formedness checks -/

/-- No row of the table has bits, so no word spells a command. -/
theorem test_no_word_spells_a_command : ∀ n ∈ [0, 8, 64], ∀ w ∈ [0, 1, 0xFFFFFFFFFFFFFFFF], decodeTableWord n w = none := by decide

/-- A command that each check refuses (R13, R497, R503, R513, R386, R487, R604, R542, R674). -/
theorem test_wf_refuses : 
    ∀ c ∈ [Instr.setupRegisterWrite .firmware 0 3 0, .readClearFieldRead .firmware 0 16, .fabIdWrite { at_ := 2, size := 4, value := 0 }, .fabIdWrite { at_ := 8, size := 1, value := 0 }, .hbmPlaceWrite 0 { at_ := 0, size := 3, value := 0 },
         .nak 96 0, .codewordReceive 0 { zeros 0 0 0 true with bytes := [] }, .codewordReceive 96 (zeros 0 0 0 true), .wr 0 { wrPacket with len := 5 } {}, .wr 0 { wrPacket with len := 257, data := List.replicate 257 0 } {},
         .rd 0 { wrPacket with type := 2 } none {}, .kerbDrainEnd (.link 96), .linkReset 96, .dataCacheFill 0 0x1020 {}, .sramPatrolScrub 0 0x1004 none, .hbmPatrolScrub 0 0x1020 [],
         .peerLostDetect 12, .prsntN 12 true, .hostBar4Access false 0 (.read 0) {}, .hostBar4Access false 0 (.write [] false) {}, .getReport { box := .i3c, head := .message 3 34 } 0 [1, 2], .entdaa 7, .setdasa 0, .submissionDoorbell false 0 5 0], c.wf = false := by decide +kernel

/-- Their neighbours that an interface carries. -/
theorem test_wf_admits : ∀ c ∈ [Instr.setupRegisterWrite .firmware 0 4 0, .fabIdWrite { at_ := 4, size := 4, value := 0 }, .nak 95 0, .codewordReceive 95 (zeros 0 0 0 true), .wr 0 wrPacket {}, .rd 0 { wrPacket with type := 2, data := [] } none {}, .kerbDrainEnd (.link 95),
    .dataCacheFill 0 0x1040 {}, .sramPatrolScrub 0 0x1008 none, .peerLostDetect 11, .hostBar4Access false 0 (.read 1) {}, .getReport { box := .i3c, head := .message 3 34 } 0 (List.replicate 32 0), .entdaa 8], c.wf = true := by decide +kernel

/-! ## Values that the spec works out -/

/-- The results in flight for thread 0 after a slot command from `s`. -/
def results (c : Instr) (s : State) : List Write := match exec c s with
  | .next t => (ctx t.mod 0).inflight.map Landing.w
  | _ => []

/-- Thread 0 with the registers of the examples of file 04. -/
def sample : State := at_ { xt with s := [(1, 0x1122334455667788), (3, 0x0001020304050607), (4, 0x8877665544332211), (7, 0x54), (8, 0xC004000000000000), (9, 0xBFD999999999999A), (11, 0x43E158E460913D00), (12, 0x7FF8000000000000)], strict := true }

/-- Byte reversal and field extraction (file 04, the example after R128). -/
theorem test_bperm : results (.bperm iss 4 1 2 3) sample = [.s 4 0x8877665544332211] := by decide +kernel
theorem test_bfx : results (.bfx iss 5 4 60 3 1) sample = [.s 5 0xFFFFFFFFFFFFFFF8] ∧ results (.bfx iss 7 4 28 7 0) sample = [.s 7 0x54] := by decide +kernel
theorem test_bfi : results (.bfi iss 6 7 8 7 0) sample = [.s 6 0x5400] := by decide +kernel

/-- FCVT from FP64 to integers: -2.5, -0.4, 10^19 and a NaN (file 04, the table of the FCVT example). -/
theorem test_fcvt : (results (.fcvt iss 5 8 5 0) sample).head? = some (.s 5 0xFFFFFFFFFFFFFFFE) ∧ (results (.fcvt iss 5 8 6 0) sample).head? = some (.s 5 0) ∧ (results (.fcvt iss 5 9 5 0) sample).head? = some (.s 5 0) ∧
    (results (.fcvt iss 5 11 5 0) sample).head? = some (.s 5 0x7FFFFFFFFFFFFFFF) ∧ (results (.fcvt iss 5 11 6 0) sample).head? = some (.s 5 0x8AC7230489E80000) ∧ (results (.fcvt iss 5 12 6 0) sample).head? = some (.s 5 0xFFFFFFFFFFFFFFFF) := by decide +kernel

/-- The words of the example bundle of file 03, word 3 first. -/
def exampleBundle : Nat := (0xFA000202CA0001A2#64 ++ 0x2080042001020100#64 ++ 0x0000146100000000#64 ++ 0x0000000180500000#64 : BitVec 256).toNat

/-- QUIET, ADDI s11, s10, 1, VFMA.S under !p2, MMA.BF16 acc0, t0, t1, TLL t2, [0x0200 + sd1++] and BAR.ARRIVE 5 (file 03). -/
theorem test_bundle : decodeBundle 0 exampleBundle =
    { quiet := true, slots := [.ok (.add iss 11 10 (.imm 1)), .ok (.vfma { thread := 0, guard := { inv := true, pred := 2 } } .s { d := 2, a := 0, b := 1, c := 2, m := 0 }), .ok (.mma iss 2 0 0 1), .ok (.tll iss 2 { sd := 1, mode := 2, lm13 := 0x200 }), .ok (.barArrive iss 5)] } := by decide +kernel

/-- LOOPI 3 of level 0 with end 2 at 0x1000, and the back edges at 0x1040 with counts 2 and 0 (file 05). -/
theorem test_loopi : results (.loopi iss 3 0 2) work = [.lps 0 0x1020, .lpe 0 0x1040, .lpc 0 2 false] := by decide +kernel
theorem test_back_edge : backEdge { xt with lps := [(0, 0x1020)], lpe := [(0, 0x1040)], lpc := [(0, 2)] } 0x1040 1 = (0x1020, [.lpc 0 1 false]) ∧ backEdge { xt with lps := [(0, 0x1020)], lpe := [(0, 0x1040)] } 0x1040 1 = (0x1060, [.lpe 0 0]) := by decide +kernel

/-- The LNS16 multiply-accumulate of file 08, its TCVT to FP32, and the conversions to LNS16 of file 09, to nearest, toward zero and at the two draws next to the threshold. -/
theorem test_lns_mma : mmaCell true .lns16 0 1 0x40800000 { data := 0xC180, scale := 0 } { data := 0x4040, scale := 0 } = 0x3F22EC0C := by decide +kernel
theorem test_lns_to_fp32 : (cvtRow true .near (List.replicate 32 0) .lns16 .fp32 1 { data := 0xC180, scale := 0 }).data = 0xC03504F3 := by decide +kernel
theorem test_fp32_to_lns : (cvtRow true .near (List.replicate 32 0) .fp32 .lns16 1 { data := 0x3F802C67, scale := 0 }).data = 0x4001 ∧ (cvtRow true .zero [0] .fp32 .lns16 1 { data := 0x3F802C67, scale := 0 }).data = 0x4000 ∧
    (cvtRow true .stoch [32752] .fp32 .lns16 1 { data := 0x3F802C67, scale := 0 }).data = 0x4001 ∧ (cvtRow true .stoch [32753] .fp32 .lns16 1 { data := 0x3F802C67, scale := 0 }).data = 0x4000 ∧ (cvtRow true .near (List.replicate 32 0) .fp32 .lns16 1 { data := 0x3F22EC0C, scale := 0 }).data = 0x3F59 := by decide +kernel

/-- The MXFP4 block of file 08: 5.0, -0.7, 1.2, 2.6, -13.0, 0.3, 0.1, 9.0 and zeros. -/
theorem test_mxfp4 : cvtRow true .near (List.replicate 32 0) .fp32 .e2m1 32 { data := (0x41100000#32 ++ 0x3DCCCCCD#32 ++ 0x3E99999A#32 ++ 0xC1500000#32 ++ 0x40266666#32 ++ 0x3F99999A#32 ++ 0xBF333333#32 ++ 0x40A00000#32 : BitVec 256).toNat, scale := 0 } = { data := 0x600F3194, scale := 0x80 } := by decide +kernel

/-- The die-interleaved address of file 16: port 81, port offset 0x1_6802_0A40, stack 20; and the stack of cluster 0x5A of file 01. -/
theorem test_placement : portOf { place := [(5, 0x20)] } 0x021D40201A40 = (81, 0x168020A40) ∧ stackOf 81 = 20 ∧ stackOf 90 = 22 := by decide +kernel

/-- A torus of 8 x 8 x 16 modules. -/
def torus : Mod := { fab := { en := true, id := 291, sizes := 0x0F0707 } }

/-- The route from module 291 to 920 of file 17: bundle 1 at 291, bundle 3 at (0, 4, 4), bundle 5 at (0, 3, 4); in order 1 bundle 3 first. -/
theorem test_route : (nextHop torus 291 291 920 0 0).map Machine.bundleOf = some 1 ∧ (nextHop torus 291 288 920 0 0).map Machine.bundleOf = some 3 ∧ (nextHop torus 291 280 920 0 0).map Machine.bundleOf = some 5 ∧ (nextHop torus 291 291 920 1 0).map Machine.bundleOf = some 3 := by decide +kernel

/-! ## Single steps -/

/-- A division by zero is all ones, its remainder the dividend (R127). -/
theorem test_div_by_zero : results (.div iss true 9 2 0) work = [.s 9 0xFFFFFFFFFFFFFFFF] ∧ results (.rem iss true 9 2 0) work = [.s 9 7] := by decide +kernel

/-- An addition wraps, with a source that is the destination too. -/
theorem test_add_wraps : results (.add iss 3 3 (.imm 4)) work = [.s 3 1] := by decide +kernel

/-- An idle block passes a nanosecond (log 1, DESIGN CHOICE). -/
theorem test_idle : (after work).mod.now = 1 ∧ (after work).pending = [] := by decide +kernel

/-- The first 4 bytes of a read by a host are the bytes written before it (R542). -/
theorem test_host_reads : (match exec (.hostBar4Access false 0x1000 (.read 4) {}) (after queued) with | .next t => t.mod.answer | _ => .none) = .bytes 0 [1, 2, 0, 0] false := by decide +kernel

/-- DBG_RESET of core 2048 is refused with result 2 and starts nothing (R624). -/
theorem test_dbg_reset : (match exec (.dbgResetWrite (dbgReset true 1 2048)) work with | .next t => (t.mod.rcv.result, t.mod.rcv.resets.length) | _ => (0, 9)) = (2, 0) := by decide +kernel

/-- SETDASA gives the management interface its address (R674). -/
theorem test_setdasa : (match exec (.setdasa 9) work with | .next t => t.mod.sec.i3cAddr | _ => none) = some 9 := by decide +kernel

end Sys2Proof.Machine.Test
end

section
/-! SUPPORT. Fields of a word, as numbers and as bits. -/

namespace Sys2Proof.Machine

theorem bitOf_toNat {n : Nat} (v : BitVec n) (i : Nat) : bitOf v.toNat i = v.getLsbD i := by
  simp only [bitOf, BitVec.getLsbD, Nat.testBit_eq_decide_div_mod_eq]; rfl

theorem ofNat_fld {w : Nat} (n : Nat) (v : BitVec w) (lo : Nat) : BitVec.ofNat n (fld v.toNat lo n) = v.extractLsb' lo n := by
  apply BitVec.eq_of_toNat_eq
  simp [fld, BitVec.extractLsb'_toNat, Nat.shiftRight_eq_div_pow]

theorem fld_toNat {w : Nat} (n : Nat) (v : BitVec w) (lo : Nat) : fld v.toNat lo n = (v.extractLsb' lo n).toNat := by
  simp [fld, BitVec.extractLsb'_toNat, Nat.shiftRight_eq_div_pow]

/-- The mask of a field keeps what the field holds. -/
theorem and_fieldMask (v : Word) (lo n : Nat) : v &&& w64 ((2 ^ n - 1) * 2 ^ lo) = w64 (fld v.toNat lo n * 2 ^ lo) := by
  apply BitVec.eq_of_getLsbD_eq
  intro i hi
  simp only [BitVec.getLsbD_and, BitVec.getLsbD_ofNat, hi, decide_true, Bool.true_and, fld, Nat.testBit_mul_two_pow, Nat.testBit_mod_two_pow, Nat.testBit_div_two_pow, Nat.testBit_two_pow_sub_one]
  by_cases h : lo ≤ i
  · simp [h, BitVec.getLsbD, Bool.and_comm]
  · simp [h]

/-- Disjoint parts of a word add up to what their masks keep together. -/
theorem and_add_and (v a b : Word) (h : a &&& b = 0) : (v &&& a) + (v &&& b) = v &&& (a ||| b) := by
  have hz : (v &&& a) &&& (v &&& b) = 0#64 := by
    rw [BitVec.and_assoc, ← BitVec.and_assoc a v b, BitVec.and_comm a v, BitVec.and_assoc v a b, h]; simp
  rw [BitVec.add_eq_or_of_and_eq_zero _ _ hz, BitVec.and_or_distrib_left]

theorem w64_add (a b : Nat) : w64 (a + b) = w64 a + w64 b := BitVec.ofNat_add a b

theorem w64_b1 (b : Bool) (n : Nat) : w64 (b1 b * n) = if b then w64 n else 0 := by
  cases b <;> simp [b1]

/-- One bit of a word, at its place. -/
theorem w64_bit (v : Word) (i : Nat) : w64 (b1 (bitOf v.toNat i) * 2 ^ i) = v &&& w64 (2 ^ i) := by
  have h : b1 (bitOf v.toNat i) = fld v.toNat i 1 := by
    rcases Nat.mod_two_eq_zero_or_one (v.toNat / 2 ^ i) with h | h <;> simp [b1, bitOf, fld, h]
  rw [h, ← and_fieldMask, Nat.pow_one, Nat.sub_eq_of_eq_add (show 2 = 1 + 1 from rfl), Nat.one_mul]

/-- The low half of a word, read as a word. -/
theorem setWidth_setWidth_half (v : Word) : (v.setWidth 32).setWidth 64 = v &&& 0xFFFFFFFF#64 := by
  have hf : w64 (fld v.toNat 0 32 * 2 ^ 0) = (v.setWidth 32).setWidth 64 := by
    apply BitVec.eq_of_toNat_eq; simp [fld]
  exact hf.symm.trans (and_fieldMask v 0 32).symm

end Sys2Proof.Machine
end

section
/-! SUPPORT. Control registers as a CRW lands (R52 to R58, R305, R320, R340, R349, R477). -/

namespace Sys2Proof.Machine

section

variable (m : Mod) (t : Nat) (v : Word)

theorem crRead_crLand_mask (h : v.toNat % 8 ≤ 4) : crRead (crLand m t 5 v) t 5 = v &&& 7#64 := by
  have hf : fld v.toNat 0 3 = v.toNat % 8 := by simp [fld]
  have hm : v &&& 7#64 = w64 (v.toNat % 8) := by simpa [hf] using and_fieldMask v 0 3
  simp [crRead, crLand, hf, h, hm]

theorem crLand_mask_kept (h : 4 < v.toNat % 8) : crLand m t 5 v = m := by
  have hf : fld v.toNat 0 3 = v.toNat % 8 := by simp [fld]
  simp [crLand, hf, Nat.not_le.mpr h]

theorem crRead_crLand_prio : crRead (crLand m t 0xC v) t 0xC = v &&& 1#64 := by
  simpa [crRead, crLand] using w64_bit v 0

theorem crRead_crLand_quantum : crRead (crLand m t 0xD v) t 0xD = (v.setWidth 32).setWidth 64 := by
  apply BitVec.eq_of_toNat_eq
  simp [crRead, crLand]

theorem crRead_crLand_share :
    crRead (crLand m t 0x12 v) t 0x12 = (v &&& 0x1007F01FF#64) ||| (if (core m (t / 4)).conf then 0x1000000000000#64 else 0) := by
  have hf : v &&& 0x1007F01FF#64 = w64 (b1 (bitOf v.toNat 32) * 2 ^ 32) + w64 (fld v.toNat 16 7 * 2 ^ 16) + w64 (fld v.toNat 0 9 * 2 ^ 0) := by
    rw [w64_bit, ← and_fieldMask, ← and_fieldMask, and_add_and _ _ _ (by decide), and_add_and _ _ _ (by decide)]; rfl
  have hz : (if (core m (t / 4)).conf then 0x1000000000000#64 else 0) &&& (v &&& 0x1007F01FF#64) = 0#64 := by
    split
    · rw [BitVec.and_comm v, ← BitVec.and_assoc]; simp
    · simp
  rw [BitVec.or_comm, ← BitVec.add_eq_or_of_and_eq_zero _ _ hz, hf]
  have h7 : fld v.toNat 16 7 < 128 := Nat.mod_lt _ (by decide)
  have h9 : fld v.toNat 0 9 < 512 := Nat.mod_lt _ (by decide)
  simp only [crRead, crLand, core_setCore_self, crShare, w64_add, w64_b1, BitVec.toNat_ofNat, Nat.mod_eq_of_lt h7, Nat.mod_eq_of_lt h9, Nat.pow_zero, Nat.mul_one, ← BitVec.add_assoc] <;> rfl

theorem crWaitdog_why (k : Core) : crWaitdog k &&& 0xFFFF000000000000#64 = w64 (k.wdWhy.toNat * 2 ^ 48) := by
  have hf : fld (crWaitdog k).toNat 48 16 = k.wdWhy.toNat := by
    simp only [fld, crWaitdog, BitVec.toNat_ofNat]; omega
  simpa [hf] using and_fieldMask (crWaitdog k) 48 16

theorem crRead_crLand_waitdog :
    crRead (crLand m t 0xE v) t 0xE = (crRead m t 0xE &&& 0xFFFF000000000000#64) ||| (v.setWidth 32).setWidth 64 := by
  have hz : (crRead m t 0xE &&& 0xFFFF000000000000#64) &&& (v.setWidth 32).setWidth 64 = 0#64 := by
    rw [setWidth_setWidth_half, BitVec.and_comm v, ← BitVec.and_assoc, BitVec.and_assoc (crRead m t 0xE)]; simp
  have hw : crRead m t 0xE &&& 0xFFFF000000000000#64 = w64 ((core m (t / 4)).wdWhy.toNat * 2 ^ 48) := crWaitdog_why _
  rw [← BitVec.add_eq_or_of_and_eq_zero _ _ hz, hw]
  simp [crRead, crLand, crWaitdog, w64_add, -BitVec.toNat_setWidth]

theorem crLand_arith :
    let y := ctx (crLand m t 2 v) t
    y.strict = v.getLsbD 0 ∧ (v.extractLsb' 4 2 = 3 → y.rnd = (ctx m t).rnd) ∧ (v.extractLsb' 4 2 ≠ 3 → y.rnd = v.extractLsb' 4 2) ∧
      y.flags = (ctx m t).flags &&& ~~~(v.extractLsb' 16 5) := by
  simp only [crLand, ctx_setCtx_self, writeArith, ofNat_fld, bitOf_toNat]
  exact ⟨trivial, fun h => if_pos h, fun h => if_neg h, trivial⟩

theorem crLand_haz : (ctx (crLand m t 0 v) t).haz = ((ctx m t).haz && !v.getLsbD 15) := by
  simp only [crLand, bitOf_toNat]
  cases v.getLsbD 15 <;> simp

theorem crLand_readOnly : ∀ n ∈ [1, 6, 9, 0xF, 0x10], crLand m t n v = m := by
  intro n hn
  simp only [List.mem_cons, List.mem_nil_iff, or_false] at hn
  rcases hn with rfl | rfl | rfl | rfl | rfl <;> rfl

/-! The numbers of the loop registers and of the descriptors (R108, R166). -/

theorem crRead_lps {n : Nat} (h1 : 0x20 ≤ n) (h2 : n < 0x24) : crRead m t n = tblGet 0 (ctx m t).lps (n - 0x20) := by
  obtain rfl | rfl | rfl | rfl : n = 0x20 ∨ n = 0x21 ∨ n = 0x22 ∨ n = 0x23 := by omega
  all_goals rfl

theorem crRead_lpe {n : Nat} (h1 : 0x24 ≤ n) (h2 : n < 0x28) : crRead m t n = tblGet 0 (ctx m t).lpe (n - 0x24) := by
  obtain rfl | rfl | rfl | rfl : n = 0x24 ∨ n = 0x25 ∨ n = 0x26 ∨ n = 0x27 := by omega
  all_goals rfl

theorem crRead_lpc {n : Nat} (h1 : 0x28 ≤ n) (h2 : n < 0x2C) : crRead m t n = w64 (tblGet 0 (ctx m t).lpc (n - 0x28)).toNat := by
  obtain rfl | rfl | rfl | rfl : n = 0x28 ∨ n = 0x29 ∨ n = 0x2A ∨ n = 0x2B := by omega
  all_goals rfl

theorem crRead_sdesc {n : Nat} (h : 0x2C ≤ n) : crRead m t n = (ctx m t).sdesc (n - 0x30) := by
  obtain ⟨k, rfl⟩ : ∃ k, n = k + 0x2C := ⟨n - 0x2C, by omega⟩
  rfl

/-- What lands in a loop register or a stride descriptor reads back within its bits; the numbers without a register keep what they read. -/
theorem crRead_landWrite (n : Nat) (l : Landing) (h1 : 0x20 ≤ n) (h2 : n < 0x40) (hl : l.w = crwLanding n v) :
    crRead (landWrite m t l) t n = if n < 0x28 then v else if n < 0x2C then (v.setWidth 32).setWidth 64 else if n < 0x30 then crRead m t n else v &&& 0x1FFF1FFF1FFF#64 := by
  simp only [landWrite, hl, crwLanding]
  by_cases hsd : 0x30 ≤ n
  · rw [if_pos hsd, if_neg (by omega), if_neg (by omega), if_neg (by omega), crRead_sdesc _ _ (by omega), ctx_setCtx_self]
    exact tblGet_tblPut_self ..
  rw [if_neg hsd]
  by_cases hlpc : 0x28 ≤ n
  · rw [if_pos hlpc, if_neg (by omega)]
    by_cases hn : n < 0x2C
    · rw [if_pos hn, crRead_lpc _ _ hlpc hn, ctx_setCtx_self, tblGet_tblPut_self]
      exact BitVec.ofNat_toNat ..
    · rw [if_neg hn, if_pos (by omega), crRead_sdesc _ _ (by omega), crRead_sdesc _ _ (by omega), ctx_setCtx_self]
      rfl
  rw [if_neg hlpc, if_pos (show n < 0x28 by omega)]
  by_cases hlpe : 0x24 ≤ n
  · rw [if_pos hlpe, crRead_lpe _ _ hlpe (by omega), ctx_setCtx_self]
    exact tblGet_tblPut_self ..
  · rw [if_neg hlpe, if_pos h1, crRead_lps _ _ h1 (by omega), ctx_setCtx_self]
    exact tblGet_tblPut_self ..

end

/-- Settles O33: register by register, from what its write lands and what a CRR then reads; the masks of the fields are those of `and_fieldMask`. -/
theorem controlRegisterWritesRead : Obligations.ControlRegisterWritesRead := by
  unfold Obligations.ControlRegisterWritesRead
  intro m t v after
  have h (n : Nat) : after n = crRead (crLand m t n v) t n := rfl
  refine ⟨?_, ?_, ?_, ?_, ?_, ?_, crRead_crLand_prio m t v, crRead_crLand_quantum m t v, ?_, crRead_crLand_share m t v, crRead_crLand_mask m t v, crLand_mask_kept m t v, crLand_arith m t v, crLand_haz m t v,
    crLand_readOnly m t v, crRead_crLand_waitdog m t v, crRead_landWrite m t v⟩ <;>
  simp only [h, crRead, crLand, ctx_setCtx_self] <;> rfl

end Sys2Proof.Machine
end

section
/-! SUPPORT. The register commands: what a write or a read of the control range does once it is served (R9, R13, R495, R603). -/

namespace Sys2Proof.Machine

/-! ## Bytes and masks of an access -/

theorem ofBytes_toBytes (n x : Nat) : ofBytes (toBytes n x) = x % 256 ^ n := by
  induction n generalizing x with
  | zero => simp [toBytes, ofBytes, Nat.mod_one]
  | succ n ih =>
    rw [toBytes, ofBytes, ih, Nat.pow_succ', Nat.mod_mul]
    simp

/-- The mask of an access that covers a register whole. -/
def wholeMask : Word := BitVec.allOnes 64

@[simp] theorem covers_wholeMask (i : Nat) : covers wholeMask i = decide (i < 64) := by
  rw [covers, bitOf_toNat, wholeMask, BitVec.getLsbD_allOnes]
@[simp] theorem wrote_wholeMask (v : Word) (i : Nat) : wrote v wholeMask i = v.getLsbD i := by
  by_cases h : i < 64
  · simp [wrote, bitOf_toNat, h]
  · simp [wrote, bitOf_toNat, BitVec.getLsbD_of_ge v i (by omega)]
@[simp] theorem merge_wholeMask (old v : Word) : merge old v wholeMask = v := by
  rw [merge, wholeMask, BitVec.and_allOnes, BitVec.not_allOnes, BitVec.and_zero, BitVec.zero_or]
@[simp] theorem masked_wholeMask (old v : Word) : masked old v wholeMask = v.toNat := by
  simp [masked]

theorem accessMask_whole {o : Nat} (h : o % 8 = 0) : accessMask o 8 = some wholeMask := by
  rw [accessMask, if_pos ⟨rfl, h⟩]; rfl

/-- An access of another size or alignment than a half or the whole covers nothing (R13). -/
theorem accessMask_none {o size : Nat} (h : ¬ ((size = 8 ∧ o % 8 = 0) ∨ (size = 4 ∧ o % 4 = 0))) : accessMask o size = none := by
  have h8 : ¬ (size = 8 ∧ o % 8 = 0) := fun e => h (.inl e)
  have h0 : ¬ (size = 4 ∧ o % 8 = 0) := fun e => h (.inr ⟨e.1, by omega⟩)
  have h4 : ¬ (size = 4 ∧ o % 8 = 4) := fun e => h (.inr ⟨e.1, by omega⟩)
  simp only [accessMask, if_neg h8, if_neg h0, if_neg h4]

/-! ## The ways into the control range -/

theorem inBar2_control (who : Who) {o : Nat} (h : o < 0x1000000) : inBar2 who o = none := by
  cases who <;> simp [inBar2]
  omega

theorem inBells_control (who : Who) {o : Nat} (h : o < 0x1000000) : inBells who o = none := by
  cases who <;> simp [inBells]
  omega

theorem submitPort_above {o : Nat} (h : 0x800000 ≤ o) : submitPort o = none := by
  simp only [submitPort]
  rw [if_neg (by omega)]

theorem commitPort_below {o : Nat} (h : o < 0xF80000) : commitPort o = false := by
  simp only [commitPort]
  rw [decide_eq_false (by omega)]

section
variable {m : Mod} {who : Who} {o : Nat}

/-- A write that a fence turns away is answered FENCED (R603). -/
theorem setupWrite_fenced (hs : ctlServed m who o = true) (ho : o < 0x1000000) (hf : writeFenced m who o = true) (d : List Byte) :
    setupWrite m who o d = { m with answer := .error 1 } := by
  simp [setupWrite, hs, inBar2_control who ho, inBells_control who ho, hf]

/-- A served write to a register answers nothing, and writes what its mask covers (R13). -/
theorem setupWrite_served (hs : ctlServed m who o = true) (ho : o < 0x1000000) (hf : writeFenced m who o = false) (hp : submitPort o = none) (hc : commitPort o = false)
    {size : Nat} {mask : Word} (hm : accessMask o size = some mask) (hr : (regRead m (o / 8 * 8)).isSome = true) (v : Word) :
    setupWrite m who o (accBytes size v) = { regWrite m (o / 8 * 8) (w64 (v.toNat % 256 ^ size * 256 ^ (o % 8))) mask with answer := .none } := by
  obtain ⟨x, hx⟩ := Option.isSome_iff_exists.mp hr
  simp [setupWrite, hs, inBar2_control who ho, inBells_control who ho, hf, ctlWrite, hp, hc, accBytes, toBytes_length, hm, hx, ofBytes_toBytes]

/-- A served write of a size or alignment that is no access changes nothing, and is answered with an error (R13). -/
theorem setupWrite_bad (hs : ctlServed m who o = true) (ho : o < 0x1000000) (hf : writeFenced m who o = false) (hp : submitPort o = none) (hc : commitPort o = false)
    {size : Nat} (hm : accessMask o size = none) (v : Word) : setupWrite m who o (accBytes size v) = { m with answer := .error 2 } := by
  simp [setupWrite, hs, inBar2_control who ho, inBells_control who ho, hf, ctlWrite, hp, hc, accBytes, toBytes_length, hm]

/-- A served write of a whole register. -/
theorem setupWrite_whole (hs : ctlServed m who o = true) (ho : o < 0x1000000) (hf : writeFenced m who o = false) (hp : submitPort o = none) (hc : commitPort o = false)
    (ha : o % 8 = 0) (hr : (regRead m o).isSome = true) (v : Word) :
    setupWrite m who o (accBytes 8 v) = { regWrite m o v wholeMask with answer := .none } := by
  have h8 : o / 8 * 8 = o := by omega
  have hv : v.toNat % 256 ^ 8 = v.toNat := Nat.mod_eq_of_lt v.isLt
  rw [setupWrite_served hs ho hf hp hc (accessMask_whole ha) (by rwa [h8]), h8, ha, hv]
  simp

/-- A served read of a whole register answers its value and clears its RC fields (R9). -/
theorem setupRead_whole (hs : ctlServed m who o = true) (ho : o < 0x1000000) (hf : fencedAt m (ctlAddr o) m.now = false) (hp : submitPort o = none) (hc : commitPort o = false)
    (ha : o % 8 = 0) {x : Word} (hr : regRead m o = some x) : setupRead m who o 8 = { regClear m o wholeMask with answer := .value x } := by
  have h8 : o / 8 * 8 = o := by omega
  have hb : ofBytes (sliceBytes (wordBytes x) 0 8) = x.toNat := by
    have hl : sliceBytes (wordBytes x) 0 8 = wordBytes x := by
      rw [sliceBytes, List.drop_zero, List.take_left' (by simp [wordBytes, toBytes_length])]
    rw [hl, wordBytes, ofBytes_toBytes]; exact Nat.mod_eq_of_lt x.isLt
  simp [setupRead, hs, inBar2_control who ho, inBells_control who ho, hf, ctlRead, hp, hc, accessMask_whole ha, h8, hr, ha, hb]

end

/-! ## The firmware's writes of whole registers, by the commands that name them -/

theorem AoReachable.served {m : Mod} {o : Nat} (h : AoReachable m o) (who : Who) (hr : ctlReaches m who o = true) (ho : 0x800000 ≤ o) : ctlServed m who o = true := by
  obtain ⟨hao, hdown, -⟩ := h
  simp [ctlServed, hr, Nat.not_lt.mpr ho, hao, hdown]

theorem writeFenced_of_not_fenced {m : Mod} {o : Nat} (who : Who) (h : fencedAt m (ctlAddr o) m.now = false) : writeFenced m who o = false := by
  simp [writeFenced, h]

/-- A whole write of a register of the always-on part. -/
theorem writeReg_ao {s : State} {o : Nat} {a : RegAccess} (ha : wholeWrite a = true) (h : AoReachable s.mod o) (ho : 0x800000 ≤ o) (hc : o < 0xF80000) (h8 : o % 8 = 0)
    (hr : (regRead s.mod o).isSome = true) : writeReg s o a = .next { s with mod := { regWrite s.mod o a.value wholeMask with answer := .none } } := by
  obtain ⟨at_, size, v⟩ := a
  simp only [wholeWrite, Bool.and_eq_true, beq_iff_eq] at ha
  obtain ⟨rfl, rfl⟩ := ha
  have hreach : ctlReaches s.mod .firmware o = true := by simp [ctlReaches, ho]
  simp only [writeReg, Nat.add_zero]
  rw [setupWrite_whole (h.served .firmware hreach ho) (by omega) (writeFenced_of_not_fenced .firmware h.2.2) (submitPort_above ho) (commitPort_below hc) h8 hr]

theorem Reachable.served {m : Mod} {o : Nat} (h : Reachable m o) (ho : o < 0x800000) : ctlServed m .firmware o = true := by
  obtain ⟨hm, hb, -⟩ := h
  simp [ctlServed, ctlReaches, ho, hm, hb ho]

/-! ## The block of a core (R495) -/

theorem coreBlock_lt {c k : Nat} (hc : c < 2048) (hk : k < 0x800) : coreBlock c + k < 0x800000 := by
  simp only [coreBlock]; omega

/-- The fields of an offset in the block of a core. -/
theorem coreBlock_fields (c : Nat) {k : Nat} (hk : k < 0x800) :
    (coreBlock c + k) / 0x10000 = c / 16 ∧ (coreBlock c + k) % 0x10000 = 0x1000 + 0x800 * (c % 16) + k ∧
      16 * (c / 16) + (0x1000 + 0x800 * (c % 16) + k - 0x1000) / 0x800 = c ∧ (0x1000 + 0x800 * (c % 16) + k - 0x1000) % 0x800 = k := by
  simp only [coreBlock]; omega

theorem regRead_coreBlock (m : Mod) {c k : Nat} (hc : c < 2048) (hk : k < 0x800) : regRead m (coreBlock c + k) = coreRead m c k := by
  obtain ⟨hq, hr, hcore, hoff⟩ := coreBlock_fields c hk
  simp only [regRead, if_pos (coreBlock_lt hc hk), hq, hr]
  rw [if_neg (by omega), if_pos (by omega), hcore, hoff]

theorem regWrite_coreBlock (m : Mod) {c k : Nat} (hc : c < 2048) (hk : k < 0x800) (v mask : Word) : regWrite m (coreBlock c + k) v mask = coreWrite m c k v mask := by
  obtain ⟨hq, hr, hcore, hoff⟩ := coreBlock_fields c hk
  simp only [regWrite, if_pos (coreBlock_lt hc hk), hq, hr]
  rw [if_neg (by omega), if_pos (by omega), hcore, hoff]

/-- An offset in the block of a core outside its contexts' registers lies in no submit port. -/
theorem submitPort_coreBlock (c : Nat) {k : Nat} (hk : k < 0x800) (h : k < 0x100 ∨ 0x500 ≤ k) : submitPort (coreBlock c + k) = none := by
  obtain ⟨-, hr, -, hoff⟩ := coreBlock_fields c hk
  simp only [submitPort, hr, hoff]
  rw [if_neg (c := 0x100 ≤ k ∧ k < 0x500 ∧ k % 0x100 < 64) (by omega), ite_self]

theorem dfspAt_coreBlock {c : Nat} (hc : c < 2048) : dfspAt (coreBlock c + 0x10) = true := by
  have hlt := coreBlock_lt hc (k := 0x10) (by omega)
  obtain ⟨-, hr, -, hoff⟩ := coreBlock_fields c (k := 0x10) (by omega)
  simp only [dfspAt, hr, hoff, decide_eq_true_eq]
  exact ⟨hlt, by omega, by omega, trivial⟩

/-- A whole write in the block of a core that is served. -/
theorem setupWrite_core {m : Mod} {who : Who} {c k : Nat} (hc : c < 2048) (hk : k < 0x800) (h : k < 0x100 ∨ 0x500 ≤ k) (hs : ctlServed m who (coreBlock c + k) = true)
    (hf : writeFenced m who (coreBlock c + k) = false) (h8 : k % 8 = 0) (hr : (coreRead m c k).isSome = true) (v : Word) :
    setupWrite m who (coreBlock c + k) (accBytes 8 v) = { coreWrite m c k v wholeMask with answer := .none } := by
  have hlt := coreBlock_lt hc hk
  rw [setupWrite_whole hs (by omega) hf (submitPort_coreBlock c hk h) (commitPort_below (by omega)) (by simp only [coreBlock]; omega) (by rwa [regRead_coreBlock m hc hk]), regWrite_coreBlock m hc hk]

end Sys2Proof.Machine
end

section
/-! SUPPORT. What the writes of the registers that O50 names leave (R9, R13, R27, R34, R36, R317, R484, R494, R535, R547, R549, R570). -/

namespace Sys2Proof.Machine

/-! ## A core's registers (R317, R345) -/

/-- A core changed behind a write's answer. -/
theorem coreChanged_setCore (s : State) (c : Nat) (f : Core → Core) :
    CoreChanged s { s with mod := { setCore s.mod c f with answer := .none } } c (f (core s.mod c)) :=
  ⟨rfl, core_setCore_self s.mod c f, fun _ h => core_setCore_ne s.mod f h, rfl⟩

/-- DBG_DFSP takes its field while the core is held in reset, or before the boot is over (R317). -/
theorem coreWrite_dfsp {m : Mod} {c : Nat} (h : (core m c).inReset = true ∨ m.sec.stage ≠ 3) (v : Word) :
    coreWrite m c 0x10 v wholeMask = setCore m c (fun k => { k with dfBase := v.extractLsb' 8 8 }) := by
  have hr : (((core m c).inReset || m.sec.stage != 3) && covers wholeMask 0) = true := by simpa using h
  rw [coreWrite, if_neg (by decide), if_neg (by decide), if_pos rfl, if_pos hr, ofNat_fld]

theorem saveBase_field (x : Word) : w64 (fld x.toNat 16 31 * 65536) = x &&& 0x7FFFFFFF0000#64 := (and_fieldMask x 16 31).symm

theorem coreWrite_saveBase (m : Mod) (c : Nat) (v : Word) :
    coreWrite m c 8 v wholeMask = setCore m c (fun k => { k with saveBase := v &&& 0x7FFFFFFF0000#64 }) := by
  simp only [coreWrite, masked_wholeMask, saveBase_field]; rfl

/-- A write of the low half leaves the high half of the save base. -/
theorem coreWrite_saveBase_half (m : Mod) (c : Nat) (v : Word) :
    coreWrite m c 8 (w64 (v.toNat % 256 ^ 4 * 256 ^ 0)) 0x00000000FFFFFFFF =
      setCore m c (fun k => { k with saveBase := (k.saveBase &&& 0x7FFF00000000#64) ||| (v &&& 0xFFFF0000#64) }) := by
  have hv : w64 (v.toNat % 256 ^ 4 * 256 ^ 0) = v &&& 0xFFFFFFFF#64 := by
    rw [← setWidth_setWidth_half]; apply BitVec.eq_of_toNat_eq; simp
  have hb (old : Word) : w64 (fld (masked old (v &&& 0xFFFFFFFF#64) 0x00000000FFFFFFFF) 16 31 * 65536) = (old &&& 0x7FFF00000000#64) ||| (v &&& 0xFFFF0000#64) := by
    rw [masked, saveBase_field, merge, BitVec.and_or_distrib_right, BitVec.and_assoc, BitVec.and_assoc, BitVec.and_assoc]; rfl
  simp only [coreWrite, hv, hb]; rfl

theorem setupWrite_saveBase_half {m : Mod} {who : Who} {c : Nat} (hc : c < 2048) (hs : ctlServed m who (coreBlock c + 8) = true)
    (hf : writeFenced m who (coreBlock c + 8) = false) (v : Word) :
    setupWrite m who (coreBlock c + 8) (accBytes 4 v) = { coreWrite m c 8 (w64 (v.toNat % 256 ^ 4 * 256 ^ 0)) 0x00000000FFFFFFFF with answer := .none } := by
  have hlt := coreBlock_lt hc (k := 8) (by omega)
  have h8 : (coreBlock c + 8) % 8 = 0 := by simp only [coreBlock]; omega
  have ho : (coreBlock c + 8) / 8 * 8 = coreBlock c + 8 := by omega
  rw [setupWrite_served hs (by omega) hf (submitPort_coreBlock c (by omega) (by omega)) (commitPort_below (by omega)) (mask := 0x00000000FFFFFFFF)
    (by simp [accessMask, h8]) (by rw [ho, regRead_coreBlock m hc (by omega)]; rfl), ho, h8, regWrite_coreBlock m hc (by omega)]

theorem coreWrite_barmem (m : Mod) (t w : Nat) (hw : w < 4) (v : Word) :
    coreWrite m (t / 4) (0x500 + 32 * (t % 4) + 8 * w) v wholeMask = setCtx m t (fun x => { x with barmem := tblPut x.barmem w v }) := by
  have ht : 4 * (t / 4) + (0x500 + 32 * (t % 4) + 8 * w - 0x500) / 32 = t := by omega
  have hw' : (0x500 + 32 * (t % 4) + 8 * w) % 32 / 8 = w := by omega
  have h (n : Nat) (hn : n < 0x500) : ¬ 0x500 + 32 * (t % 4) + 8 * w = n := by omega
  simp only [coreWrite, if_neg (h 0 (by omega)), if_neg (h 8 (by omega)), if_neg (h 0x10 (by omega)), if_neg (h 0x18 (by omega)), if_neg (h 0x20 (by omega)),
    if_pos (show 0x500 ≤ 0x500 + 32 * (t % 4) + 8 * w ∧ 0x500 + 32 * (t % 4) + 8 * w < 0x580 by omega), ht, hw', barmemWrite, tblMod, merge_wholeMask]

theorem coreRead_barmem (m : Mod) (t w : Nat) (hw : w < 4) : (coreRead m (t / 4) (0x500 + 32 * (t % 4) + 8 * w)).isSome = true := by
  have h (n : Nat) (hn : n < 0x500) : ¬ 0x500 + 32 * (t % 4) + 8 * w = n := by omega
  simp only [coreRead, if_neg (h 0 (by omega)), if_neg (h 8 (by omega)), if_neg (h 0x10 (by omega)), if_neg (h 0x18 (by omega)), if_neg (h 0x20 (by omega)),
    if_neg (show ¬ (0x100 ≤ 0x500 + 32 * (t % 4) + 8 * w ∧ 0x500 + 32 * (t % 4) + 8 * w < 0x500) by omega),
    if_pos (show 0x500 ≤ 0x500 + 32 * (t % 4) + 8 * w ∧ 0x500 + 32 * (t % 4) + 8 * w < 0x580 by omega), Option.isSome_some]

/-- DBG_BARMEM of a context takes a whole write (R36). -/
theorem exec_dbgBarmemWrite {s : State} {thread : ThreadId} {w : BitVec 2} {a : RegAccess} (ha : wholeWrite a = true)
    (h : Reachable s.mod (coreBlock (thread.toNat / 4) + 0x500 + 32 * (thread.toNat % 4) + 8 * w.toNat)) :
    exec (.dbgBarmemWrite thread w a) s =
      .next { s with mod := { setCtx s.mod thread.toNat (fun x => { x with barmem := tblPut x.barmem w.toNat a.value }) with answer := .none } } := by
  obtain ⟨at_, size, v⟩ := a
  simp only [wholeWrite, Bool.and_eq_true, beq_iff_eq] at ha
  obtain ⟨rfl, rfl⟩ := ha
  have hw : w.toNat < 4 := w.isLt
  have hc : thread.toNat / 4 < 2048 := by have := thread.isLt; omega
  have ho : coreBlock (thread.toNat / 4) + 0x500 + 32 * (thread.toNat % 4) + 8 * w.toNat = coreBlock (thread.toNat / 4) + (0x500 + 32 * (thread.toNat % 4) + 8 * w.toNat) := by omega
  rw [ho] at h
  have hlt := coreBlock_lt hc (k := 0x500 + 32 * (thread.toNat % 4) + 8 * w.toNat) (by omega)
  show writeReg s _ _ = _
  rw [writeReg, Nat.add_zero, ho, setupWrite_core hc (by omega) (by omega) (h.served hlt) (writeFenced_of_not_fenced _ h.2.2) (by omega) (coreRead_barmem s.mod thread.toNat w.toNat hw),
    coreWrite_barmem s.mod thread.toNat w.toNat hw]

/-! ## HBM_ERR (R494) -/

theorem regRead_hbmErr (m : Mod) {q : Nat} (hq : q < 128) : regRead m (0x10000 * q + 0x20) = some (w64 ((cluster m q).ce.toNat * 2 ^ 32 + (cluster m q).ue.toNat * 2 ^ 16)) := by
  have h1 : (0x10000 * q + 0x20) / 0x10000 = q := by omega
  have h2 : (0x10000 * q + 0x20) % 0x10000 = 0x20 := by omega
  simp only [regRead, if_pos (show 0x10000 * q + 0x20 < 0x800000 by omega), h1, h2]; rfl

theorem regClear_hbmErr (m : Mod) {q : Nat} (hq : q < 128) : regClear m (0x10000 * q + 0x20) wholeMask = setCluster m q (fun c => { c with ce := 0, ue := 0 }) := by
  have h1 : (0x10000 * q + 0x20) / 0x10000 = q := by omega
  have h2 : (0x10000 * q + 0x20) % 0x10000 = 0x20 := by omega
  simp only [regClear, if_pos (show 0x10000 * q + 0x20 < 0x800000 by omega), h1, h2]
  simp [clusterClear]

theorem submitPort_clusterRegs {q r : Nat} (hr : r < 0x1000) : submitPort (0x10000 * q + r) = none := by
  have h2 : (0x10000 * q + r) % 0x10000 = r := by omega
  simp only [submitPort, h2]
  rw [if_neg (by omega)]

/-! ## Tiles and bridges (R27, R34, R45) -/

theorem cluster_countCluster_counter (m : Mod) (q k n : Nat) :
    tblGet 0 (cluster (countCluster m q k n) q).counters k = tblGet 0 (cluster m q).counters k + w64 n := by
  unfold countCluster
  split
  · next h => simp [h]
  · simp

theorem cluster_countCluster_ne (m : Mod) {q p : Nat} (k n : Nat) (h : p ≠ q) : cluster (countCluster m q k n) p = cluster m p := by
  unfold countCluster
  split
  · rfl
  · exact cluster_setCluster_ne m _ h

theorem countCluster_eq (m : Mod) (q k n : Nat) : countCluster m q k n = { m with clusters := (countCluster m q k n).clusters } := by
  unfold countCluster; split <;> rfl

theorem bridgeFor_some {m : Mod} {b : Bool} (h : b ∈ m.bridgeDown) (h' : (!b) ∉ m.bridgeDown) (k : Nat) : bridgeFor m k = some (!b) := by
  unfold bridgeFor
  by_cases e : decide (3 ≤ k / 16 ∧ k / 16 ≤ 6) = b
  · simp [e, h, h']
  · simp [Bool.eq_not.mpr e, h']

theorem bridgeFor_none {m : Mod} {b : Bool} (h : b ∈ m.bridgeDown) (h' : (!b) ∈ m.bridgeDown) (k : Nat) : bridgeFor m k = none := by
  unfold bridgeFor
  by_cases e : decide (3 ≤ k / 16 ∧ k / 16 ≤ 6) = b
  · simp [e, h, h']
  · simp [Bool.eq_not.mpr e, h, h']

/-! ## HBM_PLACE (R484, R485) -/

/-- Contents that become unspecified leave every byte of another key. -/
theorem byte_scramble_ne (mem : Memory) {key b : Nat} (h : genKey b ≠ key) : (mem.scramble key).byte b = mem.byte b := by
  have hc : cellFind (mem.cells.filter (fun c => genKey c.1 != key)) b = cellFind mem.cells b := by
    induction mem.cells with
    | nil => rfl
    | cons e t ih =>
      obtain ⟨a, x⟩ := e
      by_cases ha : a = b
      · subst ha; rw [List.filter_cons_of_pos (by simpa using h)]; simp [cellFind]
      · by_cases hk : genKey a = key
        · rw [List.filter_cons_of_neg (by simpa using hk)]; simpa [cellFind, ha] using ih
        · rw [List.filter_cons_of_pos (by simpa using hk)]; simpa [cellFind, ha] using ih
  have hg : (mem.scramble key).unlisted b = mem.unlisted b := by
    simp only [Memory.unlisted, Memory.gen, Memory.scramble, tblGet_tblMod_ne _ _ _ _ h]; rfl
  simp only [Memory.byte, hg]
  simp only [Memory.scramble, hc]

/-- The contents of several ports' regions j become unspecified. -/
def scrambleRegions (mem : Memory) (j : Nat) (qs : List Nat) : Memory := qs.foldl (fun mem q => mem.scramble (24 * q + j)) mem

theorem byte_scrambleRegions {b j : Nat} (hb : b < 0x030000000000) (h : b / 2 ^ 30 % 24 ≠ j) (hj : j < 24) (qs : List Nat) (mem : Memory) :
    (scrambleRegions mem j qs).byte b = mem.byte b := by
  have hk (q : Nat) : genKey b ≠ 24 * q + j := by
    rw [genKey, regionOf, if_pos hb]
    dsimp only
    omega
  induction qs generalizing mem with
  | nil => rfl
  | cons q qs ih => exact (ih _).trans (byte_scramble_ne mem (hk q))

theorem foldl_scramble (m : Mod) (j : Nat) (qs : List Nat) :
    qs.foldl (fun m q => { m with mem := m.mem.scramble (24 * q + j) }) m = { m with mem := scrambleRegions m.mem j qs } := by
  induction qs generalizing m with
  | nil => rfl
  | cons q qs ih => exact ih _

theorem placeWrite_whole (m : Mod) (j : Nat) (v : Word) :
    let new : BitVec 17 := v.setWidth 17 &&& (if j = 23 then 0x7F else 0x100FF)
    placeWrite m j v wholeMask = { m with place := tblPut m.place j new, mem := scrambleRegions m.mem j (placeChanges (placeOf m j) new) } := by
  simp only [placeWrite, masked_wholeMask, foldl_scramble, BitVec.ofNat_toNat]

theorem placeChanges_same (p : BitVec 17) : placeChanges p p = [] := by
  simp [placeChanges]

/-! ## FAB_ID (R535) -/

theorem fabIdOk_iff (sizes : BitVec 48) (id : Nat) :
    fabIdOk sizes id = true ↔
      ((List.range 6).map (fun d => (sizes.extractLsb' (8 * d) 8).toNat + 1)).foldl (· * ·) 1 ≤ 65536 ∧
        id < ((List.range 6).map (fun d => (sizes.extractLsb' (8 * d) 8).toNat + 1)).foldl (· * ·) 1 := by
  simp only [fabIdOk, fld_toNat, List.foldl_map, decide_eq_true_eq]

/-! ## Rings and interrupts (R547, R548, R571) -/

theorem portOfHost_setPort (m : Mod) (p : Bool) (f : Port → Port) : portOfHost (setPort m p f) p = f (portOfHost m p) := by
  cases p <;> rfl

/-- The fields of the offset of a register in a ring's block. -/
theorem ringBlock_fields (p : Bool) (ring : BitVec 12) {k : Nat} (hk : k < 0x20) :
    ringBlock p ring + k - 0x800000 < 0x40000 ∧ decide (0x20000 ≤ ringBlock p ring + k - 0x800000) = p ∧
      (ringBlock p ring + k - 0x800000) % 0x20000 / 0x20 = ring.toNat ∧ (ringBlock p ring + k - 0x800000) % 0x20 / 8 = k / 8 := by
  have hr : ring.toNat < 4096 := ring.isLt
  cases p <;> simp only [ringBlock, b1, if_true, if_false, Bool.false_eq_true, decide_eq_false_iff_not, decide_eq_true_eq] <;> omega

theorem ringBlock_range (p : Bool) (ring : BitVec 12) {k : Nat} (hk : k < 0x20) : 0x800000 ≤ ringBlock p ring + k ∧ ringBlock p ring + k < 0x840000 := by
  obtain ⟨h, -⟩ := ringBlock_fields p ring hk
  refine ⟨?_, by omega⟩
  simp only [ringBlock]; omega

/-- A register in a ring's block is no reserved offset. -/
theorem regRead_ring (m : Mod) (p : Bool) (ring : BitVec 12) {k : Nat} (hk : k < 0x20) : (regRead m (ringBlock p ring + k)).isSome = true := by
  obtain ⟨hlo, hhi⟩ := ringBlock_range p ring hk
  obtain ⟨h, -⟩ := ringBlock_fields p ring hk
  simp only [regRead, if_neg (Nat.not_lt.mpr hlo), if_pos (show ringBlock p ring + k < 0xA00000 by omega), hqiRead, if_pos h, Option.isSome_some]

theorem regWrite_sqctl (m : Mod) (p : Bool) (ring : BitVec 12) (v mask : Word) :
    regWrite m (ringBlock p ring + 8) v mask = setSring m p ring.toNat (fun r => sqctlWrite r v mask) := by
  obtain ⟨hlo, hhi⟩ := ringBlock_range p ring (k := 8) (by omega)
  obtain ⟨h, hp, hn, hr⟩ := ringBlock_fields p ring (k := 8) (by omega)
  simp only [regWrite, if_neg (Nat.not_lt.mpr hlo), if_pos (show ringBlock p ring + 8 < 0xA00000 by omega), hqiWrite, if_pos h, hp, hn, hr]

theorem regWrite_cqctl (m : Mod) (p : Bool) (ring : BitVec 12) (v mask : Word) :
    regWrite m (ringBlock p ring + 0x18) v mask = setCring m p ring.toNat (fun r => cqctlWrite r v mask) := by
  obtain ⟨hlo, hhi⟩ := ringBlock_range p ring (k := 0x18) (by omega)
  obtain ⟨h, hp, hn, hr⟩ := ringBlock_fields p ring (k := 0x18) (by omega)
  simp only [regWrite, if_neg (Nat.not_lt.mpr hlo), if_pos (show ringBlock p ring + 0x18 < 0xA00000 by omega), hqiWrite, if_pos h, hp, hn, hr, Nat.reduceDiv]

section
variable {s : State} {a : RegAccess} (ha : wholeWrite a = true)
include ha

theorem exec_hqiSqctlWrite {p : Bool} {ring : BitVec 12} (h : AoReachable s.mod (ringBlock p ring + 8)) :
    exec (.hqiSqctlWrite p ring a) s = .next { s with mod := { setSring s.mod p ring.toNat (fun r => sqctlWrite r a.value wholeMask) with answer := .none } } := by
  obtain ⟨hlo, hhi⟩ := ringBlock_range p ring (k := 8) (by omega)
  have h8 : (ringBlock p ring + 8) % 8 = 0 := by simp only [ringBlock]; omega
  show writeReg s _ a = _
  rw [writeReg_ao ha h hlo (by omega) h8 (regRead_ring s.mod p ring (by omega)), regWrite_sqctl]

theorem exec_hqiCqctlWrite {p : Bool} {ring : BitVec 12} (h : AoReachable s.mod (ringBlock p ring + 0x18)) :
    exec (.hqiCqctlWrite p ring a) s = .next { s with mod := { setCring s.mod p ring.toNat (fun r => cqctlWrite r a.value wholeMask) with answer := .none } } := by
  obtain ⟨hlo, hhi⟩ := ringBlock_range p ring (k := 0x18) (by omega)
  have h8 : (ringBlock p ring + 0x18) % 8 = 0 := by simp only [ringBlock]; omega
  show writeReg s _ a = _
  rw [writeReg_ao ha h hlo (by omega) h8 (regRead_ring s.mod p ring (by omega)), regWrite_cqctl]

theorem exec_fabIdWrite (h : AoReachable s.mod 0xA00000) :
    exec (.fabIdWrite a) s = .next { s with mod := { fabIdWrite s.mod a.value wholeMask with answer := .none } } := by
  have hw : regWrite s.mod 0xA00000 a.value wholeMask = fabIdWrite s.mod a.value wholeMask := by simp [regWrite, fabWrite]
  rw [← hw]
  exact writeReg_ao ha h (by decide) (by decide) (by decide) (by simp [regRead, fabRead])

theorem exec_hqiThintWrite (h : AoReachable s.mod 0x840010) :
    exec (.hqiThintWrite a) s = .next { s with mod := { thint s.mod (a.value.toNat % 8192) (a.value.getLsbD 63) with answer := .none } } := by
  have hw : regWrite s.mod 0x840010 a.value wholeMask = thint s.mod (a.value.toNat % 8192) (a.value.getLsbD 63) := by simp [regWrite, hqiWrite]
  rw [← hw]
  exact writeReg_ao ha h (by decide) (by decide) (by decide) (by simp [regRead, hqiRead])

theorem exec_dbgLoadctlWrite (h : AoReachable s.mod 0xF00100) :
    exec (.dbgLoadctlWrite a) s = .next { s with mod := { loadctlWrite s.mod a.value wholeMask with answer := .none } } := by
  have hw : regWrite s.mod 0xF00100 a.value wholeMask = loadctlWrite s.mod a.value wholeMask := by simp [regWrite, dbgWrite]
  rw [← hw]
  exact writeReg_ao ha h (by decide) (by decide) (by decide) (by simp [regRead, dbgRead])

theorem exec_hbmPlaceWrite {j : BitVec 5} (hj : j.toNat < 24) (h : AoReachable s.mod (0xB00000 + 8 * j.toNat)) :
    exec (.hbmPlaceWrite j a) s = .next { s with mod := { placeWrite s.mod j.toNat a.value wholeMask with answer := .none } } := by
  have hj8 : (0xB00000 + 8 * j.toNat - 0xB00000) / 8 = j.toNat := by omega
  show writeReg s _ a = _
  rw [writeReg_ao ha h (by omega) (by omega) (by omega)]
  · simp only [regWrite, if_neg (show ¬ 0xB00000 + 8 * j.toNat < 0x800000 by omega), if_neg (show ¬ 0xB00000 + 8 * j.toNat < 0xA00000 by omega),
      if_neg (show ¬ 0xB00000 + 8 * j.toNat < 0xB00000 by omega), if_pos (show 0xB00000 + 8 * j.toNat < 0xC00000 by omega),
      if_pos (show 0xB00000 + 8 * j.toNat - 0xB00000 < 192 by omega), hj8]
  · simp only [regRead, if_neg (show ¬ 0xB00000 + 8 * j.toNat < 0x800000 by omega), if_neg (show ¬ 0xB00000 + 8 * j.toNat < 0xA00000 by omega),
      if_neg (show ¬ 0xB00000 + 8 * j.toNat < 0xB00000 by omega), if_pos (show 0xB00000 + 8 * j.toNat < 0xC00000 by omega),
      if_pos (show 0xB00000 + 8 * j.toNat - 0xB00000 < 192 by omega), Option.isSome_some]

end

end Sys2Proof.Machine
end

section
/-! SUPPORT. Event counters, and the settlement of O50 (R570). -/

namespace Sys2Proof.Machine

/-! ## Event counters (R570) -/

theorem landLoop_hq (m : Mod) (th cyc : Nat) (pc : Word) (ws : List Write) : (landLoop m th cyc pc ws).hq = m.hq := by
  unfold landLoop
  induction ws generalizing m with
  | nil => rfl
  | cons w ws ih => exact (ih _).trans (land_hq ..)

theorem goOn_frame (m : Mod) (t : Nat) (pc : Word) (redirect : Option Word) (edge : Option (Word × List Write)) :
    (goOn m t pc redirect edge).hq = m.hq ∧ ∀ u, u ≠ t → ctx (goOn m t pc redirect edge) u = ctx m u := by
  unfold goOn
  cases redirect with
  | some a => exact ⟨rfl, fun u h => ctx_setCtx_ne m _ h⟩
  | none =>
    obtain ⟨-, hne, -⟩ := landLoop_foldl (setCtx m t (fun x => { x with hold := none, pc := (edge.getD (backEdge (ctx m t) pc (ctx m t).depth)).1 })) t
      (core m (t / 4)).cycle pc (edge.getD (backEdge (ctx m t) pc (ctx m t).depth)).2
    exact ⟨landLoop_hq .., fun u h => (hne u h).trans (ctx_setCtx_ne m _ h)⟩

/-- The check of a thread that waits for an event leaves the counters, every other thread, and the thread itself where nothing holds it. -/
theorem evCheck_frame (m : Mod) (t : Nat) :
    (evCheck m t).hq = m.hq ∧ ∀ u, (ctx m u).hold = none → ctx (evCheck m t) u = ctx m u := by
  unfold evCheck
  split
  · next h hh =>
    have hg : (finishHold m t).hq = m.hq ∧ ∀ u, (ctx m u).hold = none → ctx (finishHold m t) u = ctx m u := by
      simp only [finishHold, hh]
      obtain ⟨hq, hne⟩ := goOn_frame m t h.bundle h.redirect h.edge
      refine ⟨hq, fun u hu => hne u ?_⟩
      rintro rfl
      simp [hh] at hu
    split
    · split
      · exact hg
      · exact ⟨rfl, fun _ _ => rfl⟩
    · exact ⟨rfl, fun _ _ => rfl⟩
  · exact ⟨rfl, fun _ _ => rfl⟩

theorem foldl_evCheck_frame (ts : List Nat) (m : Mod) :
    (ts.foldl evCheck m).hq = m.hq ∧ ∀ u, (ctx m u).hold = none → ctx (ts.foldl evCheck m) u = ctx m u := by
  induction ts generalizing m with
  | nil => exact ⟨rfl, fun _ _ => rfl⟩
  | cons t ts ih =>
    obtain ⟨hq, hc⟩ := evCheck_frame m t
    obtain ⟨ihq, ihc⟩ := ih (evCheck m t)
    exact ⟨ihq.trans hq, fun u hu => (ihc u (by rw [hc u hu]; exact hu)).trans (hc u hu)⟩

theorem setEvc_frame (m : Mod) (n : Nat) (x : BitVec 32) :
    tblGet 0 (setEvc m n x).hq.evc n = x ∧ ∀ u, (ctx m u).hold = none → ctx (setEvc m n x) u = ctx m u := by
  obtain ⟨hq, hc⟩ := foldl_evCheck_frame (allThreads { m with hq := { m.hq with evc := tblPut m.hq.evc n x } }) { m with hq := { m.hq with evc := tblPut m.hq.evc n x } }
  refine ⟨?_, hc⟩
  rw [setEvc, evCheckAll, hq]
  exact tblGet_tblPut_self 0 _ n x

section
variable {s : State} {a : RegAccess} (ha : wholeWrite a = true)
include ha

theorem exec_hqiEvcWrite {n : BitVec 16} (h : AoReachable s.mod (0x900000 + 8 * n.toNat)) :
    exec (.hqiEvcWrite n a) s = .next { s with mod := { setEvc s.mod n.toNat (a.value.setWidth 32) with answer := .none } } := by
  have hn := n.isLt
  have ho : 0x900000 + 8 * n.toNat - 0x800000 = 0x100000 + 8 * n.toNat := by omega
  show writeReg s _ a = _
  rw [writeReg_ao ha h (by omega) (by omega) (by omega)]
  · have hw : regWrite s.mod (0x900000 + 8 * n.toNat) a.value wholeMask = setEvc s.mod n.toNat (a.value.setWidth 32) := by
      simp only [regWrite, if_neg (show ¬ 0x900000 + 8 * n.toNat < 0x800000 by omega), if_pos (show 0x900000 + 8 * n.toNat < 0xA00000 by omega), ho, hqiWrite]
      rw [if_neg (by omega), if_neg (by omega), if_neg (by omega), if_neg (by omega), if_neg (by omega), if_pos (by omega), if_pos (by simp), BitVec.ofNat_toNat, Nat.add_sub_cancel_left, Nat.mul_div_cancel_left _ (by decide)]
    rw [hw]
  · simp only [regRead, if_neg (show ¬ 0x900000 + 8 * n.toNat < 0x800000 by omega), if_pos (show 0x900000 + 8 * n.toNat < 0xA00000 by omega), ho, hqiRead]
    rw [if_neg (by omega), if_neg (by omega), if_neg (by omega), if_neg (by omega), if_neg (by omega), if_pos (by omega), Option.isSome_some]

theorem exec_hqiEvaddWrite {n : BitVec 16} (h : AoReachable s.mod (0x980000 + 8 * n.toNat)) :
    exec (.hqiEvaddWrite n a) s = .next { s with mod := { setEvc s.mod n.toNat (evCounter s.mod n.toNat + a.value.setWidth 32) with answer := .none } } := by
  have hn := n.isLt
  have ho : 0x980000 + 8 * n.toNat - 0x800000 = 0x180000 + 8 * n.toNat := by omega
  show writeReg s _ a = _
  rw [writeReg_ao ha h (by omega) (by omega) (by omega)]
  · have hw : regWrite s.mod (0x980000 + 8 * n.toNat) a.value wholeMask = setEvc s.mod n.toNat (evCounter s.mod n.toNat + a.value.setWidth 32) := by
      simp only [regWrite, if_neg (show ¬ 0x980000 + 8 * n.toNat < 0x800000 by omega), if_pos (show 0x980000 + 8 * n.toNat < 0xA00000 by omega), ho, hqiWrite]
      rw [if_neg (by omega), if_neg (by omega), if_neg (by omega), if_neg (by omega), if_neg (by omega), if_neg (by omega), if_pos (by omega), if_pos (by simp), BitVec.ofNat_toNat, Nat.add_sub_cancel_left, Nat.mul_div_cancel_left _ (by decide), addEvc]
    rw [hw]
  · simp only [regRead, if_neg (show ¬ 0x980000 + 8 * n.toNat < 0x800000 by omega), if_pos (show 0x980000 + 8 * n.toNat < 0xA00000 by omega), ho, hqiRead]
    rw [if_neg (by omega), if_neg (by omega), if_neg (by omega), if_neg (by omega), if_neg (by omega), if_neg (by omega), if_pos (by omega), Option.isSome_some]

end

/-! ## What each command leaves -/

theorem ctlServed_bells {m : Mod} {p : Bool} (h : portLive m p = true) (i : Nat) : ctlServed m (.host p) (0x2000000 + i) = true := by
  have hu : portUp m p = true := by simp only [portLive, Bool.and_eq_true] at h; exact h.1
  simp only [portUp, Bool.and_eq_true] at hu
  obtain ⟨⟨⟨⟨hao, hdown⟩, -⟩, -⟩, -⟩ := hu
  simp only [ctlServed, ctlReaches, h, if_neg (show ¬ 0x2000000 + i < 0x800000 by omega), hao, hdown, decide_eq_true (show 0x800000 ≤ 0x2000000 + i by omega)]
  rfl

theorem inBells_host (p : Bool) {i : Nat} (h : i < 0x1000000) : inBar2 (.host p) (0x2000000 + i) = none ∧ inBells (.host p) (0x2000000 + i) = some (p, i) := by
  constructor
  · simp only [inBar2]; rw [if_neg (by omega)]
  · simp only [inBells]; rw [if_pos (by omega), Nat.add_sub_cancel_left]

/-- A doorbell write of another size or place changes nothing (R549). -/
theorem bellWrite_ignored {m : Mod} {p : Bool} {o size : Nat} (h : ¬ ((size = 8 ∧ o % 8 = 0) ∨ (size = 4 ∧ o % 8 = 0))) (v : Word) :
    bellWrite m p o (accBytes size v) = { m with answer := .none } := by
  have h8 : ¬ (size = 8 ∧ o % 8 = 0) := fun e => h (.inl e)
  have h0 : ¬ (size = 4 ∧ o % 8 = 0) := fun e => h (.inr e)
  simp only [bellWrite, accBytes, toBytes_length, accessMask, if_neg h8, if_neg h0]
  by_cases h4 : size = 4 ∧ o % 8 = 4
  · have hc : covers 0xFFFFFFFF00000000 0 = false := by decide
    simp only [if_pos h4, hc]; rfl
  · simp only [if_neg h4]

theorem sqctlWrite_whole (r : SRing) (v : Word) :
    sqctlWrite r v wholeMask =
      let new : SRing := { r with en := v.getLsbD 63, prio := v.extractLsb' 58 3, lsize := v.extractLsb' 48 5 }
      if v.getLsbD 63 && !r.en then
        (if badLog new.lsize then { new with head := 0, tail := 0, err := 3, en := false } else { new with head := 0, tail := 0, err := 0 })
      else new := by
  simp only [sqctlWrite, masked_wholeMask, bitOf_toNat, ofNat_fld, badLog, SRing.stop, decide_eq_true_eq]

theorem cqctlWrite_whole (r : CRing) (v : Word) :
    cqctlWrite r v wholeMask =
      let new : CRing := { r with en := v.getLsbD 63, ithresh := v.extractLsb' 56 6, lsize := v.extractLsb' 48 5, itime := v.extractLsb' 27 5, vector := v.extractLsb' 16 11 }
      if v.getLsbD 63 && !r.en then { new with head := 0, tail := 0, phase := true, since := 0, firstAt := none } else new := by
  simp only [cqctlWrite, masked_wholeMask, bitOf_toNat, ofNat_fld]

theorem sring_setSring (m : Mod) (p : Bool) (n : Nat) (f : SRing → SRing) :
    tblGet {} (portOfHost (setSring m p n f) p).srings n = f (tblGet {} (portOfHost m p).srings n) := by
  rw [setSring, portOfHost_setPort, tblGet_tblMod_self]

theorem cring_setCring (m : Mod) (p : Bool) (n : Nat) (f : CRing → CRing) :
    tblGet {} (portOfHost (setCring m p n f) p).crings n = f (tblGet {} (portOfHost m p).crings n) := by
  rw [setCring, portOfHost_setPort, tblGet_tblMod_self]

/-- A change of one context behind a write's answer. -/
theorem threadOnly_setCtx (s : State) (t : Nat) (f : Ctx → Ctx) : ThreadOnly s { s with mod := { setCtx s.mod t f with answer := .none } } t (f (ctx s.mod t)) :=
  ⟨rfl, ctx_setCtx_self s.mod t f, fun _ h => ctx_setCtx_ne s.mod f h, fun _ h => core_setCtx_ne s.mod f h⟩

theorem loadctlWrite_whole (m : Mod) (v : Word) :
    loadctlWrite m v wholeMask =
      (let m' : Mod := { m with hq := { m.hq with loadEn := v.getLsbD 0 } }
       if v.getLsbD 0 && !m.hq.loadEn then debugEvent m' 1 else m') := by
  simp [loadctlWrite, bitOf_toNat]

/-- A debug event adds one extension of MR5 and leaves the host queue engine (R672). -/
theorem debugEvent_frame (m : Mod) (code : Byte) :
    (debugEvent m code).hq = m.hq ∧ tblGet 0 (debugEvent m code).sec.mrCount 5 = tblGet 0 m.sec.mrCount 5 + 1 :=
  ⟨rfl, tblGet_tblMod_self 0 m.sec.mrCount 5 (· + 1)⟩

/-- A whole write of DBG_LOADCTL sets the enable, and extends MR5 where it was clear and becomes set. -/
theorem loadctlWrite_effect (m : Mod) (v : Word) :
    (loadctlWrite m v wholeMask).hq = { m.hq with loadEn := v.getLsbD 0 } ∧
    (v.getLsbD 0 = false ∨ m.hq.loadEn = true → (loadctlWrite m v wholeMask).sec = m.sec) ∧
    (v.getLsbD 0 = true → m.hq.loadEn = false → tblGet 0 (loadctlWrite m v wholeMask).sec.mrCount 5 = tblGet 0 m.sec.mrCount 5 + 1) := by
  rw [loadctlWrite_whole]
  by_cases h : (v.getLsbD 0 && !m.hq.loadEn) = true
  · obtain ⟨hq, hmr⟩ := debugEvent_frame { m with hq := { m.hq with loadEn := v.getLsbD 0 } } 1
    simp only [Bool.and_eq_true, Bool.not_eq_true'] at h
    obtain ⟨hset, hclear⟩ := h
    simp only [hset, hclear, Bool.not_false, Bool.and_self, if_true] at hq hmr ⊢
    exact ⟨hq, fun e => by simp at e, fun _ _ => hmr⟩
  · refine ⟨?_, fun _ => ?_, fun hset hclear => absurd (by simp [hset, hclear]) h⟩ <;> simp only [if_neg h]

/-- A write of HQI_THINT makes an interrupt pending for a live thread and for no other (R317). -/
theorem exec_hqiThintWrite_threadOnly {s : State} {a : RegAccess} (ha : wholeWrite a = true) (h : AoReachable s.mod 0x840010) :
    let th := (a.value.extractLsb' 0 13).toNat
    ∃ t, exec (.hqiThintWrite a) s = .next t ∧ ThreadOnly s t th (if (ctx s.mod th).live then
      { ctx s.mod th with pendInt := (ctx s.mod th).pendInt ||| (if a.value.getLsbD 63 then 0x10 else 0x20) } else ctx s.mod th) := by
  intro th
  have hth : a.value.toNat % 8192 = th := by simp [th]
  refine ⟨_, exec_hqiThintWrite ha h, ?_⟩
  rw [hth, thint, isLive]
  by_cases hl : (ctx s.mod th).live = true
  · rw [if_pos hl, if_pos hl]
    exact threadOnly_setCtx s th _
  · rw [if_neg hl, if_neg hl]
    exact ⟨rfl, rfl, fun _ _ => rfl, fun _ _ => rfl⟩

/-- An event that the mesh counts at a tile (R34, R45, R636). -/
theorem onMesh_countCluster {s : State} (hm : meshRuns s.mod = true) (q k n : Nat) :
    ∃ t : State, onMesh s (fun m => countCluster m q k n) = .next t ∧ t.pending = s.pending ∧
      tblGet 0 (cluster t.mod q).counters k = tblGet 0 (cluster s.mod q).counters k + BitVec.ofNat 64 n ∧
      t.mod = { s.mod with clusters := t.mod.clusters } ∧ ∀ p, p ≠ q → cluster t.mod p = cluster s.mod p :=
  ⟨_, if_pos hm, rfl, cluster_countCluster_counter .., countCluster_eq .., fun _ hp => cluster_countCluster_ne s.mod k n hp⟩

theorem mem_addUnlessContains (l : List Bool) (b x : Bool) : x ∈ (if l.contains b then l else l ++ [b]) ↔ x ∈ l ∨ x = b := by
  by_cases h : b ∈ l
  · have hx : x = b → x ∈ l := fun e => e ▸ h
    simp [h, or_iff_left_of_imp hx]
  · simp [h]

/-- A steward bridge goes down beside those that are; with the other up, that one carries all traffic, and else none does (R27). -/
theorem exec_stewardBridgeFailover (s : State) (b : Bool) :
    ∃ t, exec (.stewardBridgeFailover b) s = .next t ∧ t.pending = s.pending ∧ b ∈ t.mod.bridgeDown ∧ (∀ e ∈ s.mod.bridgeDown, e ∈ t.mod.bridgeDown) ∧
      ((!b) ∉ s.mod.bridgeDown → ∀ k, bridgeFor t.mod k = some (!b)) ∧ ((!b) ∈ s.mod.bridgeDown → ∀ k, bridgeFor t.mod k = none) ∧
      t.mod = { s.mod with bridgeDown := t.mod.bridgeDown } := by
  have hmem := mem_addUnlessContains s.mod.bridgeDown b
  have hb := (hmem b).mpr (.inr rfl)
  have hother (h : (!b) ∉ s.mod.bridgeDown) : (!b) ∉ (if s.mod.bridgeDown.contains b then s.mod.bridgeDown else s.mod.bridgeDown ++ [b]) :=
    fun e => ((hmem _).mp e).elim h (fun e => Bool.eq_not.mp e.symm rfl)
  exact ⟨_, rfl, rfl, hb, fun e he => (hmem e).mpr (.inl he), fun h k => bridgeFor_some hb (hother h) k,
    fun h k => bridgeFor_none hb ((hmem _).mpr (.inl h)) k, rfl⟩

/-- A read of HBM_ERR answers its counts and clears them (R9, R494). -/
theorem exec_readClear_hbmErr {s : State} {who : Who} {q : ClusterId} (hs : ctlServed s.mod who (0x10000 * q.toNat + 0x20) = true)
    (hf : fencedAt s.mod (ctlAddr (0x10000 * q.toNat + 0x20)) s.mod.now = false) :
    exec (.readClearFieldRead who (0x10000 * q.toNat + 0x20) 8) s =
      .next { s with mod := { setCluster s.mod q.toNat (fun c => { c with ce := 0, ue := 0 }) with
        answer := .value (w64 ((cluster s.mod q.toNat).ce.toNat * 2 ^ 32 + (cluster s.mod q.toNat).ue.toNat * 2 ^ 16)) } } := by
  have hq := q.isLt
  have hx := setupRead_whole hs (by omega) hf (submitPort_clusterRegs (by omega)) (commitPort_below (by omega)) (by omega) (regRead_hbmErr s.mod hq)
  show Host.Outcome.next _ = _
  rw [hx, regClear_hbmErr s.mod hq]

/-- The counts as HBM_ERR holds them (R494). -/
theorem hbmErr_fields (ce : BitVec 32) (ue : BitVec 16) :
    (w64 (ce.toNat * 2 ^ 32 + ue.toNat * 2 ^ 16)).extractLsb' 32 32 = ce ∧ (w64 (ce.toNat * 2 ^ 32 + ue.toNat * 2 ^ 16)).extractLsb' 16 16 = ue := by
  have hce := ce.isLt
  have hue := ue.isLt
  have hn : (w64 (ce.toNat * 2 ^ 32 + ue.toNat * 2 ^ 16)).toNat = ce.toNat * 2 ^ 32 + ue.toNat * 2 ^ 16 := by
    rw [BitVec.toNat_ofNat, Nat.mod_eq_of_lt (by omega)]
  have h1 : (ce.toNat * 2 ^ 32 + ue.toNat * 2 ^ 16) / 2 ^ 32 = ce.toNat := by omega
  have h2 : (ce.toNat * 2 ^ 32 + ue.toNat * 2 ^ 16) / 2 ^ 16 % 2 ^ 16 = ue.toNat := by omega
  rw [← ofNat_fld, ← ofNat_fld, hn, fld, fld, h1, h2, Nat.mod_eq_of_lt hce]
  simp

theorem fabIdWrite_whole (m : Mod) (v : Word) :
    fabIdWrite m v wholeMask =
      { m with fab := if fabIdOk (v.extractLsb' 0 48) (v.extractLsb' 48 16).toNat then { m.fab with id := v.extractLsb' 48 16, sizes := v.extractLsb' 0 48 } else m.fab } := by
  have hsizes : BitVec.ofNat 48 v.toNat = v.extractLsb' 0 48 := by
    apply BitVec.eq_of_toNat_eq; simp
  simp only [fabIdWrite, masked_wholeMask, hsizes, ofNat_fld]
  rw [fld_toNat]
  split <;> simp

/-- Settles O50: command by command, from what a served write or read does to its register. -/
theorem registersAreWritten : Obligations.RegistersAreWritten := by
  unfold Obligations.RegistersAreWritten
  refine ⟨?_, ?_, ?_, ?_, ?_, ?_, ?_, ?_, ?_, ?_, ?_⟩
  · intro s who off size v hs ho
    refine ⟨fun hf hd => ?_, fun hf hp hc hsize => ?_⟩
    · have hw : writeFenced s.mod who off = true := by
        cases who <;> simp_all [writeFenced]
      show Host.Outcome.next _ = _
      rw [setupWrite_fenced hs ho hw]
    · show Host.Outcome.next _ = _
      rw [setupWrite_bad hs ho (writeFenced_of_not_fenced who hf) hp hc (accessMask_none hsize)]
  · intro s off size v ho hb
    have hs : ctlServed s.mod .firmware off = false := by
      simp [ctlServed, ctlReaches, stewardReaches, hb, Nat.not_le.mpr ho]
    constructor <;> show Host.Outcome.next _ = _
    · simp [setupWrite, hs]
    · simp [setupRead, hs]
  · intro s p i size v hi hl
    obtain ⟨h2, hb⟩ := inBells_host p hi
    refine ⟨?_, fun hsize => ?_⟩ <;> show Host.Outcome.next _ = _
    · simp [setupRead, ctlServed_bells hl, h2, hb]
    · simp [setupWrite, ctlServed_bells hl, h2, hb, bellWrite_ignored hsize]
  · intro s c v hm hr hk
    have hlt := coreBlock_lt c.isLt (k := 0x10) (by omega)
    have hs : ctlServed s.mod .firmware (coreBlock c.toNat + 0x10) = true := by
      have hq := (coreBlock_fields c.toNat (k := 0x10) (by omega)).1
      simp [ctlServed, ctlReaches, hlt, hm, hq, hr]
    have hf : writeFenced s.mod .firmware (coreBlock c.toNat + 0x10) = false := by
      simp [writeFenced, dfspAt_coreBlock c.isLt]
    refine ⟨_, rfl, ?_⟩
    rw [setupWrite_core c.isLt (by omega) (by omega) hs hf rfl rfl, coreWrite_dfsp hk]
    exact coreChanged_setCore s c.toNat _
  · intro s who c v k o hs hf
    refine ⟨⟨_, rfl, ?_⟩, ⟨_, rfl, ?_⟩⟩
    · rw [setupWrite_core c.isLt (by omega) (by omega) hs (writeFenced_of_not_fenced who hf) rfl rfl, coreWrite_saveBase]
      exact coreChanged_setCore s c.toNat _
    · rw [setupWrite_saveBase_half c.isLt hs (writeFenced_of_not_fenced who hf), coreWrite_saveBase_half]
      exact coreChanged_setCore s c.toNat _
  · intro s who q o k hs hf
    obtain ⟨hce, hue⟩ := hbmErr_fields k.ce k.ue
    exact ⟨_, _, exec_readClear_hbmErr hs hf, rfl, rfl, hce, hue, cluster_setCluster_self s.mod q.toNat (fun c => { c with ce := 0, ue := 0 }),
      fun p hp => cluster_setCluster_ne s.mod (fun c => { c with ce := 0, ue := 0 }) hp, rfl⟩
  · intro s q n b
    refine ⟨fun hm e he => ?_, exec_stewardBridgeFailover s b⟩
    simp only [List.mem_cons, List.mem_nil_iff, or_false] at he
    rcases he with rfl | rfl
    · exact onMesh_countCluster hm q.toNat 0 1
    · exact onMesh_countCluster hm q.toNat 1 n
  · intro s thread w a ha h
    exact ⟨_, exec_dbgBarmemWrite ha h, threadOnly_setCtx s thread.toNat _, rfl⟩
  · intro s j a ha hj h new
    refine ⟨_, exec_hbmPlaceWrite ha hj h, rfl, ?_⟩
    rw [placeWrite_whole]
    refine ⟨tblGet_tblPut_self .., fun k hk => tblGet_tblPut_ne _ _ _ hk, fun hsame => ?_, fun _ b hb hr => byte_scrambleRegions hb hr hj _ _, rfl⟩
    show scrambleRegions s.mod.mem j.toNat (placeChanges (placeOf s.mod j.toNat) new) = s.mod.mem
    rw [hsame, placeChanges_same]
    rfl
  · intro s a ha h id sizes modules
    rw [exec_fabIdWrite ha h, fabIdWrite_whole]
    simp only [fabIdOk_iff]
    rfl
  · intro s p ring n a ha v sr cr sNew cNew starts
    refine ⟨fun h => ⟨_, exec_hqiSqctlWrite ha h, rfl, ?_⟩, fun h => ⟨_, exec_hqiCqctlWrite ha h, rfl, ?_⟩, fun h => ⟨_, exec_hqiEvcWrite ha h, rfl, setEvc_frame ..⟩,
      fun h => ⟨_, exec_hqiEvaddWrite ha h, rfl, setEvc_frame ..⟩, exec_hqiThintWrite_threadOnly ha,
      fun h => ⟨_, exec_dbgLoadctlWrite ha h, rfl, loadctlWrite_effect ..⟩⟩
    · have hr : tblGet {} (portOfHost (setSring s.mod p ring.toNat (fun r => sqctlWrite r v wholeMask)) p).srings ring.toNat = sqctlWrite sr v wholeMask := sring_setSring ..
      have hw : sqctlWrite sr v wholeMask = if starts sr.en then
          (if badLog sNew.lsize then { sNew with head := 0, tail := 0, err := 3, en := false } else { sNew with head := 0, tail := 0, err := 0 }) else sNew := sqctlWrite_whole sr v
      rw [hw] at hr
      refine ⟨fun h0 => hr.trans (if_neg (by simp [h0])), fun h1 hb => hr.trans (by rw [if_pos h1, if_neg (by simp [hb])]), fun h1 hb => ?_⟩
      rw [if_pos h1, if_pos hb] at hr
      exact ⟨congrArg SRing.en hr, congrArg SRing.err hr⟩
    · exact (cring_setCring ..).trans (cqctlWrite_whole cr v)

end Sys2Proof.Machine
end

section
/-! SUPPORT. The settlement of O56: a queue table that holds a number no core has. -/

namespace Sys2Proof.Machine

/-! ## A stray queue -/

/-- The end of the drain of thread 0 is due. The queue table of core 0 holds the number 130, which is not among the 128 queues of a core and which no command writes there; thread 4, of core 1, has the window of SRF register 3 bound to its queue 2. As the model numbers queues over all cores, 128 * 0 + 130 is the queue 2 of core 1. -/
def strayQueue : State :=
  { pending := [], mod := {
      cores := [(0, { ctxs := [(0, { live := true })], queues := [(130, { isOpen := true })] }), (1, { ctxs := [(0, { windows := [(3, 2)] })] })],
      rcv := { resets := [{ d := .thread 0, draining := true, drainAt := 0, limitAt := 0, hang := false, dbg := false, escalated := false }] } } }

theorem strayQueue_drainWaits : drainWaits strayQueue.mod (.thread 0) = false := by decide +kernel

theorem strayQueue_window : (ctx strayQueue.mod 4).windows = [(3, 2)] := by decide +kernel

/-- The end of thread 0 closes the stray queue, and with it unbinds a window of the other core. -/
theorem strayQueue_drainEnd : ∃ t, exec (.kerbDrainEnd (.thread 0)) strayQueue = .next t ∧ (ctx t.mod 4).windows = [] :=
  ⟨_, rfl, by decide +kernel⟩

/-- Refutes O56, by the clause that the end of a thread's drain leaves the contexts of every other core: in `strayQueue`, a state with a queue number past the 128 of a core, it unbinds a window of thread 4. The statement would need the numbers in the queue tables to be below 128. -/
theorem not_resetsRun : ¬ Obligations.ResetsRun := by
  unfold Obligations.ResetsRun
  intro h
  obtain ⟨-, -, -, -, hdrain, -⟩ := h
  obtain ⟨-, hends⟩ := hdrain strayQueue
    { d := .thread 0, draining := true, drainAt := 0, limitAt := 0, hang := false, dbg := false, escalated := false } rfl
  obtain ⟨hthread, -⟩ := hends strayQueue_drainWaits
  obtain ⟨t, ht, -, -, hothers, -⟩ := hthread 0 rfl
  obtain ⟨t', ht', hw⟩ := strayQueue_drainEnd
  have htt : t = t' := Host.Outcome.next.inj (ht.symm.trans ht')
  have hsame : ctx t.mod 4 = ctx strayQueue.mod 4 := hothers 4 (by decide)
  rw [htt] at hsame
  rw [hsame, strayQueue_window] at hw
  exact absurd hw (by decide)

end Sys2Proof.Machine
end

section
/-! SUPPORT. The settlement of O47: what a delivered item of control traffic does at its queue or endpoint (R32, R360 to R363, R368 to R373). -/

namespace Sys2Proof.Machine

/-! ## A queue changed -/

@[simp] theorem queueAt_setQueue_self (m : Mod) (q : Nat) (f : Queue → Queue) : queueAt (setQueue m q f) q = f (queueAt m q) := by
  simp [queueAt, setQueue]

theorem queueAt_setQueue_ne (m : Mod) {q p : Nat} (f : Queue → Queue) (h : p ≠ q) : queueAt (setQueue m q f) p = queueAt m p := by
  by_cases hc : p / 128 = q / 128
  · have hm : p % 128 ≠ q % 128 := by omega
    simp [queueAt, setQueue, hc, tblGet_tblMod_ne _ _ _ _ hm]
  · simp [queueAt, setQueue, core_setCore_ne m _ hc]

@[simp] theorem ctx_setQueue (m : Mod) (q : Nat) (f : Queue → Queue) (t : Nat) : ctx (setQueue m q f) t = ctx m t := ctx_setCore _ _ _ _ rfl

@[simp] theorem core_setQueue_store (m : Mod) (q c : Nat) (f : Queue → Queue) : (core (setQueue m q f) c).store = (core m c).store := by
  by_cases h : c = q / 128
  · subst h; simp [setQueue]
  · rw [setQueue, core_setCore_ne m _ h]

/-- A change of a core that leaves its queues leaves every queue of the module. -/
theorem queueAt_setCore (m : Mod) (c : Nat) (f : Core → Core) (q : Nat) (h : (f (core m c)).queues = (core m c).queues) : queueAt (setCore m c f) q = queueAt m q := by
  by_cases hc : q / 128 = c
  · subst hc; simp [queueAt, h]
  · simp [queueAt, core_setCore_ne m f hc]

@[simp] theorem queueAt_setCtx (m : Mod) (t : Nat) (f : Ctx → Ctx) (q : Nat) : queueAt (setCtx m t f) q = queueAt m q := queueAt_setCore _ _ _ _ rfl

@[simp] theorem queueAt_count (m : Mod) (c k n q : Nat) : queueAt (count m c k n) q = queueAt m q := by simp [queueAt]

/-- A counter advanced changes the cores alone. -/
theorem count_rest (m : Mod) (c k n : Nat) : count m c k n = { m with cores := (count m c k n).cores } := by
  unfold count; split <;> rfl

theorem queueChanged_refl (m : Mod) (q : Nat) : QueueChanged m m q (queueAt m q) := ⟨rfl, fun _ _ => rfl, fun _ => rfl, fun _ _ => rfl, rfl⟩

theorem queueChanged_setQueue (m : Mod) (q : Nat) (f : Queue → Queue) : QueueChanged m (setQueue m q f) q (f (queueAt m q)) :=
  ⟨queueAt_setQueue_self m q f, fun _ h => queueAt_setQueue_ne m f h, ctx_setQueue m q f, fun _ h => core_setCore_ne m _ h, by simp [setQueue]⟩

/-! ## Which item is delivered (R32, R363, R369) -/

theorem find?_append_of_mem {α : Type} {p : α → Bool} {pre : List α} (rest : List α) {x : α} (hx : x ∈ pre) (hp : p x = true) :
    ∃ y ∈ pre, (pre ++ rest).find? p = some y := by
  obtain ⟨y, hy⟩ := Option.isSome_iff_exists.mp (List.find?_isSome.mpr ⟨x, hx, hp⟩)
  exact ⟨y, List.mem_of_find?_eq_some hy, by simp [hy]⟩

/-- The front item of the control network is delivered, and leaves it. -/
theorem takeItem_front {m : Mod} {c : Ctl} {rest : List Ctl} (hr : meshRuns m = true) (hn : m.net = c :: rest) :
    takeItem m c.kind (.inFlight c.id) = some ({ m with net := rest }, none, c) := by
  simp [takeItem, hr, hn, netFirst, removeFirst]

/-- An item is not delivered before an earlier one of its tiles and virtual channel. -/
theorem takeItem_behind {m : Mod} {pre rest : List Ctl} {x c : Ctl} (hn : m.net = pre ++ c :: rest) (hx : x ∈ pre) (ht : x.tiles = c.tiles) (h0 : x.c0 = c.c0)
    (hid : ∀ y ∈ pre, y.id ≠ c.id) : takeItem m c.kind (.inFlight c.id) = none := by
  have hc : m.net.find? (fun k => k.id == c.id && k.kind == c.kind) = some c := by
    have hpre : pre.find? (fun k => k.id == c.id && k.kind == c.kind) = none := List.find?_eq_none.mpr (fun y hy => by simp [hid y hy])
    simp [hn, hpre]
  have hfirst : netFirst m.net c = false := by
    obtain ⟨y, hy, hfind⟩ := find?_append_of_mem (p := fun k => k.tiles == c.tiles && k.c0 == c.c0) (c :: rest) hx (by simp [ht, h0])
    simp [netFirst, hn, hfind, hid y hy]
  simp [takeItem, hc, hfirst]

/-- A packet is not delivered before an earlier one of its channel and direction that its link has received. -/
theorem takeItem_behind_fromLink {m : Mod} {kind : CtlKind} {l : BitVec 7} {p x : Packet} {pre rest : List Packet} (hq : (linkOf m l.toNat).rxq = pre ++ p :: rest)
    (hx : x ∈ pre) (hs : sameChannel x p = true) (hp : p ∉ pre) : takeItem m kind (.fromLink l p) = none := by
  have hfirst : rxFirst (linkOf m l.toNat).rxq p = false := by
    obtain ⟨y, hy, hfind⟩ := find?_append_of_mem (p := fun k => sameChannel k p) (p :: rest) hx hs
    have hne : y ≠ p := fun e => hp (e ▸ hy)
    simp [rxFirst, hq, hfind, hne]
  simp [takeItem, hfirst]

theorem deliverItem_taken {s : State} {kind : CtlKind} {src : MsgSrc} {m : Mod} {peer : Option (BitVec 16)} {c : Ctl}
    (h : takeItem s.mod kind src = some (m, peer, c)) (f : Mod → Option (BitVec 16) → Ctl → Mod) : deliverItem s kind src f = .next { s with mod := f m peer c } := by
  simp only [deliverItem, h]

/-! ## At a queue (R360, R362, R369, R373) -/

theorem grantedOf_eq (k : Queue) : grantedOf k = (k.grants.map (fun g => g.n)).foldl (· + ·) 0 := by
  rw [grantedOf, List.foldl_map]

theorem toEndpoint_here {c : Ctl} (m : Mod) (h : c.ep.peer = none) : toEndpoint m c = netSend m c := by
  simp only [toEndpoint, ctlSend, h]

theorem dropGrant_eq_letGo (k : Queue) (c : Ctl) : dropGrant k c = letGo k c := by
  unfold dropGrant letGo channelOf Queue.openGrant
  cases k.grants.find? (fun g => g.ep == c.ep && g.c0 == c.c0 && g.req == c.req && !g.released) with
  | none => rfl
  | some r => simp only [Option.map_some, Queue.settleGrants, Bool.not_and, Bool.not_not]

/-- Offsets below a depth that meet modulo the depth are the same. -/
theorem mod_add_inj {h d i j : Nat} (hi : i < d) (hj : j < d) (he : (h + i) % d = (h + j) % d) : i = j := by
  have hzero : ∀ {a b : Nat}, a < d → (h + a) % d = (h + b) % d → a - b = 0 := fun {a b} ha hm => by
    have hs := Nat.sub_mod_eq_zero_of_mod_eq hm
    rwa [Nat.add_sub_add_left, Nat.mod_eq_of_lt (by omega)] at hs
  have hij := hzero hi he
  have hji := hzero hj he.symm
  omega

theorem tblFind_foldl_tblPut_notMem {α : Type} (l : List (Nat × α)) (t : Tbl α) (k : Nat) (h : ∀ p ∈ l, p.1 ≠ k) :
    tblFind (l.foldl (fun t p => tblPut t p.1 p.2) t) k = tblFind t k := by
  induction l generalizing t with
  | nil => rfl
  | cons p l ih =>
    rw [List.foldl_cons, ih _ (fun q hq => h q (List.mem_cons_of_mem _ hq)), tblFind_tblPut_ne _ _ (h p List.mem_cons_self).symm]

/-- A table into which pairs with distinct keys were put holds each of them. -/
theorem tblFind_foldl_tblPut_mem {α : Type} (l : List (Nat × α)) (t : Tbl α) (hd : (l.map Prod.fst).Nodup) {p : Nat × α} (hp : p ∈ l) :
    tblFind (l.foldl (fun t p => tblPut t p.1 p.2) t) p.1 = some p.2 := by
  induction l generalizing t with
  | nil => cases hp
  | cons e l ih =>
    obtain ⟨hne, hd⟩ := List.nodup_cons.mp hd
    rw [List.foldl_cons]
    rcases List.mem_cons.mp hp with rfl | hp
    · have hl : ∀ q ∈ l, q.1 ≠ p.1 := fun q hq he => hne (List.mem_map.mpr ⟨q, hq, he⟩)
      rw [tblFind_foldl_tblPut_notMem l _ _ hl, tblFind_tblPut_self]
    · exact ih _ hd hp

/-- The store entries that a message of `n` entries takes: those behind the entries held (R369). -/
def msgSlots (k : Queue) (n : Nat) : List Nat := (List.range n).map (fun i => k.base + (k.hd + k.count + i) % k.depth)

/-- The entries of a message written into the store of the queue's core. -/
def msgStored (m : Mod) (q : Nat) (l : List QEntry) : Mod :=
  setCore m (q / 128) (fun co =>
    { co with store := ((msgSlots (queueAt m q) l.length).zip l).foldl (fun t p => tblPut t p.1 p.2) co.store
              storeBad := co.storeBad.filter (fun e => !(msgSlots (queueAt m q) l.length).contains e) })

/-- A queue with a message more. -/
def withMsg (k : Queue) (c : Ctl) : Queue :=
  { k with count := k.count + c.entries.length
           msgs := k.msgs ++ [{ ep := c.ep, chan := (channelOf k c).getD k.nextChan, c0 := c.c0, n := c.entries.length, left := c.entries.length }] }

/-- The store entries of a message are distinct where there is room for it. -/
theorem msgSlots_nodup {k : Queue} {n : Nat} (h : n ≤ k.depth) : (msgSlots k n).Nodup := by
  refine List.pairwise_map.mpr (List.Pairwise.imp_of_mem (fun {i j} hi hj hne he => hne ?_) (List.nodup_range (n := n)))
  have hi := Nat.lt_of_lt_of_le (List.mem_range.mp hi) h
  have hj := Nat.lt_of_lt_of_le (List.mem_range.mp hj) h
  exact mod_add_inj hi hj (Nat.add_left_cancel he)

/-- Entry `i` of the message is what the store holds there. -/
theorem msgStored_store {m : Mod} {q : Nat} {l : List QEntry} (h : l.length ≤ (queueAt m q).depth) {i : Nat} (hi : i < l.length) :
    let k := queueAt m q
    tblGet 0 (core (msgStored m q l) (q / 128)).store (k.base + (k.hd + k.count + i) % k.depth) = l.getD i 0 := by
  intro k
  have hlen : (msgSlots k l.length).length = l.length := by simp [msgSlots]
  have hkeys : ((msgSlots k l.length).zip l).map Prod.fst = msgSlots k l.length := List.map_fst_zip (by omega)
  have hmem : (k.base + (k.hd + k.count + i) % k.depth, l[i]) ∈ (msgSlots k l.length).zip l :=
    List.mem_iff_getElem.mpr ⟨i, by simp [hlen, hi], by simp [msgSlots]⟩
  have hput := tblFind_foldl_tblPut_mem _ (core m (q / 128)).store (by rw [hkeys]; exact msgSlots_nodup h) hmem
  simp only [msgStored, core_setCore_self, tblGet]
  rw [hput]
  simp [hi]

section
variable (m : Mod) (q : Nat) (l : List QEntry) (f : Queue → Queue)

/-- A message written to the store with its queue changed by `f`, and counted. -/
def msgCounted : Mod := count (setQueue (msgStored m q l) q f) (q / 128) 41 1

theorem msgCounted_rest : msgCounted m q l f = { m with cores := (msgCounted m q l f).cores } := count_rest ..

theorem queueAt_msgCounted_self : queueAt (msgCounted m q l f) q = f (queueAt m q) := by
  simp only [msgCounted, queueAt_count, queueAt_setQueue_self]
  exact congrArg f (queueAt_setCore m _ _ _ rfl)

theorem queueAt_msgCounted_ne {p : Nat} (h : p ≠ q) : queueAt (msgCounted m q l f) p = queueAt m p := by
  rw [msgCounted, queueAt_count, queueAt_setQueue_ne _ _ h]
  exact queueAt_setCore m _ _ _ rfl

theorem ctx_msgCounted (u : Nat) : ctx (msgCounted m q l f) u = ctx m u := by
  rw [msgCounted, ctx_count, ctx_setQueue]
  exact ctx_setCore m _ _ _ rfl

theorem core_msgCounted_store (c : Nat) : (core (msgCounted m q l f) c).store = (core (msgStored m q l) c).store := by
  rw [msgCounted, core_count_store, core_setQueue_store]

end

theorem takeMsg_stale {m : Mod} {c : Ctl} (h : (queueAt m c.queue.toNat).isOpen = false ∨ (queueAt m c.queue.toNat).epoch ≠ c.epoch) :
    takeMsg m c = count m (c.queue.toNat / 128) 43 1 := by
  unfold takeMsg
  rw [if_pos (by simpa using h)]

section
variable {m : Mod} {c : Ctl} (ho : (queueAt m c.queue.toNat).isOpen = true) (he : (queueAt m c.queue.toNat).epoch = c.epoch)
include ho he

theorem takeMsg_full (h : (queueAt m c.queue.toNat).depth < (queueAt m c.queue.toNat).count + c.entries.length) : takeMsg m c = m := by
  unfold takeMsg
  rw [if_neg (by simp [ho, he]), if_pos h]

theorem takeMsg_room (h : (queueAt m c.queue.toNat).count + c.entries.length ≤ (queueAt m c.queue.toNat).depth) :
    takeMsg m c = queueEvent (msgCounted m c.queue.toNat c.entries (fun k => withMsg k c)) c.queue.toNat := by
  unfold takeMsg
  rw [if_neg (by simp [ho, he]), if_neg (Nat.not_lt.mpr h)]
  rfl

end

theorem queueEvent_unarmed {m : Mod} {q : Nat} (h : (queueAt m q).evarm = false) : queueEvent m q = m := by
  simp [queueEvent, h]

section
variable (m : Mod) (q : Nat)

/-- The event of an arrival changes the queue and its reader alone, where the queue is armed (R373). -/
theorem queueEvent_rest : queueEvent m q = { m with cores := (queueEvent m q).cores } := by
  simp only [queueEvent]; split <;> rfl

theorem queueAt_queueEvent_self : queueAt (queueEvent m q) q = { queueAt m q with arrival := (queueAt m q).arrival || (queueAt m q).evarm } := by
  cases h : (queueAt m q).evarm
  · rw [queueEvent_unarmed h, Bool.or_false]
  · simp [queueEvent, h]

theorem queueAt_queueEvent_ne {p : Nat} (h : p ≠ q) : queueAt (queueEvent m q) p = queueAt m p := by
  cases he : (queueAt m q).evarm <;> simp [queueEvent, he, queueAt_setQueue_ne m _ h]

theorem core_queueEvent_store (c : Nat) : (core (queueEvent m q) c).store = (core m c).store := by
  cases he : (queueAt m q).evarm <;> simp [queueEvent, he]

theorem ctx_queueEvent (u : Nat) :
    ctx (queueEvent m q) u = if u = readerOf q (queueAt m q) ∧ (queueAt m q).evarm = true then { ctx m u with pendInt := (ctx m u).pendInt ||| 1 } else ctx m u := by
  cases he : (queueAt m q).evarm
  · simp [queueEvent, he]
  · by_cases hu : u = readerOf q (queueAt m q)
    · subst hu; simp [queueEvent, he]
    · simp [queueEvent, he, hu, ctx_setCtx_ne _ _ hu]

end

/-- A message for which there is room, at its open queue (R369, R373). -/
theorem takeMsg_room_effect {m : Mod} {c : Ctl} (ho : (queueAt m c.queue.toNat).isOpen = true) (he : (queueAt m c.queue.toNat).epoch = c.epoch)
    (hr : (queueAt m c.queue.toNat).count + c.entries.length ≤ (queueAt m c.queue.toNat).depth) :
    let q := c.queue.toNat
    let k := queueAt m q
    queueAt (takeMsg m c) q = { withMsg k c with arrival := k.arrival || k.evarm } ∧ (∀ p, p ≠ q → queueAt (takeMsg m c) p = queueAt m p) ∧
    (∀ i, i < c.entries.length → tblGet 0 (core (takeMsg m c) (q / 128)).store (k.base + (k.hd + k.count + i) % k.depth) = c.entries.getD i 0) ∧
    (∀ u, ctx (takeMsg m c) u = if u = readerOf q k ∧ k.evarm = true then { ctx m u with pendInt := (ctx m u).pendInt ||| 1 } else ctx m u) ∧
    takeMsg m c = { m with cores := (takeMsg m c).cores } := by
  intro q k
  have hself : queueAt (msgCounted m q c.entries (fun k => withMsg k c)) q = withMsg k c := queueAt_msgCounted_self ..
  rw [takeMsg_room ho he hr]
  refine ⟨?_, fun p hp => ?_, fun i hi => ?_, fun u => ?_, ?_⟩
  · rw [queueAt_queueEvent_self, hself]; rfl
  · rw [queueAt_queueEvent_ne _ _ hp, queueAt_msgCounted_ne _ _ _ _ hp]
  · rw [core_queueEvent_store, core_msgCounted_store]
    exact msgStored_store (by omega) hi
  · rw [ctx_queueEvent, hself, ctx_msgCounted]; rfl
  · rw [queueEvent_rest, msgCounted_rest]

/-! ## At an endpoint (R360, R362, R368, R371) -/

/-- An endpoint changed: its thread alone, and nothing outside the cores. What `g` makes of the endpoint as it stands says it. -/
theorem setEp_threadOnly (s : State) (m : Mod) (t e : Nat) {f g : Endpoint → Endpoint} (h : f ((ctx m t).endp e) = g ((ctx m t).endp e)) :
    ThreadOnly { s with mod := m } { s with mod := setEp m t e f } t ((ctx m t).withEp e g) ∧ setEp m t e f = { m with cores := (setEp m t e f).cores } := by
  have heps : { ctx m t with eps := tblMod {} (ctx m t).eps e f } = (ctx m t).withEp e g :=
    congrArg (fun y => { ctx m t with eps := tblPut (ctx m t).eps e y }) h
  exact ⟨⟨rfl, (ctx_setCtx_self ..).trans heps, fun _ hu => ctx_setCtx_ne m _ hu, fun _ hc => core_setCtx_ne m _ hc⟩, rfl⟩

/-- The endpoint's channel is the one that a credit or a notice names: its queue, the queue's module and epoch. -/
theorem ofChannel_iff (e : Endpoint) (c : Ctl) (peer : Option (BitVec 16)) :
    (e.chQueue == c.queue && e.chPeer == peer && e.epoch == c.epoch) = true ↔ e.epoch = c.epoch ∧ e.chQueue = c.queue ∧ e.chPeer = peer := by
  simp only [Bool.and_eq_true, beq_iff_eq]
  exact ⟨fun ⟨⟨hq, hp⟩, he⟩ => ⟨he, hq, hp⟩, fun ⟨he, hq, hp⟩ => ⟨⟨hq, hp⟩, he⟩⟩

/-! ## The commands -/

/-- The credits that a queue grants on a request: up to its free entries, none where it is closed (R360, R361). -/
def granting (k : Queue) (c : Ctl) : Nat := if k.isOpen then min c.count (k.depth - (k.grants.map (fun g => g.n)).foldl (· + ·) 0) else 0

/-- A queue with a grant of `g` credits more. -/
def withGrant (k : Queue) (c : Ctl) (g : Nat) : Queue :=
  { k with grants := k.grants ++ [{ ep := c.ep, n := g, c0 := c.c0, chan := k.nextChan, released := false, req := c.req }], nextChan := k.nextChan + 1 }

/-- A request of this module for credits: the grant is recorded, and its reply sent (R360). -/
theorem takeGreq_effect {m : Mod} {c : Ctl} (hp : c.ep.peer = none) :
    let q := c.queue.toNat
    let k := queueAt m q
    let g := granting k c
    QueueChanged m (takeGreq m c) q (if g = 0 then k else withGrant k c g) ∧
    takeGreq m c = { m with cores := (takeGreq m c).cores, nextNet := m.nextNet + 1,
                            net := m.net ++ [{ c with id := m.nextNet, kind := .grant, count := g, closed := !k.isOpen, epoch := k.epoch }] } := by
  intro q k g
  have htake : takeGreq m c = netSend (if g = 0 then m else setQueue m q (fun k => withGrant k c g)) { c with kind := .grant, count := g, closed := !k.isOpen, epoch := k.epoch } := by
    rw [← toEndpoint_here _ (by exact hp)]
    simp only [takeGreq, grantedOf_eq]
    rfl
  rw [htake]
  by_cases hg : g = 0
  · simp only [if_pos hg]
    exact ⟨queueChanged_refl m q, rfl⟩
  · simp only [if_neg hg]
    exact ⟨queueChanged_setQueue m q (fun k => withGrant k c g), rfl⟩

section
variable {s : State} {src : MsgSrc} {m : Mod} {peer : Option (BitVec 16)} {c : Ctl}

theorem exec_greq (h : takeItem s.mod .greq src = some (m, peer, c)) (hf : queueFenced m c.queue.toNat = false) :
    exec (.greq src) s = .next { s with mod := takeGreq m c } := by
  refine (deliverItem_taken h _).trans ?_
  simp only [hf, Bool.false_eq_true, if_false]

theorem exec_grant (h : takeItem s.mod .grant src = some (m, peer, c)) : exec (.grant src) s = .next { s with mod := takeGrant m peer c } := deliverItem_taken h _

theorem exec_rel (h : takeItem s.mod .rel src = some (m, peer, c)) (hf : queueFenced m c.queue.toNat = false) :
    exec (.rel src) s = .next { s with mod := takeRel m c } := by
  refine (deliverItem_taken h _).trans ?_
  simp only [hf, Bool.false_eq_true, if_false]

theorem exec_msg (h : takeItem s.mod .msg src = some (m, peer, c)) (hf : queueFenced m c.queue.toNat = false) :
    exec (.msg src) s = .next { s with mod := takeMsg m c } := by
  refine (deliverItem_taken h _).trans ?_
  simp only [hf, Bool.false_eq_true, if_false]

theorem exec_cret (h : takeItem s.mod .cret src = some (m, peer, c)) : exec (.cret src) s = .next { s with mod := takeCret m peer c } := deliverItem_taken h _

theorem exec_gone (h : takeItem s.mod .gone src = some (m, peer, c)) : exec (.gone src) s = .next { s with mod := takeGone m peer c } := deliverItem_taken h _

end

theorem takeGrant_awaited {m : Mod} {peer : Option (BitVec 16)} {c : Ctl} (hs : ((ctx m c.ep.thread.toNat).endp c.ep.ep.toNat).state = 1)
    (hq : ((ctx m c.ep.thread.toNat).endp c.ep.ep.toNat).chQueue = c.queue) (hp : ((ctx m c.ep.thread.toNat).endp c.ep.ep.toNat).chPeer = peer) :
    takeGrant m peer c = setEp m c.ep.thread.toNat c.ep.ep.toNat (fun k =>
      if c.count = 0 then { k with state := 0, status := if c.closed then 1 else 2 }
      else { k with state := 2, credit := c.count, grant := c.count, epoch := c.epoch, status := 0, req := c.req }) := by
  simp only [takeGrant, hs, hq, hp, and_self, if_true]
  split <;> rfl

theorem takeRel_open {m : Mod} {c : Ctl} (h : (queueAt m c.queue.toNat).isOpen = true) : takeRel m c = setQueue m c.queue.toNat (fun k => letGo k c) := by
  simp only [takeRel, h, if_true, dropGrant_eq_letGo]

/-- Settles O47: an item is delivered in its order and leaves its network, and a case for each kind says what its queue or endpoint makes of it. -/
theorem controlTrafficArrives : Obligations.ControlTrafficArrives := by
  unfold Obligations.ControlTrafficArrives
  refine ⟨fun s c rest => takeItem_front, fun s pre rest x c => takeItem_behind, fun s kind l p x pre rest => takeItem_behind_fromLink, ?_⟩
  intro s kind src m peer c htake q k th x e granted n mine only
  refine ⟨?greq, ?grant, ?rel, ?msg, ?stale, ?full, ?cret, ?gone⟩
  case greq =>
    rintro rfl hf hp
    obtain ⟨hq, hrest⟩ := takeGreq_effect (m := m) hp
    exact ⟨_, exec_greq htake hf, rfl, hq, hrest⟩
  case grant =>
    rintro rfl hs hq hp
    refine ⟨_, exec_grant htake, ?_⟩
    rw [takeGrant_awaited hs hq hp]
    exact setEp_threadOnly _ _ _ _ rfl
  case rel =>
    rintro rfl hf ho
    refine ⟨_, exec_rel htake hf, rfl, ?_⟩
    rw [takeRel_open ho]
    exact ⟨queueChanged_setQueue .., rfl⟩
  case msg =>
    rintro rfl hf ho he hr
    exact ⟨_, exec_msg htake hf, rfl, takeMsg_room_effect ho he hr⟩
  case stale =>
    rintro rfl hf h
    rw [exec_msg htake hf, takeMsg_stale h]
  case full =>
    rintro rfl hf ho he h
    rw [exec_msg htake hf, takeMsg_full ho he h]
  case cret =>
    rintro rfl
    refine ⟨_, exec_cret htake, setEp_threadOnly _ _ _ _ (ite_congr (propext ?_) (fun _ => rfl) (fun _ => rfl))⟩
    rw [ofChannel_iff, and_assoc, and_assoc]
  case gone =>
    rintro rfl
    refine ⟨_, exec_gone htake, setEp_threadOnly _ _ _ _ (ite_congr (propext ?_) (fun _ => rfl) (fun _ => rfl))⟩
    rw [ofChannel_iff]

end Sys2Proof.Machine
end

section
/-! SUPPORT. More of what the issue of one slot does: what it has passed, a slot that changes its thread alone, and an H instruction that holds it (R62, R68, R91, R178, R320). -/

namespace Sys2Proof.Machine

/-! ## What a slot that issues has passed (R68, R91) -/

section
variable {m : Mod} {th : Nat} {d : SlotDef}

theorem illegal_of_decodeFault {x : Ctx} (h : decodeFault x [] [d] = none) : d.illegal = none := by
  have hs : slotDecode x d = none := by
    simp only [decodeFault, List.findSome?_eq_none_iff] at h
    have hd := h d.slot (by cases d.slot <;> simp)
    simp only [List.find?_nil, List.find?_cons, beq_self_eq_true] at hd
    cases hk : slotDecode x d with
    | none => rfl
    | some f => simp [hk] at hd
  cases hi : d.illegal with
  | none => rfl
  | some n => simp [slotDecode, hi] at hs

theorem stall_of_bundleStall {k : Iss} (h : bundleStall k [d] = 0) : d.stall k = 0 := by
  simp only [bundleStall] at h
  split at h
  · cases h
  · split at h
    · cases h
    · by_cases hs : d.stall k = 0
      · exact hs
      · simp [hs] at h

theorem fault_of_valueFault {k : Iss} (h : valueFault k [d] = none) : d.fault k = none := by
  simp only [valueFault, List.findSome?_cons, List.findSome?_nil] at h
  cases hf : d.fault k with
  | none => rfl
  | some f => cases hu : unboundFault k [d] <;> simp [hu, hf] at h

theorem reads_x (m : Mod) (th : Nat) (d : SlotDef) : (reads m th d).x = ctx m th := rfl

/-- A thread that may issue is held by no instruction, and its core's current thread. -/
theorem hold_cur_of_canIssue (h : canIssue m th = true) : (ctx m th).hold = none ∧ (core m (th / 4)).cur = th % 4 := by
  simp only [canIssue, Bool.and_eq_true, Option.isNone_iff_eq_none, beq_iff_eq, and_assoc] at h
  obtain ⟨-, -, hhold, -, -, -, hcur, -⟩ := h
  exact ⟨hhold, hcur⟩

/-- A source below 32 is read from its register. -/
theorem Iss.s_reg (k : Iss) (sl : Slot) {r : Spec} (h : regOk r = true) : k.s sl r = k.x.sreg r.toNat := by
  simp only [regOk, decide_eq_true_eq] at h
  simp only [Iss.s, h, if_true]

theorem regOk_of_specCheck {l : List Spec} (h : specCheck [] l = none) : ∀ r ∈ l, regOk r = true := by
  simpa [specCheck] using h

end

/-! ## A plain slot without queue windows -/

/-- The issue of a plain slot that pops nothing leaves its thread changed by `g`, where its effect is `g` on its thread. -/
theorem leaves_plain {s : State} {i : Issue} {c : Instr} {d : SlotDef} {g : Ctx → Ctx} (hi : issuer c = some i) (hd : slotNow s.mod i.thread.toNat c = some d)
    (h : Issues s.mod i.thread.toNat d) (hp : Plain s.mod i.thread.toNat d) (hw : d.wins = [])
    (hg : ∀ mm, ctx (d.eff (reads s.mod i.thread.toNat d) mm) i.thread.toNat = g (ctx mm i.thread.toNat))
    (ho : ∀ mm u, u ≠ i.thread.toNat → ctx (d.eff (reads s.mod i.thread.toNat d) mm) u = ctx mm u)
    (hin : ∀ mm, Inside mm (d.eff (reads s.mod i.thread.toNat d) mm) (i.thread.toNat / 4)) (hx : ∀ x, (g x).pc = x.pc ∧ (g x).xbase = x.xbase)
    (hc : ∀ x l, issued (g x) (follows s.mod i.thread.toNat).1 l =
      (let y := g { x with waiting := none, stall := 0, resume := none, inflight := x.inflight ++ l }
       { y with qcount := y.qcount + 1, pc := (follows s.mod i.thread.toNat).1 })) :
    Leaves c s i.thread.toNat d g [] := by
  have hpop : popped s.mod i.thread.toNat d = s.mod := popped_none hw
  refine ⟨_, exec_issues hi hd h, rfl, ?_⟩
  rw [List.append_nil, hc]
  exact plain_issue hp hg ho hin hx (by rw [hpop])

theorem leaves_unchanged {s : State} {i : Issue} {c : Instr} {d : SlotDef} (hi : issuer c = some i) (hd : slotNow s.mod i.thread.toNat c = some d)
    (h : Issues s.mod i.thread.toNat d) (hp : Plain s.mod i.thread.toNat d) (hw : d.wins = []) (he : ∀ k mm, d.eff k mm = mm) :
    Leaves c s i.thread.toNat d id [] := by
  refine leaves_plain hi hd h hp hw (fun mm => ?_) (fun mm u _ => ?_) (fun mm => ?_) (fun _ => ⟨rfl, rfl⟩) (fun _ _ => rfl)
  · rw [he]; rfl
  · rw [he]
  · rw [he]; exact Inside.refl ..

/-! ## One thread alone changes -/

/-- Two modules that differ in one thread, which stands as `x`, and in its core alone. -/
structure Alone (m m' : Mod) (th : Nat) (x : Ctx) : Prop where
  own : ctx m' th = x
  others : ∀ u, u ≠ th → ctx m' u = ctx m u
  inside : Inside m m' (th / 4)

section
variable {m m' m'' : Mod} {th : Nat} {x y : Ctx}

theorem Alone.trans (h : Alone m m' th x) (k : Alone m' m'' th y) : Alone m m'' th y :=
  ⟨k.own, fun u hu => (k.others u hu).trans (h.others u hu), h.inside.trans k.inside⟩

theorem Alone.setCtx (h : Alone m m' th x) (f : Ctx → Ctx) : Alone m (Machine.setCtx m' th f) th (f x) :=
  ⟨by rw [ctx_setCtx_self, h.own], fun u hu => (ctx_setCtx_ne m' f hu).trans (h.others u hu), h.inside.setCtx rfl⟩

/-- The books of an issue leave its thread as it was. -/
theorem Alone.books (h : Alone m m' th x) (hb : Books m' m'' (th / 4)) (hi : Inside m' m'' (th / 4)) : Alone m m'' th x :=
  h.trans ⟨(hb.ctxs th).trans h.own, fun u _ => hb.ctxs u, hi⟩

theorem Alone.cycle (h : Alone m m' th x) : (core m' (th / 4)).cycle = (core m (th / 4)).cycle := (quiet_proj h.inside.same).2.1

/-- Loop results put in flight. -/
theorem Alone.landLoop (h : Alone m m' th x) (cyc : Nat) (pc : Word) (ws : List Write) :
    Alone m (Machine.landLoop m' th cyc pc ws) th
      { x with inflight := x.inflight ++ ws.map (fun w => { due := cyc + 1, issued := cyc, slot := .s, bundle := pc, w := w }) } := by
  obtain ⟨hin, hne, hown⟩ := landLoop_foldl m' th cyc pc ws
  exact h.trans ⟨by rw [hown, h.own], hne, hin _ rfl⟩

theorem alone_refl (m : Mod) (th : Nat) : Alone m m th (ctx m th) := ⟨rfl, fun _ _ => rfl, Inside.refl ..⟩

end

/-! ## The instruction prefetch, whatever the thread's next bundle (R394, R479) -/

theorem xlate_noWalkTo {m : Mod} {th : Nat} {a : Word} (h : NoWalkTo m th a) : (xlate m (th / 4) (ctx m th).xbase a).1 = m := by
  unfold xlate xlateWith
  rcases h with h | h
  · have hb : bitOf (ctx m th).xbase.toNat 0 = false := (bitOf_toNat ..).trans h
    simp only [hb]
    split
    · rfl
    · split <;> rfl
  · obtain ⟨e, he⟩ := Option.isSome_iff_exists.mp h
    simp only [xlateCore, he]
    repeat' split
    all_goals rfl

theorem inside_prefetchCode_at {m : Mod} {th : Nat} {pc : Word} (h : ipfOn m (th / 4) = false ∨ NoWalkTo m th (pc + 32)) :
    Inside m (prefetchCode m th pc) (th / 4) := by
  unfold prefetchCode
  dsimp only
  rcases h with h | h
  · rw [h]; exact Inside.refl ..
  · have hx := xlate_noWalkTo h
    generalize xlate m (th / 4) (ctx m th).xbase (pc + 32) = r at hx ⊢
    obtain ⟨m1, o⟩ := r
    obtain rfl : m1 = m := hx
    split
    · exact Inside.refl ..
    · cases o with
      | here a =>
        dsimp only
        split
        · exact Inside.refl ..
        · refine (Inside.refl _ _).core ?_ ?_ <;> intro _ <;> rfl
      | peer p a => exact Inside.refl ..
      | notPresent => exact Inside.refl ..

/-- A thread with one bundle more towards its quantum (R339). -/
def Ctx.counted (x : Ctx) : Ctx := { x with qcount := x.qcount + 1 }

/-- A thread whose turn has ended: its count of bundles is back at zero (R339). -/
def Ctx.uncounted (x : Ctx) : Ctx := { x with qcount := 0 }

@[simp] theorem Ctx.counted_uncounted (x : Ctx) : x.counted.uncounted = x.uncounted := rfl

/-- What a bundle's prefetch and its counts leave of a thread that its effects left as `x`. -/
theorem Alone.afterIssue {m m' : Mod} {th : Nat} {x : Ctx} (h : Alone m m' th x) (hx : x.xbase = (ctx m th).xbase) (cyc : Nat) (b : Bool) :
    OnlyThread m (Machine.afterIssue (prefetchCode m' th (ctx m th).pc) th cyc b) th x.counted := by
  have hb := books_prefetchCode m' th (ctx m th).pc
  obtain ⟨hown, hne, hin⟩ := afterIssue_ctx (prefetchCode m' th (ctx m th).pc) th cyc b
  refine ⟨?_, fun u hu => ?_, fun c hc => ?_, ?_, fun hw => ?_⟩
  · rw [hown, hb.ctxs, h.own]; rfl
  · rw [hne u hu, hb.ctxs, h.others u hu]
  · rw [hin.others c hc, hb.others c hc, h.inside.others c hc]
  · rw [hin.same, hb.same, h.inside.same]
  · have hpwr : m'.pwr = m.pwr := by rw [h.inside.rest]
    have hp : ipfOn m' (th / 4) = false ∨ NoWalkTo m' th ((ctx m th).pc + 32) := by
      unfold NoWalk at hw
      simpa only [ipfOn, NoWalkTo, (quiet_proj h.inside.same).1, hpwr, h.own, hx, h.inside.tlb] using hw
    exact ((h.inside.trans (inside_prefetchCode_at hp)).trans hin).rest

/-! ## A bundle whose H instruction holds its thread (R62, R178, R320) -/

/-- A slot that holds its thread by `h`, and takes no branch, pops nothing, ends no thread and leaves the back edge. -/
structure Holding (m : Mod) (th : Nat) (d : SlotDef) (h : HoldDef) : Prop where
  hold : d.hold = some h
  ends : d.ends = false
  rte : d.rte = false
  wins : d.wins = []
  redirect : d.redirect (issNow m th) = none
  deact : d.deact (issNow m th) = false
  lpcWrite : d.lpcWrite = none
  eff : ∀ k mm, d.eff k mm = mm

/-- What is kept with an H instruction that starts now: its bundle, and the edge that its first issue decides (log 84). -/
def holdNow (m : Mod) (th : Nat) (kind : HoldKind) : Hold :=
  { kind := kind, bundle := (ctx m th).pc, steps := 0, redirect := none, edge := some (follows m th), byCrw := false, got := [], failed := none, wroteAt := none }

/-- A thread that its bundle's H instruction holds. -/
def heldCtx (m : Mod) (th : Nat) (kind : HoldKind) : Ctx :=
  { ctx m th with waiting := none, stall := 0, resume := none, hold := some (holdNow m th kind) }

/-- A thread whose H instruction is over at once: the bundle that follows is its next. -/
def passedCtx (m : Mod) (th : Nat) : Ctx :=
  { ctx m th with waiting := none, stall := 0, resume := none, hold := none, pc := (follows m th).1, inflight := (ctx m th).inflight ++ loopFlying m th }

/-- The module in which an H instruction begins its work: its thread is held, and the books of the issue are kept. -/
def heldIn (m : Mod) (th : Nat) (d : SlotDef) (kind : HoldKind) : Mod :=
  setCtx (countTiles (countBanks (setCtx m th (fun x => { x with waiting := none, stall := 0, resume := none })) (issNow m th) [d]) th (core m (th / 4)).cycle [d]) th
    (fun x => { x with hold := some (holdNow m th kind) })

theorem heldIn_alone (m : Mod) (th : Nat) (d : SlotDef) (kind : HoldKind) : Alone m (heldIn m th d kind) th (heldCtx m th kind) := by
  have hstart := (alone_refl m th).setCtx (fun x => { x with waiting := none, stall := 0, resume := none })
  refine (hstart.books (Books.trans ?_ (books_countTiles ..)) (Inside.countTiles ?_ _ _)).setCtx _
  · exact books_countBanks _ (issNow m th) [d]
  · exact Inside.countBanks (k := issNow m th) (Inside.refl ..) [d]

theorem heldEdge_holding {m : Mod} {th : Nat} {d : SlotDef} {h : HoldDef} (hd : Holding m th d h) : heldEdge (issNow m th) [d] = follows m th := by
  have he : edgeOf (issNow m th) [d] = follows m th := by
    simp only [edgeOf, List.any_cons, List.any_nil, hd.rte, hd.deact, Bool.or_false, Bool.false_eq_true, if_false]
    rfl
  have hl : ∀ w, isLpc [] w = false := fun w => by cases w <;> rfl
  have hf : (follows m th).2.filter (fun w => !isLpc [] w) = (follows m th).2 := List.filter_eq_self.mpr (fun w _ => by rw [hl]; rfl)
  simp only [heldEdge, he, List.filterMap_cons, List.filterMap_nil, hd.lpcWrite, hf]

/-- The issue of a bundle whose H instruction has begun in `m'`: the bundle is counted, and a thread that is still held leaves its turn. -/
def heldIssued (m m' : Mod) (th : Nat) : Mod := leaveHeld (afterIssue (prefetchCode m' th (ctx m th).pc) th (core m (th / 4)).cycle false) th

theorem issueWhole_holding {m : Mod} {th : Nat} {d : SlotDef} {h : HoldDef} (hd : Holding m th d h) :
    issueWhole (issNow m th) [d] = heldIssued m (h.start (issNow m th) 0 (heldIn m th d (h.kind (issNow m th)))) th := by
  have hpop : popAll (issNow m th) [d] = (m, []) := by simp [popAll, hd.wins, issNow]
  have hby : edgeByCrw (issNow m th) [d] = false := by simp [edgeByCrw, hd.deact, hd.lpcWrite]
  have hk : { issNow m th with pops := [] } = issNow m th := rfl
  simp only [issueWhole, List.any_cons, List.any_nil, hd.ends, hd.rte, hd.hold, Bool.or_false, Bool.false_eq_true, if_false, hpop, hk, List.findSome?_cons, List.findSome?_nil,
    hd.redirect, Option.isSome_some, Option.isSome_none, if_true, List.foldl_cons, List.foldl_nil, hd.eff, startHold, heldEdge_holding hd, hby]
  rfl

/-- An H instruction that is over at once leaves its thread as a plain slot does. -/
theorem passedCtx_counted {m : Mod} {th : Nat} (h : (ctx m th).hold = none) : (passedCtx m th).counted = issued (ctx m th) (follows m th).1 (loopFlying m th) := by
  rw [passedCtx, ← h]; rfl

theorem goOn_edge (m : Mod) (t : Nat) (pc : Word) (e : Word × List Write) :
    goOn m t pc none (some e) = landLoop (setCtx m t (fun x => { x with hold := none, pc := e.1 })) t (core m (t / 4)).cycle pc e.2 := rfl

section
variable {m m' : Mod} {th : Nat}

/-- The bundle of an H instruction that is over at once goes on by the edge kept. -/
theorem goOn_heldIn (m : Mod) (th : Nat) (d : SlotDef) (kind : HoldKind) : Alone m (goOn (heldIn m th d kind) th (ctx m th).pc none (some (follows m th))) th (passedCtx m th) := by
  have h := heldIn_alone m th d kind
  rw [goOn_edge, h.cycle]
  exact (h.setCtx (fun x => { x with hold := none, pc := (follows m th).1 })).landLoop (core m (th / 4)).cycle (ctx m th).pc (follows m th).2

/-- A thread that an H instruction holds leaves its turn (R68, R335). -/
theorem leaveHeld_held {x : Ctx} (h : OnlyThread m m' th x) (hx : x.hold.isSome = true) (hc : (core m (th / 4)).cur = th % 4) :
    ctx (leaveHeld m' th) th = x.uncounted ∧ (∀ u, u ≠ th → ctx (leaveHeld m' th) u = ctx m u) ∧ (∀ e, e ≠ th / 4 → core (leaveHeld m' th) e = core m e) ∧
    (core (leaveHeld m' th) (th / 4)).quiet = { (core m (th / 4)).quiet with idle := true } ∧
    (NoWalk m th → leaveHeld m' th = { m with cores := (leaveHeld m' th).cores }) := by
  obtain ⟨hown, hne, hcore, hquiet, hrest⟩ := h
  have hcur : (core m' (th / 4)).cur = th % 4 := (congrArg Core.cur hquiet).trans hc
  have hleave : leaveHeld m' th = setCore (setCtx m' th (fun x => { x with qcount := 0 })) (th / 4) (fun c => { c with idle := true }) := by
    simp only [leaveHeld, leaveTurn, hown, hx, hcur, beq_self_eq_true, if_true]
  rw [hleave]
  refine ⟨?_, fun u hu => ?_, fun e he => ?_, ?_, fun hw => ?_⟩
  · rw [ctx_setCore _ _ _ _ rfl, ctx_setCtx_self, hown]; rfl
  · rw [ctx_setCore _ _ _ _ rfl, ctx_setCtx_ne _ _ hu, hne u hu]
  · rw [core_setCore_ne _ _ he, core_setCtx_ne _ _ he, hcore e he]
  · rw [← hquiet, core_setCore_self, setCtx, core_setCore_self]; rfl
  · rw [hrest hw]; rfl

theorem leaveHeld_free (h : (ctx m' th).hold = none) : leaveHeld m' th = m' := by
  simp [leaveHeld, h]

end

end Sys2Proof.Machine
end

section
/-! SUPPORT. The settlement of O39: barriers, fences and the wait for an event (R36 to R39, R68, R428, R456). -/

namespace Sys2Proof.Machine

/-! ## Barriers and fences (R36 to R39, R456) -/

theorem plain_fence (m : Mod) (th : Nat) (i : Issue) (sc : FenceScope) : Plain m th (fenceDef i sc) := ⟨rfl, rfl, rfl, rfl, rfl⟩

theorem leaves_barArrive {s : State} {i : Issue} {g : BitVec 8} (h : Issues s.mod i.thread.toNat (defBarArrive i g)) :
    Leaves (.barArrive i g) s i.thread.toNat (defBarArrive i g) (fun y => { y with arrived := if g.toNat ∈ y.arrived then y.arrived else y.arrived ++ [g.toNat] }) [] := by
  refine leaves_plain rfl rfl h ⟨rfl, rfl, rfl, rfl, rfl⟩ rfl (fun mm => ?_) (fun mm u hu => ctx_setCtx_ne mm _ hu) (fun mm => (Inside.refl mm _).setCtx rfl)
    (fun _ => ⟨rfl, rfl⟩) (fun _ _ => rfl)
  refine (ctx_setCtx_self ..).trans ?_
  simp only [List.contains_iff_mem]
  rfl

theorem memberFault_eq_none {k : Iss} {g : Nat} : memberFault k g = none ↔ isMember k.x g = true := by
  unfold memberFault
  split <;> simp_all

theorem notArrived_of_barWait {m : Mod} {th : Nat} {i : Issue} {g : BitVec 8} (h : Issues m th (defBarWait i g)) : g.toNat ∉ (ctx m th).arrived := by
  obtain ⟨-, ⟨-, hstall, -, -, hfault⟩, -⟩ := h
  have hf : memberFault (reads m th (defBarWait i g)) g.toNat = none := fault_of_valueFault hfault
  have hmember : isMember (ctx m th) g.toNat = true := by rwa [memberFault_eq_none, reads_x] at hf
  intro ha
  have hs := stall_of_bundleStall hstall
  simp [defBarWait, issNow, hmember, ha] at hs

/-! ## A group completes (R36, R37) -/

theorem isMember_eq (x : Ctx) (g : Nat) : isMember x g = (tblGet 0 x.barmem (g / 64)).getLsbD (g % 64) := bitOf_toNat _ _

theorem mem_of_tblFind {α : Type} {t : Tbl α} {k : Nat} {x : α} (h : tblFind t k = some x) : (k, x) ∈ t := by
  induction t with
  | nil => cases h
  | cons e t ih =>
    obtain ⟨j, y⟩ := e
    by_cases hj : j = k
    · simp only [tblFind, hj, if_true, Option.some.injEq] at h
      simp [hj, h]
    · simp only [tblFind, hj, if_false] at h
      exact List.mem_cons_of_mem _ (ih h)

/-- A context that the state does not list stands as at reset. -/
theorem ctx_of_not_listed {m : Mod} {t : Nat} (h : t ∉ allThreads m) : ctx m t = Ctx.reset t := by
  cases hc : tblFind m.cores (t / 4) with
  | none => simp [ctx, core, tblGet, hc, tblFind]
  | some k =>
    cases hx : tblFind k.ctxs (t % 4) with
    | none => simp [ctx, core, tblGet, hc, hx]
    | some x =>
      refine absurd (List.mem_flatMap.mpr ⟨_, mem_of_tblFind hc, List.mem_map.mpr ⟨_, mem_of_tblFind hx, ?_⟩⟩) h
      exact Nat.div_add_mod t 4

theorem mem_membersOf {m : Mod} {g t : Nat} : t ∈ membersOf m g ↔ isMember (ctx m t) g = true := by
  simp only [membersOf, List.mem_filter, and_iff_right_iff_imp]
  intro h
  refine Decidable.byContradiction fun hn => ?_
  rw [ctx_of_not_listed hn] at h
  simp [Ctx.reset, isMember, bitOf, tblGet, tblFind] at h

/-- Contexts changed one after the other by the same function, which does nothing more the second time. -/
theorem ctx_foldl_setCtx (f : Ctx → Ctx) (hf : ∀ x, f (f x) = f x) (l : List Nat) (m : Mod) (u : Nat) :
    ctx (l.foldl (fun m t => setCtx m t f) m) u = if u ∈ l then f (ctx m u) else ctx m u := by
  induction l generalizing m with
  | nil => simp
  | cons t l ih =>
    rw [List.foldl_cons, ih]
    by_cases hu : u = t
    · subst hu; simp [hf]
    · simp [hu, ctx_setCtx_ne m _ hu]

/-- A group is complete: it has a member, and every member has arrived (R37). -/
def Complete (m : Mod) (g : Nat) : Prop := (∃ t, isMember (ctx m t) g = true) ∧ ∀ t, isMember (ctx m t) g = true → g ∈ (ctx m t).arrived

theorem complete_iff {m : Mod} {g : Nat} : Complete m g ↔ ((membersOf m g).isEmpty || !(membersOf m g).all (fun t => (ctx m t).arrived.contains g)) = false := by
  simp only [Bool.or_eq_false_iff, Bool.not_eq_false', List.all_eq_true, List.contains_iff_mem, mem_membersOf, Complete, List.isEmpty_eq_false_iff_exists_mem]

theorem completeGroup_incomplete {m : Mod} {g : Nat} (h : ¬ Complete m g) : completeGroup m g = m := by
  rw [complete_iff, Bool.not_eq_false] at h
  simp only [completeGroup, h, if_true]

theorem ctx_completeGroup {m : Mod} {g : Nat} (h : Complete m g) (u : Nat) :
    ctx (completeGroup m g) u = if isMember (ctx m u) g then { ctx m u with arrived := (ctx m u).arrived.filter (· != g) } else ctx m u := by
  have hi : ∀ x : Ctx, ({ x with arrived := (x.arrived.filter (· != g)).filter (· != g) } : Ctx) = { x with arrived := x.arrived.filter (· != g) } := by simp
  rw [complete_iff] at h
  simp only [completeGroup, h, Bool.false_eq_true, if_false]
  rw [ctx_foldl_setCtx _ hi]
  simp only [mem_membersOf]

/-! ## EVWAIT (R428) -/

theorem waitCounter_eq (m : Mod) (th : Nat) (a : Word) :
    waitCounter m th a = if a.getLsbD 63 then tblGet 0 m.hq.evc (a.extractLsb' 0 16).toNat else tblGet 0 (ctx m th).ctrs (a.extractLsb' 0 3).toNat := by
  have hlow : ∀ n, (a.extractLsb' 0 n).toNat = a.toNat % 2 ^ n := fun n => by rw [← fld_toNat, fld, Nat.pow_zero, Nat.div_one]
  have h16 : (a.extractLsb' 0 16).toNat = a.toNat % 65536 := hlow 16
  have h3 : (a.extractLsb' 0 3).toNat = a.toNat % 8 := hlow 3
  rw [h16, h3, waitCounter, bitOf_toNat, evCounter]

theorem holding_evwait (m : Mod) (th : Nat) (i : Issue) (a b : Spec) :
    Holding m th (defEvwait i a b) { kind := fun k => .evwait (k.s .y a) (k.s .y b), start := fun k _ m => evCheck m k.th } :=
  ⟨rfl, rfl, rfl, rfl, rfl, rfl, rfl, fun _ _ => rfl⟩

/-- What an EVWAIT of a thread waits for: the values of its operands' registers. -/
def evKind (m : Mod) (th : Nat) (a b : Spec) : HoldKind := .evwait ((ctx m th).sreg a.toNat) ((ctx m th).sreg b.toNat)

/-- Has the counter that an EVWAIT of a thread names come to its value (R428)? -/
def evReached (m : Mod) (th : Nat) (a b : Spec) : Bool := reached (waitCounter m th ((ctx m th).sreg a.toNat)) (((ctx m th).sreg b.toNat).setWidth 32)

theorem waitCounter_heldIn (m : Mod) (th : Nat) (d : SlotDef) (kind : HoldKind) (v : Word) : waitCounter (heldIn m th d kind) th v = waitCounter m th v := by
  have h := heldIn_alone m th d kind
  have hhq : (heldIn m th d kind).hq = m.hq := by rw [h.inside.rest]
  simp only [waitCounter, evCounter, hhq, h.own, heldCtx]

/-- An EVWAIT is checked as it begins: it is over at once, or holds its thread. -/
theorem evCheck_heldIn (m : Mod) (th : Nat) (d : SlotDef) (a b : Spec) : evCheck (heldIn m th d (evKind m th a b)) th =
    if evReached m th a b then goOn (heldIn m th d (evKind m th a b)) th (ctx m th).pc none (some (follows m th)) else heldIn m th d (evKind m th a b) := by
  have h : (ctx (heldIn m th d (evKind m th a b)) th).hold = some (holdNow m th (evKind m th a b)) := by rw [(heldIn_alone ..).own, heldCtx]
  simp only [evCheck, finishHold, h, holdNow, waitCounter_heldIn]
  rfl

section
variable {s : State} {i : Issue} {a b : Spec} (h : Issues s.mod i.thread.toNat (defEvwait i a b))
include h

/-- The issue of an EVWAIT: its operands are registers, and its counter is checked at once. -/
theorem exec_evwait : exec (.evwait i a b) s =
    .next { s with mod := heldIssued s.mod (evCheck (heldIn s.mod i.thread.toNat (defEvwait i a b) (evKind s.mod i.thread.toNat a b)) i.thread.toNat) i.thread.toNat } := by
  obtain ⟨-, ⟨hdecode, -⟩, -⟩ := id h
  have hregs := regOk_of_specCheck (l := [a, b]) (illegal_of_decodeFault hdecode)
  have ha := (issNow s.mod i.thread.toNat).s_reg .y (hregs a (by simp))
  have hb := (issNow s.mod i.thread.toNat).s_reg .y (hregs b (by simp))
  rw [exec_issues rfl rfl h, issueWhole_holding (holding_evwait ..)]
  simp only [ha, hb]
  rfl

/-- An EVWAIT whose counter has come passes as a plain slot does. -/
theorem leaves_evwait (hr : evReached s.mod i.thread.toNat a b = true) :
    Leaves (.evwait i a b) s i.thread.toNat (defEvwait i a b) id [] := by
  obtain ⟨⟨hcan, -⟩, -⟩ := id h
  have hgo := (goOn_heldIn s.mod i.thread.toNat (defEvwait i a b) (evKind s.mod i.thread.toNat a b)).afterIssue rfl (core s.mod (i.thread.toNat / 4)).cycle false
  refine ⟨_, exec_evwait h, rfl, ?_⟩
  rw [evCheck_heldIn, if_pos hr, heldIssued, leaveHeld_free (by rw [hgo.1]; rfl), popped_none (d := defEvwait i a b) rfl,
    List.append_nil, id, ← passedCtx_counted (hold_cur_of_canIssue hcan).1]
  exact hgo

/-- An EVWAIT whose counter has not come holds its thread (log 84). -/
theorem holds_evwait (hr : evReached s.mod i.thread.toNat a b = false) :
    let m := s.mod
    let th := i.thread.toNat
    ∃ t, exec (.evwait i a b) s = .next t ∧ t.pending = s.pending ∧
      ctx t.mod th = (heldCtx m th (evKind m th a b)).uncounted ∧
      (∀ u, u ≠ th → ctx t.mod u = ctx m u) ∧ (∀ e, e ≠ th / 4 → core t.mod e = core m e) ∧
      (core t.mod (th / 4)).quiet = { (core m (th / 4)).quiet with idle := true } ∧ (NoWalk m th → t.mod = { m with cores := t.mod.cores }) := by
  obtain ⟨⟨hcan, -⟩, -⟩ := id h
  have hheld := (heldIn_alone s.mod i.thread.toNat (defEvwait i a b) (evKind s.mod i.thread.toNat a b)).afterIssue rfl (core s.mod (i.thread.toNat / 4)).cycle false
  refine ⟨_, exec_evwait h, rfl, ?_⟩
  rw [evCheck_heldIn, if_neg (by simp [hr]), heldIssued, ← Ctx.counted_uncounted]
  dsimp only
  exact leaveHeld_held hheld rfl (hold_cur_of_canIssue hcan).2

end

/-- Settles O39: a plain issue for BAR.ARRIVE, BAR.WAIT and the fences, the two ends of the check of a held EVWAIT, and the members' marks of a complete group. -/
theorem barriersFencesAndEvents : Obligations.BarriersFencesAndEvents := by
  unfold Obligations.BarriersFencesAndEvents
  refine ⟨fun s i d => ⟨?arrive, ?wait, ?fences, ?evwait⟩, ?complete⟩
  case arrive =>
    intro g hd h
    cases hd
    exact leaves_barArrive h
  case wait =>
    intro g hd h
    cases hd
    exact ⟨notArrived_of_barWait h, leaves_unchanged rfl rfl h ⟨rfl, rfl, rfl, rfl, rfl⟩ rfl (fun _ _ => rfl)⟩
  case fences =>
    intro c hc hd h
    simp only [List.mem_cons, List.not_mem_nil, or_false] at hc
    rcases hc with rfl | rfl | rfl <;> cases hd <;> exact leaves_unchanged rfl rfl h (plain_fence ..) rfl (fun _ _ => rfl)
  case evwait =>
    intro a b hd h va vb counter
    cases hd
    have hcounter : waitCounter s.mod i.thread.toNat va = counter := waitCounter_eq ..
    have hreached : evReached s.mod i.thread.toNat a b = decide ((counter - vb.setWidth 32).toNat < 2 ^ 31) := by rw [← hcounter]; rfl
    split
    · next hlt => exact leaves_evwait h (hreached.trans (decide_eq_true hlt))
    · next hge => exact holds_evwait h (hreached.trans (decide_eq_false hge))
  case complete =>
    intro s g member some_ all
    have hmember : ∀ t, isMember (ctx s.mod t) g.toNat = member t := fun t => isMember_eq ..
    have hcomplete : Complete s.mod g.toNat ↔ some_ ∧ all := by simp only [Complete, hmember, some_, all]
    refine ⟨_, rfl, rfl, fun hc u => ?_, fun hc => completeGroup_incomplete (fun h => hc (hcomplete.mp h))⟩
    rw [ctx_completeGroup (hcomplete.mpr hc), hmember]

end Sys2Proof.Machine
end

section
/-! SUPPORT. The settlement of O11: rounding at a coarser spacing (R284, R286). -/

namespace Sys2Proof.Machine

/-! ## Cutting and rounding at a coarser spacing -/

@[simp] theorem b1_true : b1 true = 1 := rfl
@[simp] theorem b1_false : b1 false = 0 := rfl

/-- A cut d places above the last bit is the division by 2^d. -/
theorem cutAt_add (m d : Nat) (e : Int) : cutAt m e (e + d) = (m / 2 ^ d, m % 2 ^ d, d) := by
  by_cases h : e + (d : Int) ≤ e
  · obtain rfl : d = 0 := by omega
    simp [cutAt, Nat.mod_one]
  · have hd : (e + (d : Int) - e).toNat = d := by omega
    rw [cutAt, if_neg h, hd]

theorem roundAt_add (mode : Rnd) (r m d : Nat) (e : Int) :
    roundAt mode r m e (e + d) false = (m / 2 ^ d + b1 (roundUp mode r (m / 2 ^ d) (m % 2 ^ d) d false), decide (m % 2 ^ d ≠ 0)) := by
  have hix : (m % 2 ^ d != 0) = decide (m % 2 ^ d ≠ 0) := by rw [Bool.eq_iff_iff, bne_iff_ne, decide_eq_true_iff]
  rw [roundAt, cutAt_add]
  dsimp only
  rw [Bool.or_false, hix]

/-! ## The choice of each mode -/

@[simp] theorem roundUp_zero (r t rem d : Nat) (sticky : Bool) : roundUp .zero r t rem d sticky = false := rfl

theorem roundUp_near_iff {r t rem d : Nat} : roundUp .near r t rem d false = true ↔ 2 ^ d < 2 * rem ∨ 2 * rem = 2 ^ d ∧ t % 2 = 1 := by
  simp [roundUp]

theorem roundUp_stoch_iff {r t rem d : Nat} {sticky : Bool} : roundUp .stoch r t rem d sticky = true ↔ r < rem * 65536 / 2 ^ d :=
  decide_eq_true_iff

/-- An exact multiple is never rounded up. -/
theorem roundUp_exact (mode : Rnd) (r t d : Nat) : roundUp mode r t 0 d false = false := by
  have hpos := Nat.two_pow_pos d
  rw [Bool.eq_false_iff]
  cases mode with
  | near => rw [ne_eq, roundUp_near_iff]; omega
  | zero => simp
  | stoch => simp [roundUp_stoch_iff]

/-- The multiple that nearest even chooses is within half the spacing of the value. -/
theorem roundUp_near_within (r m d : Nat) :
    let n := m / 2 ^ d + b1 (roundUp .near r (m / 2 ^ d) (m % 2 ^ d) d false)
    2 * (n * 2 ^ d) ≤ 2 * m + 2 ^ d ∧ 2 * m ≤ 2 * (n * 2 ^ d) + 2 ^ d := by
  have hm : m / 2 ^ d * 2 ^ d + m % 2 ^ d = m := Nat.div_add_mod' m (2 ^ d)
  have hrem : m % 2 ^ d < 2 ^ d := Nat.mod_lt _ (Nat.two_pow_pos d)
  dsimp only
  rw [Nat.add_mul]
  cases hup : roundUp .near r (m / 2 ^ d) (m % 2 ^ d) d false with
  | true =>
    have := roundUp_near_iff.mp hup
    rw [b1_true, Nat.one_mul]
    omega
  | false =>
    have := mt roundUp_near_iff.mpr (Bool.eq_false_iff.mp hup)
    rw [b1_false, Nat.zero_mul]
    omega

/-- At a tie nearest even chooses the even multiple. -/
theorem roundUp_near_tie {r t rem d : Nat} (htie : 2 * rem = 2 ^ d) : (t + b1 (roundUp .near r t rem d false)) % 2 = 0 := by
  cases hup : roundUp .near r t rem d false with
  | true =>
    have := roundUp_near_iff.mp hup
    rw [b1_true]
    omega
  | false =>
    have := mt roundUp_near_iff.mpr (Bool.eq_false_iff.mp hup)
    rw [b1_false]
    omega

theorem add_b1_eq_succ {t : Nat} {b : Bool} : t + b1 b = t + 1 ↔ b = true := by cases b <;> simp

theorem add_b1_eq_or (t : Nat) (b : Bool) : t + b1 b = t ∨ t + b1 b = t + 1 := by cases b <;> simp

/-- Settles O11: a coarser spacing cuts m into quotient and remainder, and each mode's choice between the quotient and its successor is read off `roundUp`. -/
theorem roundingChoosesNeighbour : Obligations.RoundingChoosesNeighbour := by
  unfold Obligations.RoundingChoosesNeighbour
  intro mode draw m d e
  rw [roundAt_add]
  refine ⟨rfl, fun hexact => ?exact, add_b1_eq_or .., fun hzero => ?zero, fun hnear => ?near, fun hstoch => ?stoch⟩
  case exact => rw [hexact, roundUp_exact, b1_false, Nat.add_zero]
  case zero => rw [hzero, roundUp_zero, b1_false, Nat.add_zero]
  case near =>
    subst hnear
    obtain ⟨hle, hge⟩ := roundUp_near_within draw m d
    exact ⟨hle, hge, roundUp_near_tie⟩
  case stoch =>
    subst hstoch
    exact add_b1_eq_succ.trans roundUp_stoch_iff

end Sys2Proof.Machine
end

section
/-! SUPPORT. The settlement of O41: a frame push of a level that no source of R303 has. -/

namespace Sys2Proof.Machine

/-! ## The standard handler (R601) -/

theorem standardHandler_above {level : Nat} {frame : List Word} (m : Mod) (t : Nat) (hl : 4 < level) (hc : fld (frame.getD 1 0).toNat 16 8 ≠ 0x10) :
    standardHandler m t level frame = setCtx m t (fun x => { x with entry := none }) := by
  have h3 : level ≠ 3 := by omega
  have h4 : level ≠ 4 := by omega
  simp only [standardHandler, h3, h4, hc, if_false]

/-- A frame push answered without an error, in a thread that runs under the standard handler. -/
theorem framePushed_standard {m : Mod} {t : Nat} {e : Entry} {a : Access} {r : Resp} (he : (ctx m t).entry = some e) (ha : pushAccess m t = some a)
    (hr : a.answer = some r) (hs : r.status = 0) (hstd : (ctx m t).stdHandler = true) :
    framePushed m t = standardHandler (accDel m a.id) t e.level e.frame := by
  have hx : (ctx (accDel m a.id) t).stdHandler = true := hstd
  simp only [framePushed, he, ha, hr, pushStatus, hs, if_true, pushDone, hx]

/-- An entry above level 4 that is no DISPATCH returns at once: the thread lives on as it did. -/
theorem live_framePushed_above {m : Mod} {t : Nat} {e : Entry} {a : Access} {r : Resp} (he : (ctx m t).entry = some e) (ha : pushAccess m t = some a)
    (hr : a.answer = some r) (hs : r.status = 0) (hstd : (ctx m t).stdHandler = true) (hl : 4 < e.level) (hc : fld (e.frame.getD 1 0).toNat 16 8 ≠ 0x10) :
    (ctx (framePushed m t) t).live = (ctx m t).live := by
  rw [framePushed_standard he ha hr hs hstd, standardHandler_above _ t hl hc, ctx_setCtx_self]
  rfl

/-! ## An entry of level 5 -/

/-- An entry of level 5, which no source of R303 has and no command makes; its cause has the code of PAGE_NP. -/
def fifthEntry : Entry := { level := 5, frame := [0x1000, 0x50260000, 0, 0, 0, 0, 0x400000, 0], at_ := 0x3FFFC0 }

/-- Its acknowledgement, and its frame push. -/
def fifthAnswer : Resp := { status := 0, data := [], poison := false, ue := false }
def fifthPush : Access := { mkAccess {} 0 .y .framePush 0x3FFFC0 (.here 0x3FFFC0) 64 with performed := true, answer := some fifthAnswer }

/-- Thread 0 lives under the standard handler, and the frame push of its entry of level 5 is acknowledged. -/
def fifthLevel : State :=
  { pending := [], mod := { cores := [(0, { ctxs := [(0, { live := true, stdHandler := true, ssp := 0x400000, entry := some fifthEntry })] })], accs := [fifthPush] } }

/-- Refutes O41, by the clause that a completed entry of level 3 or more ends a thread under the standard handler: in `fifthLevel`, a state whose entry has the level 5, the thread lives on. The statement would need the level of an entry to be at most 4, as it is in every entry that the model makes (R303). -/
theorem not_exceptionPaths : ¬ Obligations.ExceptionPaths := by
  unfold Obligations.ExceptionPaths
  intro h
  obtain ⟨hpush, -⟩ := h fifthLevel 0
  obtain ⟨-, hends, -⟩ := hpush (by decide +kernel) fifthEntry fifthPush fifthAnswer rfl rfl rfl
  obtain ⟨t, ht, -, hdead⟩ := hends rfl rfl (by decide) rfl
  have hlive : (ctx (framePushed fifthLevel.mod 0) 0).live = true :=
    live_framePushed_above (e := fifthEntry) (a := fifthPush) (r := fifthAnswer) rfl rfl rfl rfl rfl (by decide) (by decide)
  have htt : t = { fifthLevel with mod := framePushed fifthLevel.mod 0 } := Host.Outcome.next.inj (ht.symm.trans rfl)
  rw [htt] at hdead
  exact absurd (hlive.symm.trans hdead) (by decide)

end Sys2Proof.Machine
end

section
/-! SUPPORT. The settlement of O38: an EXIT whose core's queue table holds a number no core has. -/

namespace Sys2Proof.Machine

/-! ## A stray queue at an EXIT -/

/-- Thread 0 lives, with no work item, and may issue. The queue table of core 0 holds the number 130, which is not among the 128 queues of a core and which no command writes there; thread 4, of core 1, has the window of SRF register 3 bound to its queue 2. As the model numbers queues over all cores, 128 * 0 + 130 is the queue 2 of core 1. -/
def strayExit : State :=
  { pending := [], mod := {
      cores := [(0, { ctxs := [(0, { live := true })], queues := [(130, { isOpen := true })] }), (1, { ctxs := [(0, { windows := [(3, 2)] })] })] } }

/-- The EXIT of thread 0, under no guard. -/
def exitIssue : Issue := { thread := 0, guard := { inv := false, pred := 0 } }

/-- What that EXIT leaves of the module. -/
def strayExited : Mod := issueWhole (issNow strayExit.mod exitIssue.thread.toNat) [defExit exitIssue]

theorem strayExit_issues : Issues strayExit.mod exitIssue.thread.toNat (defExit exitIssue) := by
  unfold Issues Settled Clear
  decide +kernel

theorem exec_strayExit : exec (.exit exitIssue) strayExit = .next { strayExit with mod := strayExited } := exec_issues rfl rfl strayExit_issues

theorem strayExit_window : (ctx strayExit.mod 4).windows = [(3, 2)] := by decide +kernel

/-- The end of thread 0 closes the stray queue, and with it unbinds a window of the other core. -/
theorem strayExited_window : (ctx strayExited 4).windows = [] := by decide +kernel

/-- Refutes O38, by the clause that an EXIT without a work item leaves every other thread: in `strayExit`, a state with a queue number past the 128 of a core, it unbinds a window of thread 4. The statement would need the numbers in the queue table of the core to be below 128. -/
theorem not_threadInstructions : ¬ Obligations.ThreadInstructions := by
  unfold Obligations.ThreadInstructions
  intro h
  obtain ⟨-, -, hexit⟩ := h strayExit exitIssue (defExit exitIssue)
  obtain ⟨t, ht, -, -, hothers⟩ := hexit rfl strayExit_issues
  obtain ⟨hctx, -⟩ := hothers rfl
  have htt : t = { strayExit with mod := strayExited } := Host.Outcome.next.inj (ht.symm.trans exec_strayExit)
  have hsame : ctx t.mod 4 = ctx strayExit.mod 4 := hctx 4 (by decide)
  have hwindows := congrArg Ctx.windows hsame
  rw [htt, strayExited_window, strayExit_window] at hwindows
  exact absurd hwindows (by decide)

end Sys2Proof.Machine
end

section
/-! SUPPORT. The settlement of O43: a core whose current context is none of its four. -/

namespace Sys2Proof.Machine

/-! ## A stray current context -/

/-- The quantum of core 0 has expired and its thread 0 is ready. The current context of core 0 is 4, which is not among the four of a core and which no command sets; as the model numbers threads over all cores, 4 * 0 + 4 is thread 4, of core 1, which has issued five bundles of its turn. -/
def strayCurrent : State :=
  { pending := [], mod := { cores := [(0, { cur := 4, expired := true, ctxs := [(0, { live := true })] }), (1, { ctxs := [(0, { qcount := 5 })] })] } }

/-- R337 chooses thread 0: no thread has high priority, and context 0 is the first after context 3. -/
theorem strayCurrent_next : NextThread strayCurrent.mod 0 0 false := by
  have hnormal : ∀ j, j < 4 → (ctx strayCurrent.mod (4 * 0 + j)).prio = false := by decide +kernel
  refine ⟨⟨nofun, fun ⟨j, hthere, hprio⟩ => ?_⟩, ⟨by decide +kernel, nofun⟩, fun j _ => Nat.zero_le _⟩
  exact absurd (hprio.symm.trans (hnormal j hthere.1)) (by decide)

theorem strayCurrent_qcount : (ctx strayCurrent.mod 4).qcount = 5 := by decide +kernel

/-- The switch takes thread 4 for the one that leaves its turn, and returns its count of bundles to 0. -/
theorem strayCurrent_switched_qcount : (ctx (quantumSwitch strayCurrent.mod 0) 4).qcount = 0 := by decide +kernel

/-- Refutes O43, by the clause that a switch leaves every other core: in `strayCurrent`, a state whose current context is past the four of a core, QUANTUM_EXPIRY of core 0 changes thread 4, of core 1. The statement would need the current context to be below 4, as it asks of the contexts last chosen. -/
theorem not_coresSwitchThreads : ¬ Obligations.CoresSwitchThreads := by
  unfold Obligations.CoresSwitchThreads
  intro h
  obtain ⟨hswitch, -⟩ := h
  obtain ⟨-, hexpiry⟩ := hswitch strayCurrent 0 0 false strayCurrent_next (by decide +kernel) (by decide +kernel)
  obtain ⟨t, ht, -, -, hcores, -⟩ := hexpiry rfl
  have htt : t = { strayCurrent with mod := quantumSwitch strayCurrent.mod 0 } := Host.Outcome.next.inj (ht.symm.trans rfl)
  have hcore : core t.mod (4 / 4) = core strayCurrent.mod (4 / 4) := hcores 1 (by decide)
  have hsame : ctx t.mod 4 = ctx strayCurrent.mod 4 := by rw [ctx, ctx, hcore]
  have hqcount := congrArg Ctx.qcount hsame
  rw [htt, strayCurrent_switched_qcount, strayCurrent_qcount] at hqcount
  exact absurd hqcount (by decide)

end Sys2Proof.Machine
end

section
/-! SUPPORT. The settlement of O55: a COPY whose descriptor has fewer than eight words. -/

namespace Sys2Proof.Machine

/-! ## A COPY enters its engine (R565) -/

theorem setRec_clusters (m : Mod) (r : Nat) (f : Rec → Rec) : (setRec m r f).clusters = m.clusters := by
  unfold setRec
  split <;> rfl

/-- A descriptor queued in an engine stands behind those there, with its words as they are. -/
theorem words_enqueue (m : Mod) (q queue : Nat) (d : SDesc) :
    (inQueue (enqueue m q queue d) q queue).map SDesc.words = (inQueue m q queue).map SDesc.words ++ [d.words] := by
  simp [inQueue, enqueue, touchTile]

/-- A COPY of an open job that its engine takes puts the words of `moveWords` behind those queued there. -/
theorem words_copy {s : State} {r : Nat} {x : Rec} {j : Job} (hs : Started s.mod r x 3) (hj : tblFind s.mod.hq.jobs x.job = some j)
    (hroom : (inQueue s.mod x.cluster 64).length < 16) (hheld : queueHeld s.mod x.cluster 64 = false) :
    ∃ t, exec (.copy r) s = .next t ∧ (inQueue t.mod x.cluster 64).map SDesc.words = (inQueue s.mod x.cluster 64).map SDesc.words ++ [moveWords x] := by
  obtain ⟨hrec, hstate, hon, hop⟩ := hs
  have hfull : ¬ 16 ≤ (descsOf s.mod x.cluster 64).length := Nat.not_le.mpr hroom
  refine ⟨{ s with mod := startMove s.mod r x }, ?_, ?_⟩
  · simp [exec, execCopy, withStarted, recFind, hrec, hstate, hon, hop]
  · simp only [startMove, jobFind, hj, hfull, hheld, decide_false, Bool.or_self, Bool.false_eq_true, if_false, words_enqueue, moveDesc]
    simp only [inQueue, cluster, setRec_clusters]

/-! ## A short descriptor -/

/-- A COPY of job 7 whose descriptor has three words; that of every fetch has eight (R553). -/
def shortCopy : Rec := { port := false, ring := 0, words := [0x300000007, 0, 0], at_ := 0, state := .started }

/-- A READY module with job 7 open and that COPY started. -/
def shortCopying : State :=
  { pending := [], mod := { sec := { stage := 3 }, hq := { jobs := [(7, { epoch := 0, xbase := 0, stackBase := 0, stackBytes := 0, members := 0, count := 0 })], recs := [(1, shortCopy)] } } }

theorem shortCopy_started : Started shortCopying.mod 1 shortCopy 3 := ⟨rfl, rfl, by decide +kernel, by decide⟩

/-- Refutes O55, by the clause that the first six words of a COPY's stream descriptor are the body's: in `shortCopying`, whose COPY has the three words of `shortCopy`, the two words that `moveWords` adds move up among the six. The statement would need a descriptor of eight words, as every fetch records it (R553). -/
theorem not_descriptorsExecute : ¬ Obligations.DescriptorsExecute := by
  unfold Obligations.DescriptorsExecute
  intro h
  obtain ⟨-, -, -, -, -, -, -, hmove, -⟩ := h
  obtain ⟨t, d, ht, -, -, hqueue, -, -, -, -, hwords, -⟩ :=
    hmove shortCopying 1 shortCopy _ (.copy 1, 3) (by simp) shortCopy_started rfl (by decide +kernel) (by decide +kernel)
  obtain ⟨t', ht', hqueue'⟩ := words_copy shortCopy_started rfl (by decide +kernel) (by decide +kernel)
  have htt : t' = t := Host.Outcome.next.inj (ht'.symm.trans ht)
  have hd : d.words = moveWords shortCopy := by
    rw [htt] at hqueue'
    have hmap := (congrArg (List.map SDesc.words) hqueue).symm.trans hqueue'
    rw [List.map_append] at hmap
    exact List.singleton_inj.mp (List.append_cancel_left hmap)
  rw [hd] at hwords
  exact absurd hwords (by decide)

end Sys2Proof.Machine
end
